-- ==== Sys2Proof/Word.lean ====
section
/-! DEFINITION. The word types of the Treluz E96 (spec 00 R5, 03 R59, 01 R14). -/

namespace Sys2Proof

/-- A scalar register or a 64-bit word of memory. -/
abbrev Word := BitVec 64

/-- The location of 13 R269. -/
abbrev Byte := BitVec 8

/-- The contents of a vector register, 256 bytes (03 R59). -/
abbrev Vec := BitVec 2048

/-- A byte-lane mask register (01 R14). -/
abbrev Mask := BitVec 256

end Sys2Proof
end

