-- ==== Sys2Proof/Syntax.lean ====
section
/-! DEFINITION. The abstract syntax: one constructor of `Instr` for each row of spec/opcode_table.json. A row that is an
instruction holds its operands; a row that is an event holds what the event is about. -/

namespace Sys2Proof

abbrev SReg := BitVec 6
abbrev VReg := BitVec 4
abbrev PReg := BitVec 3
abbrev MReg := BitVec 3
abbrev TileNo := BitVec 2
abbrev Handle := BitVec 8

/-- W and the guard of an instruction word (02 R40). -/
structure Hd where
  w : Bool
  gn : Bool
  gp : PReg
  deriving DecidableEq, Repr

/-- op2 of 04 R83. -/
inductive Op2 where
  | reg (b : SReg)
  | imm (x : BitVec 48)
  deriving DecidableEq, Repr

/-- The second operand of a lane instruction: a vector, or a broadcast scalar (05 R107). -/
inductive VOp2 where
  | vec (b : VReg)
  | bs (b : SReg)
  deriving DecidableEq, Repr

/-- The rounding field M of an instruction that rounds (02 R44). -/
inductive Rnd where
  | rne | rtz | rup | rdn | dyn
  deriving DecidableEq, Repr

/-- Shift amount of VSHL, VSHR and VSAR (05 R118). -/
inductive ShAmt where
  | vec (b : VReg)
  | imm (x : BitVec 8)
  | bs (b : SReg)
  deriving DecidableEq, Repr

/-- Slide amount of VSLIDE (05 R123). -/
inductive SlAmt where
  | imm (n : BitVec 9)
  | reg (c : SReg)
  deriving DecidableEq, Repr

/-- Source of VBCAST (05 R124). -/
inductive BcSrc where
  | scalar (tag : Fin 9) (a : SReg)
  | elem (a : VReg) (i : BitVec 8)
  deriving DecidableEq, Repr

/-- VPLANE's two forms (05 R132). -/
inductive PlaneForm where
  | pack
  | unpack (n : BitVec 4)
  deriving DecidableEq, Repr

/-- VBND's three forms (05 R133). -/
inductive BndForm where
  | flag (d : MReg)
  | clamp (d : VReg)
  | trap
  deriving DecidableEq, Repr

/-- Destination form of LDR, SBD and PIL (11 R234). -/
inductive LdForm where
  | scalar (sz : Fin 7) (d : SReg)
  | vec (tag : Fin 9) (d : VReg) (m : MReg)
  deriving DecidableEq, Repr

/-- Source form of STR (11 R234). -/
inductive StForm where
  | scalar (sz : Fin 4) (b : SReg)
  | vec (b : VReg) (m : MReg)
  deriving DecidableEq, Repr

/-- Source form of SEND (11 R235). -/
inductive SendForm where
  | v (b : VReg) (m : MReg)
  | d (b : SReg)
  deriving DecidableEq, Repr

/-- Destination form of RLD (11 R236). -/
inductive RldForm where
  | v (tag : Fin 9) (d : VReg)
  | d (d : SReg)
  deriving DecidableEq, Repr

/-- Data of a beat or of a PSEND: a scalar, or part q of a vector (12 R254, 16 R305, 23 R407). -/
inductive BeatData where
  | d (b : SReg)
  | v (b : VReg) (q : BitVec 2)
  deriving DecidableEq, Repr

/-- MSTAT's two forms (10 R217). -/
inductive MstatForm where
  | tile (a : TileNo)
  | eng
  deriving DecidableEq, Repr

/-- INGST's two forms (16 R308). -/
inductive IngForm where
  | rx (w : BitVec 2)
  | drop
  deriving DecidableEq, Repr

/-- TLBI's three forms (17 R320). -/
inductive TlbiForm where
  | va (a : SReg)
  | idx (i : BitVec 10)
  | all
  deriving DecidableEq, Repr

/-- The itinerary field of format N: IPAR and HOP13 to HOP1 (02 R46). -/
structure Itin where
  ipar : Bool
  hops : BitVec 39
  deriving DecidableEq, Repr

/-! ## What an event row is about -/

/-- A berth of a core. -/
structure BId where
  core : Nat
  berth : Nat
  deriving DecidableEq, Repr

/-- The instruction an effect comes from: its berth, issue cycle, PC and workspace (01 R28, 07 R169). `slot` is its place
in the group, the later-issued rank of 01 R25. -/
structure Org where
  core : Nat
  berth : Nat
  issue : Nat
  slot : Nat
  pc : Nat
  wsp : Nat
  deriving DecidableEq, Repr

/-- One register written by a landing (00 R9). -/
inductive DVal where
  | s (r : SReg) (v : Word)
  | p (r : PReg) (v : Bool)
  | m (r : MReg) (v : Mask)
  | v (r : VReg) (data : Vec) (lanes : Mask) (tag : BitVec 4)
  deriving DecidableEq, Repr

/-- A result on its way to the registers of the workspace at `org.wsp` (01 R24). -/
structure Landing where
  org : Org
  dests : List DVal
  flags : BitVec 9
  deriving DecidableEq, Repr

/-- A write of bytes to a place: byte i of `data` goes to `key` + i where bit i of `mask` is set, poisoned where bit i of
`psn` is set. `rank` is the party's rank at the port (06 R146, 11 R232). -/
structure Wr where
  org : Option Org
  key : Nat
  len : Nat
  data : Nat
  mask : Nat
  psn : Nat
  rank : Nat
  deriving DecidableEq, Repr

/-- A record-port or core-port write of a room (11 R231): bytes, or one of the stamp and flag writes of the record at room-local
offset `h`. -/
inductive RoomWr where
  | bytes (w : Wr)
  | stamp (org : Option Org) (core : Nat) (h : Nat) (v : BitVec 32)
  | sflag (org : Option Org) (core : Nat) (h : Nat)
  | bflag (org : Option Org) (core : Nat) (h : Nat)
  | used (key : Nat)
  deriving DecidableEq, Repr

/-- What a mesh packet does at its destination (11 R220). -/
inductive PktAct where
  | write (w : Wr)
  | read (d : RldForm)
  | atomic (op : Fin 9) (dbl : Bool) (d : SReg) (operand cmp : Word)
  deriving DecidableEq, Repr

/-- A packet on the mesh: `dest` the E96 core below or at the destination, `up` its room, `off` the offset there, `hops`
the mesh hops taken, `start` the core at which it was injected (11 R222, R225). -/
structure Packet where
  id : Nat
  org : Org
  start : Nat
  hops : List Nat
  dest : Nat
  up : Bool
  off : Nat
  inj : Nat
  act : PktAct
  deriving DecidableEq, Repr

/-- The reply of an RLD or a RAMO (11 R224). -/
structure Reply where
  id : Nat
  org : Org
  dest : DVal
  psn : Bool
  room : Bool
  tinfo : BitVec 32
  /-- The mesh link by which it arrives, for the firmware's count of its errors (20 R365). -/
  link : Option Nat := none
  deriving DecidableEq, Repr

/-- A courier request as its beat carries it (17 R313, R320), or what a PSEND sends beside its data (23 R407). -/
inductive CReq where
  | copy (dir : Nat) (place : Nat) (fmt planes rows cols stride : Nat) (sa sb sc : Word) (h win id : Nat)
  | tlbw (va : Word) (entry : Word) (idx : Nat)
  | res (copy core : Nat) (abandon : Bool)
  | tlbi (f : TlbiForm) (va : Word)
  | psend (a tier entry : Nat) (it : Itin) (form wb : Nat)
  deriving DecidableEq, Repr

/-- A beat of the stack broadcast bus (12 R244), with E96 tiers in `src` and `dtier`. `tries` counts its sendings, `org` is its
sending instruction, `part` the partition in whose positions it is sent (8: any), `req` the payload of a courier request. -/
structure Beat where
  kind : Nat
  src : Nat
  dtier : Nat
  dpos : Nat
  off : Nat
  aop : Nat
  psn : Bool
  data : Nat
  org : Option Org
  part : Nat
  dreg : Option SReg
  tries : Nat
  copy : Nat
  seg : Nat
  req : Option CReq
  deriving DecidableEq, Repr

/-- A group of 64 bytes of a drain (10 R213): group `g` writes `data` at `key`, with poison where `psn` is set. -/
structure DrainGroup where
  org : Org
  g : Nat
  key : Nat
  data : Nat
  psn : Nat
  /-- Injection cycle, and the mesh link by which the group arrives (11 R229, 20 R365). -/
  inj : Nat := 0
  link : Option Nat := none
  deriving DecidableEq, Repr

/-- The macro-ops that hold a resource of the MXE (09 R192). -/
inductive MacroOp where
  | mbld | mmac | mzero | mbias | mdrain | msave | mrestore
  deriving DecidableEq, Repr

/-- A received Ethernet frame as it leaves the FCS check (16 R293): its port, stream handle, payload and 802.1CB number. -/
structure Frame where
  port : Nat
  dst : BitVec 48
  src : BitVec 48
  vlan : BitVec 12
  payload : List Byte
  fcsOk : Bool
  jumbo : Bool
  seqno : Option Nat
  deriving DecidableEq, Repr

/-- A stream filter of 802.1Qci (16 R292): frames are identified by a MAC address, the source's or the destination's, and VLAN ID; the
result is a stream handle, and the frame passes the filter's gate and meter. -/
structure StreamFilter where
  bySrc : Bool
  mac : BitVec 48
  vlan : BitVec 12
  handle : Nat
  gate : Option Nat := none
  meter : Option Nat := none
  deriving DecidableEq, Repr

/-- What an entry of a table of the Ethernet ports takes as new contents (16 R292, R300). Windows are [open, close) in GT units, and repeat with a cycle
when it is not 0: the 802.1Qbv windows of a port as (class, open, close), those of a Qci stream gate, the rates (bytes per 2^32 GT units)
and burst sizes of a two-rate three-colour meter, a stream filter, the stream of an 802.1CB member-stream pair with its history and the time
without a frame after which its recovery is reset (0 for none), the ports to which a frame of the egress table is replicated, the classes that a
port's preemptable MAC sends with its least fragment, and the port that is gPTP's slave. -/
inductive EthTable where
  | qbv (cycle : Nat) (list : List (Nat × Nat × Nat))
  | gate (cycle : Nat) (list : List (Nat × Nat))
  | meter (cir cbs eir ebs : Nat)
  | filter (f : StreamFilter)
  | pair (handle history reset : Nat)
  | replicate (part frame : Nat) (ports : BitVec 4)
  | preempt (classes : BitVec 8) (fragment : Nat)
  | slave
  deriving DecidableEq, Repr

/-- The limits of 16 R292 on the contents of entry n: a port, a gate, a meter, a filter, a member-stream pair, a replicated frame. -/
def EthTable.ok (n : Nat) : EthTable → Bool
  | .qbv _ l => n < 4 && l.length ≤ 1024
  | .gate _ l => n < 64 && l.length ≤ 1024
  | .meter .. => n < 64
  | .filter f => n < 256 && f.handle < 256 && f.gate.all (· < 64) && f.meter.all (· < 64)
  | .pair h k _ => n < 64 && h < 256 && 1 ≤ k && k ≤ 32
  | .replicate p f _ => n < 64 && p < 8 && f < 64
  | .preempt _ k => n < 4 && 64 ≤ k && k ≤ 256
  | .slave => n < 4

/-- A hart of the hall (00 R1): a control core, an application core, the management core. -/
inductive Hart where
  | control (n : Nat)
  | app (n : Nat)
  | mgmt
  deriving DecidableEq, Repr

/-- Its number among the 13 harts. -/
def Hart.num : Hart → Nat
  | .control n => n % 8
  | .app n => 8 + n % 4
  | .mgmt => 12

/-- What a hart's address counts in: the physical addresses of 18 R420, a control core's own memory (00 R4), or the registers of the scan
sequencer (16 R287), to which R420 gives no offset; the last two spaces are the model's (A32, DESIGN CHOICE). -/
inductive HartSpace where
  | bus | own | seq
  deriving DecidableEq, Repr

/-- A hart's address: for a store on the bus, its offset from the register space's base. -/
structure HartAddr where
  hart : Hart
  addr : Nat
  space : HartSpace
  deriving DecidableEq, Repr

/-- A load of a hart, of `len` bytes. -/
structure HartLoad where
  hart : Hart
  addr : Nat
  len : Nat
  space : HartSpace
  deriving DecidableEq, Repr

/-- A frame of the pair link (23 R395). -/
structure PairFrame where
  kind : Nat
  part : Nat
  pairid : Bool
  mark : Nat
  seq : Nat
  scn : BitVec 32
  role : Nat
  fit : Bool
  taken : Bool
  alarm : Bool
  psn : Bool
  payload : Nat
  a : Nat
  tier : Nat
  entry : Nat
  itin : Itin
  form : Nat
  wb : Nat
  /-- The bits that the copy of each port brings inverted: 128 of the header, those of the payload, 32 of the CRC (A3). -/
  flips : Nat × Nat
  deriving DecidableEq, Repr

/-! ## Plan image (18 R343; the spec lists its contents and no coding, A10) -/

structure BerthPlan where
  berth : Nat
  entry : Nat
  super : Bool
  wsp : Nat
  isl : Nat
  win0 : Word
  win1 : Word
  uword : Word
  /-- A workspace alone: the plan leaves the berth asleep (08 R180). -/
  asleep : Bool := false
  deriving DecidableEq, Repr

/-- A row of the phase table (06 R139): MARK, and ENTRY(b) for the berths with EV(b) = 1. -/
structure PhaseRow where
  mark : Nat
  entries : List (Nat × Nat)
  deriving DecidableEq, Repr

structure RingRow where
  base : Nat
  sizem1 : Nat
  valid : Bool
  deriving DecidableEq, Repr

structure CorePlan where
  core : Nat
  berths : List BerthPlan
  tvec : Nat
  yieldm : BitVec 16
  trtb : Word
  mxown : Word
  dbgctl : Word
  dbgaddr : Word
  phases : List PhaseRow
  fifoUp : Nat
  fifoDn : Nat
  rings : List RingRow
  deriving DecidableEq, Repr

/-- A row of the owner map (09 R189). -/
structure OwnerRow where
  start : Nat
  fin : Nat
  owner : Nat
  valid : Bool
  islrel : Bool
  deriving DecidableEq, Repr

/-- A courier window (17 R312). -/
structure WindowRow where
  start : Nat
  fin : Nat
  tier : Nat
  pos : Nat
  dir : Nat
  valid : Bool
  deriving DecidableEq, Repr

/-- A row of the journey table (18 R326). -/
structure JourneyRow where
  start : Nat
  budget : Nat
  berths : BitVec 16
  tiles : BitVec 4
  nplc : Nat
  valid : Bool
  inh : Nat
  saveoff : Nat
  plc : List Nat
  coff : Nat
  clen : Nat
  deriving DecidableEq, Repr

/-- A stream-map entry (16 R295). -/
structure StreamRow where
  offset : Nat
  length : Nat
  pstart : Nat
  stream : Nat
  valid : Bool
  spol : Nat
  limit : BitVec 32
  deriving DecidableEq, Repr

/-- A delivery row (16 R297). -/
structure DeliverRow where
  roomoff : Nat
  tier : Nat
  pos : Nat
  valid : Bool
  entry : Nat
  start : Nat
  deriving DecidableEq, Repr

/-- An output record (16 R299). -/
structure OutRow where
  offset : Nat
  length : Nat
  owner : Bool
  policy : Nat
  valid : Bool
  stb : Nat
  stben : Bool
  limit : BitVec 32
  deriving DecidableEq, Repr

/-- An egress frame (16 R299). `tclass` is the traffic class that its template names. -/
structure FrameRow where
  port : Nat
  valid : Bool
  tpl : Nat
  tlen : Nat
  payoff : Nat
  paylen : Nat
  txoff : Nat
  tclass : Nat
  deriving DecidableEq, Repr

/-- XLB or SVB (17 R318). -/
structure XbRow where
  tier : Nat
  pos : Nat
  berth : Nat
  valid : Bool
  queue : Nat
  deriving DecidableEq, Repr

/-- The tables in which a fallback variant may differ from the base plan (18 R346). -/
structure Variant where
  dmask : BitVec 24
  cores : List CorePlan
  owners : List (Nat × List OwnerRow)
  journeys : List JourneyRow
  lines : List (Nat × BitVec 512)
  deriving DecidableEq, Repr

/-- A plan image (18 R343). `lines` gives fetch lines by their key core * 4096 + line in logical cores of the partition;
`image` gives bytes of workspace stores, rooms and B stores by place address (13 R265), parity good. `fmin` is a clock
step (22 R381). `sigOk` says whether its signature verifies, `reservedOk` that no reserved field is set. -/
structure Plan where
  version : Nat
  sigOk : Bool
  reservedOk : Bool
  len : Nat
  fmin : Nat
  period : Option Nat
  cores : List CorePlan
  owners : List (Nat × List OwnerRow)
  slotmaps : List (List Nat)
  windows : List WindowRow
  journeys : List JourneyRow
  streams : List StreamRow
  delivers : List DeliverRow
  outrecs : List OutRow
  frames : List FrameRow
  defIn : List (Nat × Byte)
  defOut : List (Nat × Byte)
  image : List (Nat × Byte)
  lines : List (Nat × BitVec 512)
  /-- The waymark table of each logical core: the PCs of its waymark groups. -/
  waymarks : List (Nat × List Nat) := []
  xlb : XbRow
  svb : XbRow
  variants : List Variant
  deriving DecidableEq, Repr

/-- A partition row as the management firmware sets it (18 R341, 22 R392), with the CTLB share of 17 R318. -/
structure PartRow where
  clmask : BitVec 24 := 0
  valid : Bool := false
  a40 : Bool := false
  smbase : Nat := 0
  smcnt : Nat := 0
  ombase : Nat := 0
  omcnt : Nat := 0
  slots : BitVec 64 := 0
  hbase : Nat := 0
  hsize : Nat := 0
  fbase : Nat := 0
  fsize : Nat := 0
  prelat : Nat := 1150
  fenc : Bool := false
  tlbbase : Nat := 0
  tlbcnt : Nat := 0
  deriving DecidableEq, Repr

/-- What the firmware does when a threshold is reached (20 R365). -/
inductive Repair where
  | mapOut (core : Nat)
  | clearLink (tier mesh dir : Nat)
  /-- LINK and TURN of a gazetteer word (11 R228). -/
  | gazWrite (tier mesh : Nat) (link : BitVec 5) (turn : BitVec 16)
  | degrade (cluster : Nat)
  | pfail (code : Nat)
  deriving DecidableEq, Repr

/-- A signed test package (20 R366): the first 16 bytes of its header, the site or cluster it is for, whether its signature verifies, and
its outcome. -/
structure TestPkg where
  head : BitVec 128
  unit : Nat
  sigOk : Bool
  pass : Bool
  deriving DecidableEq, Repr

/-- The fields of the header of 20 R366. -/
def TestPkg.magic (t : TestPkg) : BitVec 32 := t.head.extractLsb' 0 32
def TestPkg.version (t : TestPkg) : Nat := (t.head.extractLsb' 32 16).toNat
def TestPkg.covid (t : TestPkg) : BitVec 16 := t.head.extractLsb' 48 16
def TestPkg.target (t : TestPkg) : Nat := (t.head.extractLsb' 64 2).toNat
def TestPkg.nvec (t : TestPkg) : BitVec 32 := t.head.extractLsb' 96 32

/-- The header is one: its MAGIC, a target, its zero bits. -/
def TestPkg.headOk (t : TestPkg) : Bool :=
  t.magic = 0x5450_4B31 && t.target < 3 && t.head.extractLsb' 66 30 = 0

/-- What a firmware image offers to the boot ROM (22 R389). -/
structure FwImage where
  id : Nat
  version : Nat
  sigOk : Bool
  keyOk : Bool
  deriving DecidableEq, Repr

/-- The images that the boot EEPROM holds, the firmware's and the application cores', and what the firmware sets after its built-in
test: the spares and the gazetteers (22 R389). -/
structure BootImages where
  fw : Option FwImage
  app : Option FwImage
  found : List Repair
  deriving DecidableEq, Repr

/-- The state of a far word as the LPDDR-6 devices give it (17 R310). -/
inductive Ecc where
  | good | corr | unc | poison
  deriving DecidableEq, Repr

/-- The sources of a freeze request (20 R367). -/
inductive FreezeSrc where
  | pin | debug | jtag
  deriving DecidableEq, Repr

/-- The arrays that patrol scrub covers (20 R357). -/
inductive ScrubArr where
  | room (core : Nat)
  | bstore (cluster : Nat)
  | hall
  | replica (tier : Nat)
  deriving DecidableEq, Repr

/-- The rows of spec/opcode_table.json. -/
inductive Instr where
  -- berth
  | berthTurn (b : BId)
  | lineRefetchWrite (core line : Nat)
  | asyncTrapDelivery (b : BId)
  | landing (l : Landing)
  | storeEffect (w : Wr)
  -- scalar, control and timetable
  | nop (h : Hd)
  | add (h : Hd) (d a b : SReg)
  | addi (h : Hd) (d a : SReg) (x : BitVec 48)
  | sub (h : Hd) (d a b : SReg)
  | mul (h : Hd) (d a b : SReg)
  | mulh (h : Hd) (d a b : SReg)
  | mulhu (h : Hd) (d a b : SReg)
  | div (h : Hd) (d a b : SReg)
  | divu (h : Hd) (d a b : SReg)
  | rem (h : Hd) (d a b : SReg)
  | remu (h : Hd) (d a b : SReg)
  | and (h : Hd) (d a : SReg) (o : Op2)
  | or (h : Hd) (d a : SReg) (o : Op2)
  | xor (h : Hd) (d a : SReg) (o : Op2)
  | andn (h : Hd) (d a : SReg) (o : Op2)
  | orn (h : Hd) (d a : SReg) (o : Op2)
  | shl (h : Hd) (d a : SReg) (o : Op2)
  | shr (h : Hd) (d a : SReg) (o : Op2)
  | sar (h : Hd) (d a : SReg) (o : Op2)
  | rol (h : Hd) (d a : SReg) (o : Op2)
  | clz (h : Hd) (d a : SReg)
  | ctz (h : Hd) (d a : SReg)
  | popc (h : Hd) (d a : SReg)
  | brev (h : Hd) (d a : SReg)
  | min (h : Hd) (d a : SReg) (o : Op2)
  | max (h : Hd) (d a : SReg) (o : Op2)
  | minu (h : Hd) (d a : SReg) (o : Op2)
  | maxu (h : Hd) (d a : SReg) (o : Op2)
  | abs (h : Hd) (d a : SReg)
  | movi (h : Hd) (d : SReg) (x : BitVec 48)
  | movhi (h : Hd) (d a : SReg) (x : BitVec 16)
  | sext (h : Hd) (d a : SReg) (w1 : BitVec 6)
  | zext (h : Hd) (d a : SReg) (w1 : BitVec 6)
  | extb (h : Hd) (sg : Bool) (d a : SReg) (pos len1 : BitVec 6)
  | insb (h : Hd) (d a : SReg) (pos len1 : BitVec 6)
  | clmul (h : Hd) (d a b : SReg)
  | clmulh (h : Hd) (d a b : SReg)
  | lea (h : Hd) (d a b : SReg) (sh : BitVec 3) (x : BitVec 48)
  | cmp (h : Hd) (cond : BitVec 3) (d c : PReg) (a b : SReg)
  | cmpi (h : Hd) (cond : BitVec 3) (d c : PReg) (a : SReg) (x : BitVec 48)
  | plog (h : Hd) (op : BitVec 3) (d a b : PReg)
  | sel (h : Hd) (d a b : SReg) (c : PReg)
  | fadd (h : Hd) (rm : Rnd) (d a b : SReg)
  | fsub (h : Hd) (rm : Rnd) (d a b : SReg)
  | fmul (h : Hd) (rm : Rnd) (d a b : SReg)
  | ffma (h : Hd) (form : BitVec 2) (rm : Rnd) (d a b c : SReg)
  | fdiv (h : Hd) (rm : Rnd) (d a b : SReg)
  | fsqrt (h : Hd) (rm : Rnd) (d a : SReg)
  | fmin (h : Hd) (d a b : SReg)
  | fmax (h : Hd) (d a b : SReg)
  | fcmp (h : Hd) (cond : BitVec 2) (d c : PReg) (a b : SReg)
  | fcvt (h : Hd) (kind : Fin 10) (rm : Rnd) (d a : SReg)
  | br (h : Hd) (loff : BitVec 45) (ts : Fin 5)
  | jmp (h : Hd) (a : SReg)
  | call (h : Hd) (d : SReg) (loff : BitVec 45) (ts : Fin 5)
  | callr (h : Hd) (d a : SReg)
  | ret (h : Hd) (a : SReg)
  | loop (h : Hd) (a : SReg) (loff : BitVec 45) (ts : Fin 5)
  | brx (h : Hd) (a : SReg) (loff : BitVec 45) (ts : Fin 5)
  | waitc (h : Hd) (a : SReg) (x : BitVec 32)
  | waitcItc (h : Hd) (a : SReg) (x : BitVec 32)
  | waitr (h : Hd) (a : SReg) (x : BitVec 32)
  | waitEnd (b : BId)
  | resync (h : Hd)
  | resyncTo (h : Hd) (a : SReg)
  | rdtt (h : Hd) (sel : BitVec 3) (d : SReg)
  -- vector
  | vadd (h : Hd) (sat : Bool) (rm : Rnd) (k : MReg) (d a : VReg) (o : VOp2)
  | vsub (h : Hd) (sat : Bool) (rm : Rnd) (k : MReg) (d a : VReg) (o : VOp2)
  | vmul (h : Hd) (sat : Bool) (rm : Rnd) (k : MReg) (d a : VReg) (o : VOp2)
  | vfma (h : Hd) (rm : Rnd) (k : MReg) (d a : VReg) (o : VOp2)
  | vfms (h : Hd) (rm : Rnd) (k : MReg) (d a : VReg) (o : VOp2)
  | vmin (h : Hd) (k : MReg) (d a : VReg) (o : VOp2)
  | vmax (h : Hd) (k : MReg) (d a : VReg) (o : VOp2)
  | vabs (h : Hd) (sat : Bool) (k : MReg) (d a : VReg)
  | vneg (h : Hd) (sat : Bool) (k : MReg) (d a : VReg)
  | vrcp (h : Hd) (k : MReg) (d a : VReg)
  | vrsq (h : Hd) (k : MReg) (d a : VReg)
  | vexp2 (h : Hd) (k : MReg) (d a : VReg)
  | vlog2 (h : Hd) (k : MReg) (d a : VReg)
  | vdiv (h : Hd) (rm : Rnd) (k : MReg) (d a b : VReg)
  | vsqrt (h : Hd) (rm : Rnd) (k : MReg) (d a : VReg)
  | vcmp (h : Hd) (cond : Fin 7) (k : MReg) (d : MReg) (a : VReg) (o : VOp2)
  | vsel (h : Hd) (k : MReg) (d a b : VReg) (c : MReg)
  | vand (h : Hd) (k : MReg) (d a : VReg) (o : VOp2)
  | vor (h : Hd) (k : MReg) (d a : VReg) (o : VOp2)
  | vxor (h : Hd) (k : MReg) (d a : VReg) (o : VOp2)
  | vnot (h : Hd) (k : MReg) (d a : VReg)
  | vshl (h : Hd) (k : MReg) (d a : VReg) (n : ShAmt)
  | vshr (h : Hd) (k : MReg) (d a : VReg) (n : ShAmt)
  | vsar (h : Hd) (k : MReg) (d a : VReg) (n : ShAmt)
  | vclmul (h : Hd) (hi : Bool) (k : MReg) (d a : VReg) (o : VOp2)
  | vpopc (h : Hd) (k : MReg) (d a : VReg)
  | vclz (h : Hd) (k : MReg) (d a : VReg)
  | vperm (h : Hd) (k : MReg) (d a b : VReg)
  | vshuf (h : Hd) (pat : Fin 5) (k : MReg) (d a b : VReg)
  | vslide (h : Hd) (up : Bool) (k : MReg) (d a b : VReg) (n : SlAmt)
  | vbcast (h : Hd) (k : MReg) (d : VReg) (src : BcSrc)
  | vextr (h : Hd) (sg : Bool) (d : SReg) (a : VReg) (b : SReg) (x : BitVec 16)
  | vins (h : Hd) (d : VReg) (a b : SReg) (x : BitVec 16)
  | vred (h : Hd) (op : Fin 6) (rm : Rnd) (k : MReg) (d : SReg) (a : VReg)
  | vscan (h : Hd) (op : Fin 3) (rm : Rnd) (k : MReg) (d a : VReg)
  | vcvt (h : Hd) (t : Fin 7) (rm : Rnd) (k : MReg) (q : BitVec 2) (d a : VReg)
  | vtag (h : Hd) (t : Fin 9) (d a : VReg)
  | vqnt (h : Hd) (uns : Bool) (rm : Rnd) (k : MReg) (q : BitVec 2) (d a : VReg) (b : SReg)
  | vdqnt (h : Hd) (t : Fin 3) (rm : Rnd) (k : MReg) (q : BitVec 2) (d a : VReg) (b : SReg) (n : BitVec 4) (centre : Bool)
  | vplane (h : Hd) (form : PlaneForm) (d a : VReg)
  | vbnd (h : Hd) (form : BndForm) (k : MReg) (a : VReg) (b c : SReg)
  | vdot4 (h : Hd) (sat : Bool) (k : MReg) (d a b : VReg)
  | vmlog (h : Hd) (op : BitVec 3) (d a b : MReg)
  | vmpop (h : Hd) (k : MReg) (d : SReg) (a : MReg)
  | vmfirst (h : Hd) (last : Bool) (k : MReg) (d : SReg) (a : MReg)
  -- workspace store, system
  | ld (h : Hd) (sz : Fin 7) (d a : SReg) (x : BitVec 48)
  | st (h : Hd) (sz : Fin 4) (a b : SReg) (x : BitVec 48)
  | vld (h : Hd) (tag : Fin 9) (k : MReg) (d : VReg) (a : SReg) (x : BitVec 48)
  | vst (h : Hd) (k : MReg) (a : SReg) (b : VReg) (x : BitVec 48)
  | vldx (h : Hd) (tag : Fin 9) (k : MReg) (d : VReg) (a : SReg) (b : VReg) (x : BitVec 48)
  | vstx (h : Hd) (k : MReg) (a : SReg) (b c : VReg) (x : BitVec 48)
  | amoadd (h : Hd) (dbl : Bool) (d a b : SReg) (x : BitVec 48)
  | amoswp (h : Hd) (dbl : Bool) (d a b : SReg) (x : BitVec 48)
  | amocas (h : Hd) (dbl : Bool) (d a b c : SReg) (x : BitVec 48)
  | amomin (h : Hd) (dbl uns : Bool) (d a b : SReg) (x : BitVec 48)
  | amomax (h : Hd) (dbl uns : Bool) (d a b : SReg) (x : BitVec 48)
  | amoand (h : Hd) (dbl : Bool) (d a b : SReg) (x : BitVec 48)
  | amoor (h : Hd) (dbl : Bool) (d a b : SReg) (x : BitVec 48)
  | xwsp (h : Hd) (d a : SReg)
  | xwspTask (h : Hd) (d a : SReg)
  | mfc (h : Hd) (d : SReg) (reg : BitVec 8) (berth : BitVec 4)
  | mtc (h : Hd) (a : SReg) (reg : BitVec 8) (berth : BitVec 4)
  | trap (h : Hd) (x : BitVec 32)
  | rte (h : Hd)
  | svc (h : Hd) (x : BitVec 32)
  | halt (h : Hd)
  | fence (h : Hd) (from_ to_ : BitVec 7)
  | dbgBrk (h : Hd) (x : BitVec 32)
  | dbgMark (h : Hd) (x : BitVec 32)
  | railUp (h : Hd)
  | railDn (h : Hd)
  | railDenseReached (cluster : Nat)
  | railNominalReached (cluster : Nat)
  | yieldm (h : Hd) (d a : SReg)
  | gatedTurn (b : BId)
  | pwrst (h : Hd) (d : SReg)
  | preemptionStop (b : BId) (sub : Nat)
  | deferredPreemption (b : BId)
  -- matrix
  | mbld (h : Hd) (hn : Handle)
  | mbsel (h : Hd) (hn : Handle)
  | mmac (h : Hd) (mode : BitVec 8) (tile : TileNo) (a : SReg) (hn : Handle) (ks : BitVec 7)
  | mmacCompletion (cluster : Nat)
  | mmacStop (cluster : Nat)
  | mzero (h : Hd) (f32 : Bool) (d : TileNo)
  | mbias (h : Hd) (row : Bool) (d : TileNo) (b : VReg)
  | mdrain (h : Hd) (a : TileNo) (b c : SReg) (it : Itin) (nd : BitVec 8)
  | mdrainWake (h : Hd) (a : TileNo) (b c : SReg) (it : Itin) (nd : BitVec 8)
  | drainGroupEffect (g : DrainGroup)
  | msave (h : Hd) (a : TileNo) (b : SReg)
  | mrestore (h : Hd) (d : TileNo) (b : SReg)
  | macroOpCompletion (cluster : Nat) (op : MacroOp) (tile : Nat)
  | mchk (h : Hd) (sel : Fin 3) (d : SReg) (a : TileNo)
  | mstat (h : Hd) (d : SReg) (form : MstatForm)
  -- tier
  | ldr (h : Hd) (form : LdForm) (a : SReg) (x : BitVec 48)
  | str (h : Hd) (form : StForm) (a : SReg) (x : BitVec 48)
  | send (h : Hd) (form : SendForm) (a : SReg) (it : Itin) (nd : BitVec 8)
  | rld (h : Hd) (form : RldForm) (a : SReg) (it : Itin) (nd : BitVec 8)
  | ramo (h : Hd) (op : Fin 9) (dbl : Bool) (d a b c : SReg) (it : Itin) (nd : BitVec 8)
  | wake (h : Hd) (b : SReg) (it : Itin)
  | wakeEffect (b : BId)
  | waitw (h : Hd) (itc : Bool) (d a b : SReg) (x : BitVec 32)
  | waitwWakeSeen (b : BId)
  | waitwDeadline (b : BId)
  | mapr (h : Hd) (d a : SReg) (x : BitVec 5)
  | itchk (h : Hd) (f : Fin 3) (d : SReg) (it : Itin)
  | meshPacketDelivery (p : Packet)
  | remoteReplyLanding (r : Reply)
  -- stack
  | sbw (h : Hd) (dir : Option SReg) (data : BeatData) (a : SReg) (x : BitVec 48)
  | sbamo (h : Hd) (op : Fin 9) (dbl : Bool) (d a b c : SReg) (x : BitVec 48)
  | sbd (h : Hd) (form : LdForm) (a : SReg) (x : BitVec 48)
  | sbmap (h : Hd) (n : BitVec 3)
  | sbseq (h : Hd) (f : Fin 3) (d : SReg)
  | stackBeat (b : Beat)
  | nackResend (b : Beat)
  | directedBeatEffect (b : Beat)
  | resyncCopyBeat (line : Nat)
  | stairw (h : Hd) (dn : Bool) (b : VReg)
  | stairwellEntryWrite (core : Nat) (dn : Bool) (k : Nat) (data : Vec) (tag : BitVec 4)
  | stairr (h : Hd) (dn : Bool) (d : VReg)
  | stairwellCreditReturn (core : Nat) (dn : Bool)
  | stairf (h : Hd) (dn : Bool) (d : SReg)
  | tgate (h : Hd) (d a b : SReg)
  | twake (h : Hd) (d a : SReg)
  -- package: images
  | pil (h : Hd) (form : LdForm) (a b : SReg) (x : BitVec 48)
  | pos (h : Hd) (data : BeatData) (a c : SReg) (x : BitVec 48)
  | hallOutputWrite (b : Beat)
  | stampH (h : Hd) (b : SReg) (hn : Handle)
  | stampO (h : Hd) (b c : SReg)
  | stale (h : Hd) (q : Bool) (d : SReg) (hn : Handle)
  | scnr (h : Hd) (f : BitVec 2) (d : SReg)
  | ingst (h : Hd) (d : SReg) (form : IngForm)
  -- package: courier
  | cpy (h : Hd) (dir : BitVec 2) (d a b c : SReg) (hn : Handle) (win : BitVec 6)
  | courierRequestAccept (part : Nat) (org : Org) (r : CReq)
  | translationMiss (copy : Nat)
  | courierInboundBeat (copy : Nat) (seg : Nat) (b : Beat)
  | courierOutboundBeat (copy : Nat) (seg : Nat) (b : Beat)
  | sideLogReplay (part : Nat) (vpn : Nat)
  | copyFaultStop (copy : Nat) (fcode : Nat) (row col : Nat)
  | receiptWrite (copy : Nat) (pad : Bool)
  | rcptw (h : Hd) (d : SReg) (ring : BitVec 2) (win : BitVec 6)
  | rcptwReceiptSeen (b : BId)
  | rcptwDeadline (b : BId)
  | rcptr (h : Hd) (d : VReg) (ring : BitVec 2)
  | tlbwW (h : Hd) (a b : SReg) (idx : BitVec 10)
  | tlbwRes (h : Hd) (a b : SReg)
  | tlbi (h : Hd) (form : TlbiForm)
  | xlget (h : Hd) (d : SReg)
  -- package: journeys
  | jyld (h : Hd)
  | jbud (h : Hd) (f : Fin 3) (d : SReg)
  | preqStop (h : Hd) (d a b : SReg)
  | preqRel (h : Hd) (d a b : SReg)
  | budgetEnd (part j : Nat)
  | journeyParked (part j : Nat)
  | journeyWindowOpen (part j : Nat)
  | journeyCarry (part j : Nat)
  -- pair
  | psend (h : Hd) (wk : Bool) (data : BeatData) (a c : SReg) (it : Itin) (nd : BitVec 8)
  | pdigAdd (h : Hd) (a b : SReg) (x : BitVec 48)
  | pdigRd (h : Hd) (d : SReg)
  | prole (h : Hd) (d : SReg)
  | ptakeTake (h : Hd) (d : SReg)
  | ptakeResign (h : Hd) (d : SReg)
  -- events of the package
  | scanOverrun (b : BId)
  | phaseMark (core k : Nat)
  | rollback (core : Nat)
  | deliveryBeat (part row i : Nat)
  | egressFrameTransmit (part f : Nat)
  | pairNackResend (p seq : Nat)
  | pairFrameDeadline (p seq : Nat)
  | hbDue (p mark : Nat) (dig : Bool) (scn : BitVec 32)
  | roomWriteEffect (w : RoomWr)
  | farMemoryAccess (copy seg : Nat) (wr : Bool)
  | berthRelease (b : BId)
  | digestFold (core : Nat) (data : List Word) (psn : Bool)
  -- rows that the model's own code never builds: acts of the outside, and events that the agenda holds as `Aux`
  | frameReceive (f : Frame)
  | gateListExchange (n : Nat) (t : EthTable)
  | syncLock
  | syncLoss
  | greqStore (c : Nat) (v : Word)
  | gateResult (c : Nat)
  | commonRoomWindowStore (off len data : Nat)
  | outputViewStore (off len data : Nat)
  | hallRegisterWrite (a : HartAddr) (v : Word)
  | counterReadClear (l : HartLoad)
  | plcmdStage (p : Nat) (img : Plan)
  | planVerifyDone (p : Nat)
  | plcmdActivate (p : Nat)
  | planLoadDone (p : Nat)
  | plcmdAbort (p : Nat)
  | plcmdStop (p : Nat)
  | freqreqWrite (v : Word)
  | railRampComplete
  | undervoltAdjust (cluster : Nat) (lower : Bool)
  | thermalSample (temps : List Nat)
  | firmwareRepairAction (r : Repair)
  | testPackageApply (t : TestPkg)
  | freezeRequest (src : FreezeSrc)
  | reset
  | aonPowerUp
  | boot (imgs : BootImages)
  | fuseBlow (field minimum : Nat) (signed : Bool)
  | attcmdWrite (p : Nat) (v : Word)
  | ppsPulse
  | pairFrameReceive (f : PairFrame)
  | hallSramStore (off len data : Nat)
  | attestationReportDone (p : Nat)
  | testPackageDone
  | hostBootImageWrite (img : FwImage)
  | supplyLoss
  | partitionConfigure (p : Nat) (r : PartRow)
  | scanEdge
  | patrolScrub (a : ScrubArr)
  | decisionPoint (p : Nat)
  | rsyLineSend (p line : Nat)
  | tierGateEffect (tier : Nat)
  | tierWakeW (tier : Nat)
  | qbvWindowOpening (port tclass : Nat)
  deriving DecidableEq, Repr

end Sys2Proof
end

