-- ==== Sys2Proof/Machine/State.lean ====
section
/-! DEFINITION. The state of one E96 package as plain data, its reset, and the reasons a step can stop. Each field names the
rule of spec/ that gives it. "A1" is the log entry of the values that the model names where the spec gives no reset value. -/

namespace Sys2Proof.Machine

/-- A finite map from numbers, sorted by key, with no key twice; a key not listed has the reader's default. -/
abbrev Tbl (α : Type) := List (Nat × α)

/-! ## Berth -/

/-- The trap words of an instruction (01 R18): cause, SUB, TINFO, TCOORD and the PC in TIPC. -/
structure TrapInfo where
  cause : BitVec 8
  sub : BitVec 8
  tinfo : BitVec 32 := 0
  tcoord : Word := 0
  tipc : Nat := 0
  deriving DecidableEq, Repr

/-- An entry of the asynchronous queue (07 R169). -/
structure AsyncTrap where
  info : TrapInfo
  wsp : Nat
  deriving DecidableEq, Repr

/-- What a waiting berth waits for (RUN 0b100): a cycle on ACC (WAITR, FENCE, a rejoin), a TTC or ITC value (WAITC, a phase
mark), wakes (11 R239) or receipts (17 R323). -/
inductive Waiting where
  | none
  | cycle (acc : Nat)
  | ttc (t : Nat)
  | itc (t : Nat)
  | wakes (org : Org) (itc : Bool) (t : Nat) (seen : BitVec 32) (d : SReg)
  | receipts (org : Org) (ring : Nat) (fin : Nat) (d : SReg)
  deriving DecidableEq, Repr

/-- What a word makes at issue outside its berth's own fields, which waits until a fault of the group's other word is decided (07
R157): the end of a handling, by RTE or not, and whether a deferred pre-emption takes effect there, a halt, a trap of TRAP or SVC, the event of a DBG.brk, JYLD's stop, RAIL.up or .dn,
DBG.mark, YIELDM's register, and the entry of a workspace. -/
inductive Held where
  | handled (rte stop : Bool)
  | halt
  | trap (info : TrapInfo)
  | brk (x : BitVec 32)
  | jyld
  | rail (up : Bool)
  | mark (x : BitVec 32)
  | yieldm (v : BitVec 16)
  | space (wsp : Nat)
  deriving DecidableEq, Repr

/-- A pre-emption request that has not reached its berth (07 R172, 18 R339): from cycle `q` on, with the SUB to write. -/
structure StopReq where
  q : Nat
  sub : Nat
  deriving DecidableEq, Repr

/-- What a fault decided after issue takes back of its group (07 R157): the issue cycle, the cycle from which the group is settled, the
berth's own fields before the group. What landings have overwritten since is in `State.kept`. -/
structure Undo where
  issue : Nat
  settled : Nat
  pc : Nat
  wpc : Nat
  wsp : Nat
  mode : Bool
  run : BitVec 3
  intrap : Bool
  pmode : Bool
  wait : Waiting
  witc : Nat
  regionAt : Nat
  branch : Option Nat
  deriving DecidableEq, Repr

/-- A byte that a landing has overwritten while a fault of the last group of a berth is still to be decided (07 R157): its place, what it
held, and the parity and poison state of its unit. -/
structure Kept where
  core : Nat
  berth : Nat
  key : Nat
  old : Byte
  bad : Bool
  psn : Bool
  deriving DecidableEq, Repr

/-- A berth (01 R12, 06 R136, 07 R163 to R173, 11 R238, 18 R337). -/
structure Berth where
  /-- Word address of the next group (01 R13); 0x8000 is the PC past line 4,095 (04 R95). -/
  pc : Nat := 0
  wpc : Nat := 0
  /-- Base of the workspace in the core's store; bits [12:0] zero, below 512 KiB. -/
  wsp : Nat := 0
  /-- false task, true supervisor -/
  mode : Bool := false
  run : BitVec 3 := 1
  intrap : Bool := false
  pmode : Bool := false
  dbl : Bool := false
  aovf : Bool := false
  pdef : Bool := false
  win0 : Word := 0
  win1 : Word := 0
  uword : Word := 0
  isl : Nat := 0
  witc : Nat := 0
  wcnt : BitVec 32 := 0
  queue : List AsyncTrap := []
  pstop : Bool := false
  /-- Gated turns of this scan (06 R151). -/
  gated : Nat := 0
  wait : Waiting := .none
  /-- The next group is a waymark group whatever its W bits: plan entry, RTE, RESYNC, XWSP (01 R26, 07 R167, R171). -/
  forceWm : Bool := false
  /-- The slip of TTC = L is to be taken at the next turn (06 R138). -/
  overDue : Bool := false
  stops : List StopReq := []
  /-- The cycle from which a berth of an ended task takes RUN 0b000 (20 R361). -/
  endAt : Option Nat := none
  /-- The plan uses the berth, its entry PC and its mode (01 R31). -/
  used : Bool := false
  entry : Nat := 0
  entryMode : Bool := false
  /-- PC of the last group issued (01 R28). -/
  lastPc : Nat := 0
  /-- First issue cycle of the present restart region: landings issued from it on are discarded by a trap (01 R28). -/
  regionAt : Nat := 0
  /-- Issue cycles whose landings later than the second number are discarded (01 R28). -/
  discards : List (Nat × Nat) := []
  /-- Landings since the berth's last turn: register place, byte lanes, stamp (01 R25). -/
  landed : List (Nat × Nat × Nat) := []
  /-- Handling a slip (06 R141). -/
  slipTrap : Bool := false
  /-- PC of the taken branch whose target is fetched at the next turn (02 R37). -/
  branch : Option Nat := none
  undo : Option Undo := none
  /-- Cycle from which the berth may be back in the rotation after an MMAC, and the traps it takes there, each once (09 R193, 10
  R211). -/
  backAt : Option Nat := none
  held : List TrapInfo := []
  /-- Cycle from which those traps are taken. -/
  heldAt : Nat := 0
  /-- Partition and journey of a journey berth, and the index k among its berths (18 R326). -/
  journey : Option (Nat × Nat) := none
  deriving DecidableEq, Repr

/-! ## Core -/

/-- An island's clock (06 R141): ITC is ACC minus `base`, modulo 2^32, while it runs and `held` while it is held. -/
structure Island where
  base : Nat := 0
  held : Option Nat := none
  slipped : Bool := false
  deriving DecidableEq, Repr

/-- A record of a ring from its placing on (17 R321): its first unit, its units, whether it is a PAD, and its effect cycle. -/
structure RingRec where
  unit : Nat
  n : Nat
  pad : Bool
  eff : Option Nat
  deriving DecidableEq, Repr

/-- A receipt ring (17 R318), with the records placed and not consumed, oldest first. -/
structure Ring where
  base : Nat := 0
  sizem1 : Nat := 0
  wr : Nat := 0
  rd : Nat := 0
  valid : Bool := false
  ovf : Bool := false
  lost : Bool := false
  recs : List RingRec := []
  /-- RCPTRs that found no receipt at issue and have not sampled. -/
  claims : Nat := 0
  deriving DecidableEq, Repr

/-- A stairwell that reaches a core (12 R252): the base of its FIFO in the core's store, the write pointer and the entries from
their STAIRW's issue to their STAIRR's issue, oldest first: the cycle from which STAIRR finds it, its slot and its tag. -/
structure Fifo where
  base : Nat := 0
  wp : Nat := 0
  held : List (Nat × Nat × BitVec 4) := []
  deriving DecidableEq, Repr

/-- A core as the sender of a stairwell: FREE, and the cycle of its last STAIRW there (12 R252, R259). -/
structure Sender where
  free : Nat := 8
  last : Option Nat := none
  deriving DecidableEq, Repr

/-- Fault counters of a core (20 R371). -/
structure CoreStat where
  creg : Nat := 0
  rpar : Nat := 0
  fpar : Nat := 0
  ovrn : Nat := 0
  ended : Nat := 0
  dbl : Nat := 0
  coll : Nat := 0
  deriving DecidableEq, Repr

/-- A logical core (06 R136 to R140, 07 R163, 10 R201, R204, 12 R252, 17 R313, R318, 20 R371, 23 R402). -/
structure Core where
  berths : Tbl Berth := []
  /-- Workspaces that a berth has left by XWSP or MTC under this plan (01 R31, A12). -/
  spaces : List Nat := []
  tvec : Nat := 0
  dtcause : Word := 0
  dtipc : Word := 0
  yieldm : BitVec 16 := 0
  /-- The berths that may be gated in this cycle: YIELDM as it takes effect for turns, 16 cycles after its writing (06 R148). -/
  yieldNow : BitVec 16 := 0
  trtb : Nat := 0
  owned : BitVec 32 := 0
  mxen : Bool := false
  slipped : Bool := false
  islands : Tbl Island := []
  phases : List PhaseRow := []
  /-- Records written back by the foreground in this phase, by place (06 R140). -/
  noted : List Nat := []
  /-- First cycle of the phase, and the slipped phases whose stamp writes may still be pending: first cycle, cycle past the last. -/
  phaseStart : Nat := 0
  slipPhases : List (Nat × Nat) := []
  dbgctl : Word := 0
  dbgaddr : Word := 0
  dbgmark : Word := 0
  /-- Lines under refetch and lines whose room copy is unreadable (02 R38). -/
  refetch : List Nat := []
  badLines : List Nat := []
  /-- Lines that a refetch could not rewrite (02 R38). -/
  deadLines : List Nat := []
  selb : Option Nat := none
  rq : Bool := false
  copies : BitVec 16 := 0
  dacc : Word := 0xFFFFFFFFFFFFFFFF
  dpsn : Bool := false
  /-- Cycle until which a PDIG.add fold reads (23 R408). -/
  foldEnd : Nat := 0
  rings : Tbl Ring := []
  fifoUp : Fifo := {}
  fifoDn : Fifo := {}
  sendUp : Sender := {}
  sendDn : Sender := {}
  stat : CoreStat := {}
  /-- The last edge at which another site took the core's position (11 R229). -/
  mapAt : Option Nat := none
  /-- Partition and logical core in it, as COREID shows (07 R163); none while no partition owns the core. -/
  owner : Option (Nat × Nat) := none
  deriving DecidableEq, Repr

/-- A task (20 R360). -/
inductive Task where
  | berth (core berth : Nat)
  | island (core isl : Nat)
  | journey (part j : Nat)
  deriving DecidableEq, Repr

/-! ## Cluster -/

/-- Descriptor of an interrupted MMAC (10 R204). -/
structure Desc where
  mode : Nat := 0
  ah : Nat := 0
  k0s : Nat := 0
  ks : Nat := 0
  bh : Nat := 0
  deriving DecidableEq, Repr

/-- An accumulator tile (09 R186, 10 R204). Element (i, j) is number 64 i + j; an empty list is all +0. -/
structure Tile where
  data : List (BitVec 32) := []
  f32 : Bool := false
  sat : Bool := false
  busy : Bool := false
  chk : Nat := 0
  step : Nat := 0
  istamp : BitVec 32 := 0
  ivalid : Bool := false
  part : Bool := false
  desc : Desc := {}
  /-- NV, OF, UF, NX from bit 3 down. -/
  bfl : BitVec 4 := 0
  mis : Word := 0
  wb : Word := 0
  na : Word := 0
  deriving DecidableEq, Repr

/-- A macro-op that holds the array or the drain path, with its tile (09 R192, R193); `dense` for an MMAC of the dense class. -/
structure Running where
  org : Option Org
  op : MacroOp
  tile : Nat
  dense : Bool := false
  deriving DecidableEq, Repr

/-- Columns of a checksum so far: the observed and reference sums and E_j, in units of 2^-300 for BF16, and the columns not
applicable (09 R195, R196). -/
structure Sums where
  obs : List Int := []
  ref : List Int := []
  mag : List Int := []
  na : Word := 0
  deriving DecidableEq, Repr

/-- The MMAC under way (09 R193, 10 R208 to R210): its operands, the data sampled for steps to come, by step * 64 + chunk and by
step, the steps that failed with their traps, and the tile as the completed steps leave it. -/
structure MmacRun where
  org : Org
  tile : Nat
  desc : Desc
  start : Nat
  /-- T and n of 09 R185, and the steps completed before this run and in all. -/
  t : Nat
  n : Nat
  s0 : Nat
  smax : Nat
  kind : Nat
  pa : Nat
  pb : Nat
  ah : Nat
  akey : Nat
  ablk : Nat
  aroom : Bool
  auns : Bool
  acen : Bool
  bh : Nat
  brow : Nat
  bcols : Nat
  buns : Bool
  bcen : Bool
  stamps : List (BitVec 32)
  fresh : Bool
  chunks : List (Nat × Nat) := []
  bs : List (Nat × List (List Nat)) := []
  bad : List (Nat × TrapInfo) := []
  data : List (BitVec 32)
  before : List (BitVec 32)
  sat : Bool := false
  bfl : BitVec 4 := 0
  sums : Sums := {}
  cells : List (Nat × Nat × Int) := []
  /-- A stop at the next step boundary is asked for (09 R194). -/
  stopReq : Bool := false
  deriving DecidableEq, Repr

/-- A load of a B tile (10 R207, R215): `first` is the sample cycle of group 0, `eff` the effect cycle; what has been read, and the
8-byte words read as poison. -/
structure BLoad where
  org : Option Org
  task : Option Task
  core : Nat
  origin : Nat
  fmt : Nat
  cols : Nat
  row : Nat
  per : Nat
  first : Nat
  eff : Nat
  data : Nat := 0
  psn : List Nat := []
  deriving DecidableEq, Repr

/-- A save or restore of a tile (10 R214, R215, 18 R329, R331): its record's offset, its first group's cycle; for a restore, the
header, what has been read, and whether a group failed (R419). -/
structure TileMove where
  org : Option Org
  task : Option Task
  core : Nat
  tile : Nat
  off : Nat
  first : Nat
  hdr : Nat := 0
  data : Nat := 0
  failed : Bool := false
  deriving DecidableEq, Repr

/-- A drain under way (10 R213): the destination's record fields and place, the tile stamp to write, the berth to wake, and the first
out-of-bound element's group once met. -/
structure Drain where
  org : Org
  tile : Nat
  core : Nat
  h : Nat
  hoff : Nat
  fmt : Nat
  clamp : Nat
  rm : Nat
  bpol : Nat
  lo : BitVec 32
  hi : BitVec 32
  min : BitVec 32
  max : BitVec 32
  scales : List (BitVec 32)
  biases : List (BitVec 32)
  dest : Nat
  up : Bool
  hops : List Nat
  /-- Key of element (0, 0) and the stride. -/
  base : Nat
  stride : Nat
  stamp : BitVec 32
  wake : Option Nat
  oob : Bool := false
  deriving DecidableEq, Repr

/-- Thermal state of a cluster or of the hall die (22 R387); `warn`: the limiter has met TEMP ≥ TWARN at the last sample. -/
structure Therm where
  temp : Nat := 0
  warn : Bool := false
  alarm : Bool := false
  tripped : Bool := false
  twarn : Nat := 100
  ttrip : Nat := 115
  deriving DecidableEq, Repr

/-- A cluster (06 R149, 09 R184 to R200, 20 R370, 22 R386). -/
structure Cluster where
  tiles : Tbl Tile := []
  array : Option Running := none
  drain : Option Running := none
  mmac : Option MmacRun := none
  /-- Macro-ops for which a trap has been queued for a failed room group (10 R419). -/
  warned : List Org := []
  owners : List OwnerRow := []
  /-- Rail state of 06 R151 (0 nominal, 1 dense, 2 ramping up, 3 ramping down) and the cycle at which it changes. -/
  rail : Nat × Nat := (0, 0)
  health : Nat := 0
  outsite : Nat := 7
  mism : Nat := 0
  bcor : Nat := 0
  bunc : Nat := 0
  /-- OFS, the scan edge of its last change, and the offset in force (22 R384, R386). -/
  ofs : Nat := 0
  ofsAt : Nat := 0
  ofsNow : Nat := 0
  therm : Therm := {}
  /-- What the firmware asks for at the next edge: positions to be mapped out, 4 for the return of the site, and DEGRADED (09 R199,
  R200, 20 R365). -/
  mapOut : List Nat := []
  degrade : Bool := false
  /-- Failed sites beside `outsite`, and a failed MXE or B store: what keeps the cluster DEGRADED (09 R200). -/
  lost : List Nat := []
  engine : Bool := false
  deriving DecidableEq, Repr

/-! ## Tier -/

/-- Counters of a mesh position (20 R372). -/
structure PosStat where
  flit : Nat := 0
  hdr : Nat := 0
  mdrop : Nat := 0
  bond : Nat := 0
  lsw : Nat := 0
  rcor : Nat := 0
  runc : Nat := 0
  stcrc : Nat := 0
  deriving DecidableEq, Repr

/-- A tier's power state (12 R262, R263): 0 awake, 1 gate pending, 2 asleep, 3 waking. -/
structure TierPower where
  state : Nat := 0
  /-- Of a pending gate: its deadline, the first cycle at which it may take effect, and whether a scan edge has been reached. -/
  deadline : Nat := 0
  gateFrom : Nat := 0
  edge : Bool := false
  /-- Deadline of a gate recorded while the tier wakes. -/
  recorded : Option Nat := none
  /-- w of the wake under way or last made. -/
  wakeAt : Nat := 0
  deriving DecidableEq, Repr

/-- A replica of the common room or the keeper (12 R250): current, or behind from beat `since`, with the consecutive copy beats it
has written and whether a pass has reached it. -/
structure Replica where
  behind : Bool := false
  since : Nat := 0
  count : Nat := 0
  /-- The beat cycle of the last beat missed: copy beats sent later count. -/
  after : Nat := 0
  seen : Bool := false
  deriving DecidableEq, Repr

/-- A tier, or the clock of a partition's cores in a tier while it differs from the others' (16 R291, `State.clockOf`) (06 R136, 11 R228, 12 R249 to R263, 16 R290, R291, 20 R358, R372). -/
structure Tier where
  ttc : Nat := 0
  scn : BitVec 32 := 0
  /-- The edge copy of 16 R290. -/
  edge : BitVec 512 := 0
  /-- The edge beat as the tier took it, for its edge cycle; none for a tier that misses the edge (16 R291). -/
  taken : Option (BitVec 512 × Bool) := none
  edgeMissed : Bool := false
  /-- Cycle of the last edge taken. -/
  edgeAt : Nat := 0
  power : TierPower := {}
  replica : Replica := {}
  /-- Links that the firmware has closed, by mesh index (LINK bits), and TURN fields that differ from their reset (11 R228). -/
  closed : Tbl (BitVec 5) := []
  turns : Tbl (BitVec 16) := []
  /-- Links to be closed, and LINK and TURN fields to be written, at the next edge (11 R229). -/
  closing : Tbl (BitVec 5) := []
  gazWrites : Tbl (BitVec 5 × BitVec 16) := []
  gen : Nat := 0
  posstat : Tbl PosStat := []
  /-- Consecutive words in error of the bond lanes, by position * 16 + lane, and the positions whose port is reported as failed (20 R358). -/
  bonds : Tbl Nat := []
  portFail : List Nat := []
  deriving DecidableEq, Repr

/-! ## Partition -/

/-- State of a stream-map entry (16 R296): the half selected, RX, ESTAMP, and the counters of its status word. -/
structure StreamSt where
  sel : Bool := false
  rx : Bool := false
  estamp : BitVec 32 := 0xFFFFFFFF
  dropgate : Nat := 0
  dropmtr : Nat := 0
  short : Nat := 0
  ovwr : Nat := 0
  deriving DecidableEq, Repr

/-- State of an output record (16 R301): SEL, W and OSTAMP of the latching half, the source chosen at the last edge (0 half SEL, 1 the
default image, 2 half SEL with the flag byte), and the tasks that have written the latching half with POS (20 R362). -/
structure OutSt where
  sel : Bool := false
  w : Bool := false
  ostamp : BitVec 32 := 0xFFFFFFFF
  src : Nat := 0
  writers : List Task := []
  deriving DecidableEq, Repr

/-- A journey (18 R326 to R335): 0 fresh, 1 running, 2 stopping and being saved, 3 parked. -/
structure JourneySt where
  state : Nat := 0
  runs : Nat := 0
  jstamp : BitVec 32 := 0xFFFFFFFF
  /-- Island clock. -/
  itc : Island := {}
  /-- Index of the present placement and its core. -/
  pidx : Nat := 0
  core : Option Nat := none
  /-- Tiles still to be saved, the tile being saved with its completion cycle, and the last cycle of steps 1 and 4 so far (R331). -/
  tiles : List Nat := []
  saving : Option (Nat × Nat) := none
  lastAt : Nat := 0
  /-- A save, restore or carry of the journey failed (10 R419, 18 R328): it starts fresh in the next scan. -/
  failed : Bool := false
  deriving DecidableEq, Repr

/-- A frame of the pair link that may still be refused: the frame, its sending instruction, its deadline and its last sending on GT
(23 R396). -/
structure PairWait where
  frame : PairFrame
  org : Option Org
  deadline : Nat
  last : Nat
  deriving DecidableEq, Repr

/-- The pair settings, role word, counters and link state of a partition (23 R395 to R410). -/
structure PairSt where
  en : Bool := false
  pairid : Bool := false
  initrole : Nat := 0
  hbtol : Nat := 500
  tdec : Nat := 20000
  role : Nat := 0
  fit : Bool := false
  peer : Bool := false
  gates : Bool := false
  rsy : Bool := false
  taken : Bool := false
  palarm : Bool := false
  rscn : BitVec 32 := 0
  /-- After a takeover, the scan whose frames are the first to pass (23 R400). -/
  passFrom : Option (BitVec 32) := none
  /-- SEQ of the next frame, the frame handed to the link last, and the frames that the partner may still refuse. -/
  seq : Nat := 0
  sent : Option PairFrame := none
  wait : List PairWait := []
  /-- HBs received as (SCN, MARK), DIGs received and computed as (SCN, digest, PSN), of the present and the last scan. -/
  hbGot : List (BitVec 32 × Nat) := []
  digGot : List (BitVec 32 × Nat × Bool) := []
  digOwn : List (BitVec 32 × Nat × Bool) := []
  /-- The scan before has run the plan. -/
  ran : Bool := false
  /-- Since the last decision point: a frame is missing, a RESIGN has come. -/
  miss : Bool := false
  resigned : Bool := false
  /-- From this GT on, a decision point makes this package primary (PTAKE.take), or standby with this FIT. -/
  takeAt : Option Nat := none
  yieldAt : Option (Nat × Bool) := none
  /-- FIT of the partner in its last frame. -/
  peerFit : Bool := false
  /-- A resync is pending: FIT has been lost, and no pass has completed since. -/
  rsyPend : Bool := false
  hbmiss : Nat := 0
  digmis : Nat := 0
  crcerr : Nat := 0
  retry : Nat := 0
  lost : Nat := 0
  route : Nat := 0
  takes : Nat := 0
  /-- The designation table: row, place address, length (23 R404). -/
  desig : Tbl (Nat × Nat) := []
  deriving DecidableEq, Repr

/-- A message of the courier to a queue (17 R318, R319): for SVB's queue or XLB's, its word, the page it asks for or the copy it is of,
its sendings, the cycle from which it may be sent, and whether it is on its way or in the queue. -/
structure Msg where
  sv : Bool
  word : Nat
  about : Nat
  tries : Nat := 0
  from_ : Nat := 0
  out : Bool := false
  posted : Bool := false
  deriving DecidableEq, Repr

/-- A partition (12 R246, R257, 16 R295 to R301, 17 R317, R318, 18 R341 to R346, 22 R391, R392, 23). -/
structure Part where
  row : PartRow := {}
  /-- The clusters that the partition's gazetteer shows as its own: CLMASK at its last plan load, and before
any load every cluster, as OUT resets to 0 (11 R228 to R230). -/
  gazMask : BitVec 24 := BitVec.allOnes 24
  pladdr : Nat := 0
  pllen : Nat := 0
  plstat : Nat := 0
  plvar : Nat := 0
  plerr : Nat := 0
  ascn : BitVec 32 := 0
  staged : Option Plan := none
  plan : Option Plan := none
  /-- A staged plan becomes active at the next edge, a running one stops there (18 R344). -/
  activateReq : Bool := false
  stopReq : Bool := false
  /-- The plan runs: its berths and deliveries; a plan that is stopped keeps its output records and slot maps (18 R344). -/
  running : Bool := false
  /-- The load is complete, and the plan becomes active at the next edge; the edge under way is its activation edge. -/
  loaded : Bool := false
  activating : Bool := false
  /-- Active slot-map entry and the pending choice: entry, issue and logical core of its SBMAP (12 R246, R257). -/
  slotEntry : Nat := 0
  slotPend : Option (Nat × Nat × Nat) := none
  /-- Beats sent of each delivery row in this scan (16 R298). -/
  delivered : Tbl Nat := []
  /-- XLB and SVB, the head and tail indices of their queues, and the messages not yet answered (17 R318, R319, R322). -/
  xlb : XbRow := ⟨0, 0, 0, false, 0⟩
  svb : XbRow := ⟨0, 0, 0, false, 0⟩
  xlHead : Nat := 0
  xlTail : Nat := 0
  svHead : Nat := 0
  svTail : Nat := 0
  msgs : List Msg := []
  journeys : Tbl JourneySt := []
  streams : Tbl StreamSt := []
  outs : Tbl OutSt := []
  /-- Frames released and not yet handed to their port, with their scan (16 R300). -/
  txDue : List (Nat × BitVec 32) := []
  pair : PairSt := {}
  /-- Attestation: the 48-byte nonce, ATTCMD, and the 272-byte report as numbers (22 R391). -/
  nonce : Nat := 0
  attcmd : Nat := 0
  report : Nat := 0
  /-- The two keys that the TRNG gave when the partition was created, and whether its far memory is encrypted with them (22 R392). -/
  keys : BitVec 512 := 0
  fenc : Bool := false
  /-- Interrupts that the partition's supervisor has taken: no variant fits, no step down is possible (18 R346, 22 R385). -/
  alarms : Nat := 0
  deriving DecidableEq, Repr

/-- The partition's far share, with the setting of FENC and keys under which it is written (22 R392). -/
def Part.farSpan (t : Part) : List (Nat × Nat × Option (BitVec 512)) :=
  if t.row.fsize = 0 then [] else [(t.row.fbase * 2 ^ 16, (t.row.fbase + t.row.fsize) * 2 ^ 16, if t.fenc then some t.keys else none)]

/-! ## Courier (17) -/

/-- A TLB entry (17 R317). -/
structure TlbEntry where
  vpn : Nat
  entry : Word
  deriving DecidableEq, Repr

/-- Where a receipt stands (17 R321): its unit and units, the PAD before it with its sendings while it is not in place, its own
sendings, the cycle from which each may be sent, and whether each is on its way. -/
structure Rcpt where
  unit : Nat
  n : Nat
  pad : Option Nat := none
  padTries : Nat := 0
  padFrom : Nat := 0
  padOut : Bool := false
  tries : Nat := 0
  from_ : Nat := 0
  out : Bool := false
  /-- The receipt is in its place; the PAD before it is not. -/
  placed : Bool := false
  deriving DecidableEq, Repr

/-- A copy that the courier has accepted (17 R313 to R316), with the key of its tensor's base, and, on the way: the segment to be
sent next and that to be read next, the segments read and not yet sent, the beats to be sent again with the first cycle for it, the
data taken and not yet written, the last beat's cycle and the segments done. -/
structure Copy where
  part : Nat
  org : Org
  dir : Nat
  place : Nat
  fmt : Nat
  planes : Nat
  rows : Nat
  cols : Nat
  stride : Nat
  sa : Word
  sb : Word
  sc : Word
  h : Nat
  win : Nat
  id : Nat
  started : Bool := false
  next : Nat := 0
  rd : Nat := 0
  buf : List (Nat × Nat × Nat) := []
  ready : Nat := 0
  again : List (Nat × Beat) := []
  got : List (Nat × Nat × Nat) := []
  /-- Segments sent, or read by the agent, that have not come to their place. -/
  flying : List Nat := []
  /-- A stop that the earlier segments come before (17 R316): its segment, FCODE, row and column. -/
  stop : Option (Nat × Nat × Nat × Nat) := none
  lastb : Nat := 0
  done : Nat := 0
  bytes : Nat := 0
  retry : Nat := 0
  corr : Nat := 0
  unc : Nat := 0
  fcode : Nat := 0
  eva : Nat := 0
  dch : Nat := 0
  cch : Nat := 0x1FF
  coord : Nat := 0
  /-- The page whose mapping a read waits for. -/
  miss : Option Nat := none
  /-- The translation of the copy's current page, which it keeps (17 R320). -/
  page : Option (Nat × Word) := none
  /-- An A40 stop that waits for its answer: the failing segment, and its beat when there is one (17 R322); the segments that the
  agent reads again. -/
  held : Option (Nat × Option Beat) := none
  redo : List Nat := []
  ended : Bool := false
  rc : Option Rcpt := none
  /-- The receipt waits in the overflow store since this cycle. -/
  spill : Option Nat := none
  deriving DecidableEq, Repr

/-- A side-log entry: 64 bytes of a far write held until their page is mapped (17 R319). -/
structure SideEntry where
  part : Nat
  copy : Nat
  seg : Nat
  va : Nat
  data : Nat
  psn : Nat
  deriving DecidableEq, Repr

/-- The courier: its copies by their number in acceptance order, the TLB by entry index, and the side log. -/
structure Courier where
  copies : Tbl Copy := []
  next : Nat := 0
  /-- Number of the next untimed piece of work (A8). -/
  work : Nat := 0
  tlb : Tbl TlbEntry := []
  side : List SideEntry := []
  deriving DecidableEq, Repr

/-! ## Package -/

/-- Clock steps (22 R382 to R386). -/
structure Freq where
  cur : Nat := 4
  /-- The active request, with whether it has been applied (a slower step whose rails still ramp down). -/
  act : Option (Nat × Bool) := none
  /-- GT at which the ramp under way ends. -/
  rampEnd : Option Nat := none
  queue : Option Nat := none
  fhold : Bool := false
  /-- Thermal caps, newest first, and whether every sensor has been cool since the last edge (22 R385). -/
  tcap : List Nat := []
  cool : Bool := false
  deriving DecidableEq, Repr

/-- The hall's side of the stack bus, its counters and logs' sources (12 R243 to R251, 16 R288, 20 R373). -/
structure Hall where
  ttc : Nat := 0
  scn : BitVec 32 := 0
  keeper : Replica := {}
  /-- Line that follows the last line copied (12 R250). -/
  line : Nat := 0
  /-- Beats of the hall that wait for a position: writes of harts and courier beats, oldest first. -/
  queue : List Beat := []
  /-- Beats of the hall to be sent again, with the first cycle for it (12 R249). -/
  again : List (Nat × Beat) := []
  /-- Cycle in which the last beat was sent, and its KIND. -/
  sent : Option Nat := none
  sentKind : Nat := 0
  sentData : Nat := 0
  /-- Errors of this scan by receiver * 288 + channel, channels to swap at the next edge, and the channels swapped, in the order of
  the spares that stand for them. -/
  chan : Tbl Nat := []
  chanDue : List Nat := []
  swapped : List Nat := []
  crcerr : Nat := 0
  retry : Nat := 0
  behind : Nat := 0
  hsdisc : Nat := 0
  memCorr : Nat := 0
  memUnc : Nat := 0
  memCrc : Nat := 0
  therm : Therm := {}
  deriving DecidableEq, Repr

/-- The scan sequencer (16 R287, R288, R418): its registers, the instant of the next edge in ns with the period sampled at the last
one, b_E of the last edge and the edge cycle it leads to, and the drops of the present filling: gate, meter, short, overwritten. -/
structure Seq where
  t0 : Word := 0
  per : Nat := 0
  en : Bool := false
  sync : Bool := false
  hold : Bool := false
  scnNext : BitVec 32 := 0
  next : Nat := 0
  p : Nat := 0
  last : Nat := 0
  bE : Option Nat := none
  edgeAt : Option Nat := none
  drops : Nat × Nat × Nat × Nat := (0, 0, 0, 0)
  deriving DecidableEq, Repr

/-- Counters of an Ethernet port (20 R373), its 802.1Qbv windows as (class, open instant, close instant) with their cycle, the frames
that wait for an opening as (class, partition, frame, scan), and the frame handed to it last: GT, partition, number and bytes, with the sequence number of a replicated one (16 R292, R300). -/
structure Port where
  fcs : Nat := 0
  dupe : Nat := 0
  jumbo : Nat := 0
  unmap : Nat := 0
  cycle : Nat := 0
  windows : List (Nat × Nat × Nat) := []
  held : List (Nat × Nat × Nat × BitVec 32) := []
  /-- Frames that waited because their window was cut short. -/
  cut : Nat := 0
  sent : Option (Nat × Nat × Nat × List Byte) := none
  sentSeq : Option (BitVec 16) := none
  /-- 802.3br: the classes of the preemptable MAC, the others going through the express one, and the least fragment (16 R292). -/
  preempt : BitVec 8 := 0
  fragment : Nat := 64
  deriving DecidableEq, Repr

/-- A two-rate three-colour meter (16 R292): rates, burst sizes, and the tokens of its two buckets in bytes / 2^32 at an instant. -/
structure Meter where
  cir : Nat := 0
  cbs : Nat := 0
  eir : Nat := 0
  ebs : Nat := 0
  c : Nat := 0
  e : Nat := 0
  last : Nat := 0
  deriving DecidableEq, Repr

/-- What a hart of the hall holds that this model shows: the value of its last load, and the scan-edge interrupts it has taken (18
R347). -/
structure HartSt where
  got : Nat := 0
  edges : Nat := 0
  deriving DecidableEq, Repr

/-- Sequence recovery of a stream (802.1CB): the number accepted last, the history, whether a first frame is awaited, and the instant of the
frame accepted last. -/
structure Recovery where
  seq : Nat := 0
  hist : BitVec 32 := 0
  any : Bool := true
  last : Nat := 0
  deriving DecidableEq, Repr

/-- A control core's stamp-gate window (16 R302): GREQ, the cycle its store was performed, the record and word sampled, and what
GDATA and GSTAT read. -/
structure Gate where
  greq : Nat := 0
  start : Option Nat := none
  got : Word := 0
  status : Word := 0
  data : Word := 0
  stat : Word := 0
  deriving DecidableEq, Repr

/-- Counts of blown fuses: the minimum versions of firmware, plans and test packages (22 R390). -/
structure Fuses where
  fw : Nat := 0
  plan : Nat := 0
  test : Nat := 0
  deriving DecidableEq, Repr

/-- The boot chain (22 R389): the firmware that runs, the image of the application cores once they are released, BOOTSTAT.ERR, and whether
the ROM waits for a host image. -/
structure BootSt where
  bootsel : Nat := 0
  fw : Option FwImage := none
  app : Option FwImage := none
  /-- The application cores' image, that the firmware is to verify, and what it is to set after its built-in test. -/
  appImg : Option FwImage := none
  found : List Repair := []
  err : Bool := false
  waiting : Bool := false
  deriving DecidableEq, Repr

/-- What the gPTP servo does with GT (22 R388): a rate in ppm from now on, or a step to a value, in units of 1/552 ns. -/
inductive GtServo where
  | slew (ppm : Int)
  | jump (gt : Nat)
  deriving DecidableEq, Repr

/-- The always-on domain and the pins (20 R367, 22 R385, R388, R393): whether the package has power, is held in reset by TTRIP, the cycle
at whose end the clocks stop, whether they have stopped, the sampled PPS pulses, ALERT_N, the rate of GT's slew with the part of a unit of
GT that it has gathered, in millionths, and whether the firmware has started GT since the power-up of VDD_AON (R389). -/
structure Aon where
  rate : Int := 0
  part : Int := 0
  powered : Bool := true
  tripped : Bool := false
  freezeAt : Option Nat := none
  frozen : Bool := false
  pps : Nat := 0
  gtOn : Bool := false
  alert : Bool := false
  deriving DecidableEq, Repr

/-- A signed test package under way (20 R366), and PFAIL (R369): whether it is set, the codes with which the firmware asks for it at the
next edge, and the scan edge from which CORR counts towards the next (R365). -/
structure TestSt where
  pkg : Option TestPkg := none
  pfail : Bool := false
  pfailReq : List Nat := []
  pfailAt : Nat := 0
  deriving DecidableEq, Repr

/-- What is being executed: the berth and group of the instruction at hand (02 R36, 04 R95), or the event at hand. -/
structure Cur where
  core : Nat := 0
  berth : Nat := 0
  /-- PC of the group and of the next group in sequence. -/
  pc : Nat := 0
  next : Nat := 0
  /-- The workspace and mode in which the group issues (07 R171). -/
  wsp : Nat := 0
  mode : Bool := false
  /-- Place of the word in its group, 0 or 1. -/
  slot : Nat := 0
  /-- The group has trapped: its other word has no effect (01 R28). -/
  trapped : Bool := false
  /-- A commit point of the group has set WPC (01 R27). -/
  committed : Bool := false
  /-- The event at hand was not served by its port: rank of the party served, and bank (06 R146, 11 R232). -/
  denied : Option (Nat × Nat) := none
  /-- The instruction the event at hand is of. -/
  org : Option Org := none
  /-- The cycle in which a fault of the group's load or atomic is decided (07 R157). -/
  late : Option Nat := none
  /-- PC of the group issued before the one at hand, and INTRAP before the group. -/
  prevPc : Nat := 0
  intrap : Bool := false
  deriving DecidableEq, Repr

/-- A packet in flight (11 R225, R226): the agenda entry of its effect, its sending instruction, and the links it crosses, each
with the cycle of the first beat, and its beats. A link is (E96 tier * 16 + mesh index) * 8 + direction (1 N, 2 E, 3 S, 4 W, 5 up,
6 down). -/
structure Flight where
  ev : Nat
  org : Org
  links : List (Nat × Nat)
  beats : Nat
  deriving DecidableEq, Repr

/-- A physical upset to come, with its cycle: what the checks of 20 R355 are for (A3). -/
inductive Upset where
  /-- Flits of a packet that reaches a core in this cycle fail: the header, or the payload flits in the mask (11 R227). -/
  | flits (at_ core : Nat) (header : Bool) (mask : Nat)
  /-- Bits of the beat of this cycle, numbered as 21 R378 numbers them, that a receiver (tier 0-5, 6 the hall) reads inverted
(12 R245, R249). -/
  | beat (at_ rx : Nat) (flips : List Nat)
  /-- The EDGE and the NACK copies of the beat of this cycle that a receiver reads inverted (12 R245, R249, 16 R291). -/
  | edge (at_ rx : Nat) (copies : BitVec 2)
  | nack (at_ rx : Nat) (copies : BitVec 2)
  /-- Bits of the stairwell entry written in this cycle that arrive inverted: its 256 bytes, its tag, its CRC (12 R252). -/
  | stair (at_ core : Nat) (dn : Bool) (flips : List Nat)
  /-- A burst of a far-memory channel in this cycle fails the link's CRC, so many times in a row (17 R310). -/
  | farLink (at_ chan retries : Nat)
  /-- A 64-bit word under SECDED, or a far word, takes a state. -/
  | word (at_ key : Nat) (st : Ecc)
  /-- A 32-bit unit of a workspace store fails its parity. -/
  | unit (at_ key : Nat)
  /-- A bit of a fetch line flips; the room copy of a line becomes unreadable (02 R38). -/
  | line (at_ core line bit : Nat)
  | image (at_ core line : Nat)
  /-- A bond lane of a core's room port fails on the 64-bit words in the mask of those that cross in this cycle (20 R358). -/
  | bond (at_ core lane mask : Nat)
  /-- The cell (i, j) of a cluster's array adds `delta` to the step under way (09 R195). -/
  | cell (at_ cluster i j : Nat) (delta : Int)
  deriving DecidableEq, Repr

/-- Sub-events of instructions that are no row of the opcode table. -/
inductive Aux where
  /-- LD or an atomic at the data port (07 R156, R158, R162): offset, size, what it does and where it lands. -/
  | load (org : Org) (off size : Nat) (sg : Bool) (d : SReg)
  /-- LDR at the core port of the room (11 R234). -/
  | roomLoad (org : Org) (off : Nat) (form : LdForm) (mask : Mask)
  | atomic (org : Org) (off size : Nat) (op : Fin 9) (sg : Bool) (b c : Word) (d : SReg)
  | vload (org : Org) (off : Nat) (tag : Fin 9) (mask : Mask) (d : VReg)
  /-- Segments of VLDX still to be read, as (j, offset), with what has been read (07 R161). -/
  | vsegs (org : Org) (segs : List (Nat × Nat)) (acc : Nat) (psn : Bool) (tag : Fin 9) (lanes : Mask) (d : VReg)
  /-- MTC and YIELDM take effect (07 R165, 06 R148). -/
  | regWrite (core reg berth : Nat) (v : Word)
  | yieldWrite (core : Nat) (v : BitVec 16)
  /-- A pair of words written over the register port: XWSP's TEPC (07 R171). -/
  | tepc (org : Org) (key : Nat) (v : Word)
  /-- FENCE's effect on reads from issue + 32 (07 R175). -/
  | fence (org : Org) (from_ to_ : BitVec 7)
  /-- What a word holds back until its group is settled (07 R157, R176, 18 R337), and the reserved bits of a place that has become a
workspace (01 R17, R18, R21). -/
  | settle (org : Org) (k : Held)
  /-- The trap words of a trap taken at a sample (13 R269). -/
  | trapWords (key v : Nat)
  | enterWs (core wsp : Nat)
  /-- The MXE: a chunk of the A-stream, a step boundary, BUSY's clearing after a stop (09 R193, R194), SELB (10 R207). -/
  | mmacChunk (org : Org) (cl u c key : Nat)
  | mmacBound (org : Org) (cl u : Nat)
  | mmacClear (org : Org) (cl : Nat)
  | selb (core h : Nat)
  /-- MZERO's and MBIAS's results (10 R212). -/
  | mzero (cl tile : Nat) (f32 : Bool)
  | mbias (cl tile : Nat) (row : Bool) (v : Vec)
  /-- Group c of a B load, and its writes (10 R207). -/
  | bload (b : BLoad) (c : Nat)
  | bwrite (b : BLoad)
  /-- Group g of a save or a restore, and the restored tile (10 R214, R215). -/
  | saveGroup (m : TileMove) (g : Nat)
  | restGroup (m : TileMove) (g : Nat)
  | restored (m : TileMove)
  /-- Group g of a drain at its injection, and the stamp of its destination (10 R213). -/
  | drain (d : Drain) (g : Nat)
  | drainStamp (org : Org) (core off : Nat) (v : BitVec 32)
  /-- A beat of KIND 1 to 3 takes effect (12 R248), a copy beat of a line from the keeper (6) or a tier, and an NACK comes back; the
  receivers that failed it. -/
  | beatApply (b : Beat) (failed : List Nat)
  | copyApply (line src : Nat) (failed : List Nat)
  | nack (b : Beat) (driven : Bool)
  /-- SBD at its sample cycle, and STAIRR (12 R256, R260). -/
  | stackLoad (org : Org) (off : Nat) (form : LdForm) (mask : Mask)
  | stairRead (org : Org) (dn : Bool) (slot : Nat) (tag : BitVec 4) (d : VReg)
  /-- PIL at its sample cycle (16 R304). -/
  | pilLoad (org : Org) (off o : Nat) (form : LdForm) (mask : Mask)
  /-- The stamp gate samples its record (16 R302). -/
  | gateSample (c start : Nat)
  /-- Rows of the table that the agenda holds in this form: the scan edge, a tier's gate and wake, the opening of a port's windows,
the stamp gate's result. -/
  | scanEdge
  | tierGate (tier : Nat)
  | tierWake (tier : Nat)
  | windowOpen (port tclass : Nat)
  | gateResult (c start : Nat)
  /-- The courier (17): a NACK of a data beat, with the coil channel that its resending names; a beat's write at its place; an agent's read; a receipt or PAD
  beat and its NACK; a message's beat, its write and its NACK; RCPTR and XLGET at their sample cycles. -/
  | courierNack (copy : Nat) (b : Beat) (chan : Option Nat)
  | courierPut (copy : Nat) (b : Beat)
  | courierRead (copy seg b : Nat)
  | rcptBeat (copy : Nat) (pad : Bool)
  | rcptNack (copy : Nat) (pad : Bool) (chan : Option Nat)
  | msgBeat (part : Nat) (m : Msg)
  | msgWrite (part : Nat) (m : Msg)
  | msgNack (part : Nat) (m : Msg)
  | rcptRead (org : Org) (ring : Nat) (rec_ : RingRec) (d : VReg)
  | rcptLate (org : Org) (ring : Nat) (d : VReg)
  | xlRead (org : Org) (part : Nat) (sv : Bool) (d : SReg)
  | xlZero (org : Org) (key : Nat)
  /-- A plan's verification and load end (18 R344). -/
  | planVerify (part : Nat)
  | planLoad (part : Nat)
  /-- PREQ.stop reaches its berths (18 R339). -/
  | preqStop (core : Nat) (mask : BitVec 16)
  /-- A journey between its stop and its parking, the restart of its berths, and beat i of a carry to a core (18 R328 to R331). -/
  | journeySave (part j : Nat)
  | journeyStart (part j : Nat) (mask : Nat)
  | carryBeat (part j to_ i : Nat)
  | carryPut (part j : Nat) (key : Nat) (data psn : Nat)
  | carryDone (part j to_ : Nat)
  /-- The pair (23): a DATA frame's beat at the hall, line i of a PDIG, a DATA packet at its place, the decision point, and a turn of the
  resync. -/
  | pairData (b : Beat)
  | pdigLine (org : Org) (off n i : Nat) (words : List Word) (psn : Bool)
  | pairPut (part : Nat) (key n data psn : Nat) (wb : Option Nat)
  | rsyPut (key data : Nat)
  | decision (part : Nat)
  | rsyTurn (part : Nat)
  /-- The end of a rail ramp, an undervolt offset that comes into force, and the signing of a report (22 R382, R384, R391). -/
  | rampEnd
  /-- The write-back of a scrubbed line, a hart's stores to hall SRAM and to the output view, and its load (13 R276, 18 R420, 20 R357). -/
  | scrubBack (key : Nat)
  | hallStore (off len data : Nat)
  | viewStore (off len data : Nat)
  | hartLoad (l : HartLoad)
  | railOfs (cluster v : Nat)
  | attest (part : Nat)
  /-- The edge cycle in a tier and in the hall (06 R137, 16 R288). -/
  | tierEdge (tier : Nat)
  | coreEdge
  /-- TTC reaches L in a partition (06 R138, 20 R364), and in a tier that has taken an edge alone (16 R291); that edge. -/
  | scanEnd (part : Nat)
  | overrun (part : Nat)
  | loneEdge (tier : Nat)
  /-- An asynchronous trap whose cause arises at this cycle. -/
  | queue (org : Org) (info : TrapInfo)
  /-- The records and output records of an ended task are voided (20 R362). -/
  | endVoid (t : Task)
  /-- A task that ends at or after TTC = L is rolled back at once (20 R364). -/
  | endLate (core : Nat)
  /-- Rows that the agenda holds in this form, with the row's meaning. -/
  | freeze (src : FreezeSrc)
  deriving DecidableEq, Repr

/-- What an agenda entry does: a row of the table, or a sub-event. -/
inductive Act where
  | row (i : Instr)
  | aux (a : Aux)
  deriving DecidableEq, Repr

/-- An effect to come: its cycle, its place in the order within a cycle (A5), its number, and the instruction it is of. -/
structure Ev where
  at_ : Nat
  ph : Nat
  id : Nat
  org : Option Org
  act : Act
  deriving DecidableEq, Repr

/-- A write of class C, I or P that is not drained for every class (13 R273): the class, the byte it replaced, its effect
cycle, and the cycles from which it is drained for reads of a class. -/
structure Undrained where
  cls : Nat
  key : Nat
  old : Byte
  eff : Nat
  drains : List (Nat × Nat)
  deriving DecidableEq, Repr

/-- An entry of a room's scan undo log (20 R363): line number, its task, the old bytes and word states, SHARED. -/
structure UndoLine where
  line : Nat
  task : Task
  old : Nat
  oldEcc : List (Nat × Ecc)
  shared : Bool
  /-- The line is restored (20 R364). -/
  done : Bool := false
  deriving DecidableEq, Repr

/-- The end of a task in this scan, whose log entry is written when the rollback is over (20 R361, R364): the consuming core and berth,
CONTLOG's code, TIPC, the trap cycle and the scan. -/
structure EndNote where
  task : Task
  core : Nat
  berth : Nat
  code : Nat
  tipc : Nat
  at_ : Nat
  scn : BitVec 32
  deriving DecidableEq, Repr

/-- A log entry (20 R374, R375). -/
structure LogEntry where
  code : Nat
  tier : Nat
  pos : Nat
  berth : Nat
  sub : Nat
  scn : BitVec 32
  acc : Nat
  addr : Nat
  data : Nat
  deriving DecidableEq, Repr

/-- A log with its pointers (20 R374). -/
structure Log where
  entries : Tbl LogEntry := []
  wr : Nat := 0
  rd : Nat := 0
  ovf : Bool := false
  unread : Nat := 0
  deriving DecidableEq, Repr

/-- The machine: one E96 package and the inputs its outside will give it (A3). -/
structure State where
  /-- Cycles since reset (06 R136); ACC shows it mod 2^64. -/
  acc : Nat := 0
  /-- GT in units of 1/552 ns, of which every clock step's cycle is a whole number (06 R101, 22 R381, R388). -/
  gt : Nat := 0
  /-- Bytes by place (13 R265, Machine/Mem.lean), in canonical form. -/
  mem : List Host.Cell := []
  /-- 32-bit units of workspace stores with failing parity and with their poison bit set (01 R20, 07 R157), by place, rising. -/
  badUnits : List Nat := []
  psnUnits : List Nat := []
  /-- States other than good of 64-bit words under SECDED (20 R357) and of far words (17 R310), by place. -/
  ecc : Tbl Ecc := []
  undrained : List Undrained := []
  /-- What landings have overwritten since the issue of groups whose fault is still to be decided, newest first (07 R157). -/
  kept : List Kept := []
  cores : Tbl Core := []
  clusters : Tbl Cluster := []
  tiers : Tbl Tier := []
  parts : Tbl Part := []
  /-- 64-byte lines of designated sets with their SENT bit set, by key (23 R404). -/
  rsySent : List Nat := []
  /-- Lines that patrol scrub has read and is to write back in the next cycle, by key (20 R357). -/
  scrubs : List Nat := []
  /-- The scan undo log of the room of a core (20 R363). -/
  undoLogs : Tbl (List UndoLine) := []
  /-- Tasks whose writes the full log did not hold (20 R363). -/
  undoOvf : List Task := []
  freq : Freq := {}
  fuses : Fuses := {}
  boot : BootSt := {}
  aon : Aon := {}
  test : TestSt := {}
  /-- Cycles counted on through resets and freezes, by which inputs come. -/
  ticks : Nat := 0
  hall : Hall := {}
  courier : Courier := {}
  seq : Seq := {}
  ports : Tbl Port := []
  /-- Stream filters, the windows in which a stream gate is open with their cycle (a gate not listed is open), and flow meters (16 R292). -/
  filters : Tbl StreamFilter := []
  streamGates : Tbl (Nat × List (Nat × Nat)) := []
  meters : Tbl Meter := []
  /-- 802.1CB: the stream of each member-stream pair with its history and reset time, recovery by stream, and the replicated frames:
  partition, frame, ports. -/
  crPairs : Tbl (Nat × Nat × Nat) := []
  recovery : Tbl Recovery := []
  replicas : Tbl (Nat × Nat × BitVec 4) := []
  /-- The port that is gPTP's slave (16 R292). -/
  slavePort : Option Nat := none
  /-- The harts by number (`Hart.num`). -/
  harts : Tbl HartSt := []
  /-- Plan images that lie in memory, by PLADDR and PLLEN (18 R344, A10). -/
  planImages : List ((Nat × Nat) × Plan) := []
  gates : Tbl Gate := []
  /-- What comes at an instant of GT, in its units (16 R300). -/
  timed : List (Nat × Act) := []
  flights : List Flight := []
  upsets : List Upset := []
  /-- What the servo will do, with the tick of it (A3). -/
  servo : List (Nat × GtServo) := []
  /-- Far bytes from one PA up to another that were written under a setting of FENC and keys that the partition has left since (22 R392). -/
  farOld : List (Nat × Nat × Option (BitVec 512)) := []
  /-- Number of the next free value (A15). -/
  free : Nat := 0
  /-- Records whose stamp a task wrote or will write in this scan, and tasks ended in it (20 R362). -/
  recNotes : List (Task × Nat) := []
  ended : List Task := []
  /-- Faults that the management firmware counts, as (kind, unit, scan edge counted), and the scan edges since reset (20 R365). -/
  faults : List (Nat × Nat × Nat) := []
  scans : Nat := 0
  /-- Records whose stamp a task wrote in the last scan, for a fault decided after the edge (07 R157, 20 R362). -/
  oldNotes : List (Task × Nat) := []
  /-- The undo logs of the last scan and the tasks that they did not hold, for the same (20 R364). -/
  oldLogs : Tbl (List UndoLine) := []
  oldOvf : List Task := []
  contlog : List EndNote := []
  logs : Tbl Log := []
  agenda : List Ev := []
  nextId : Nat := 0
  inputs : List (Nat × Instr) := []
  /-- Turns of this cycle that the power controller asks to gate: core and berth (06 R147). -/
  gateReq : List (Nat × Nat) := []
  /-- Next core whose turn of this cycle is to come; 96 when all are done. -/
  turnCore : Nat := 0
  /-- Accesses of this cycle that their port does not serve: event, rank served, bank (06 R146, 11 R232). -/
  denials : List (Nat × Nat × Nat) := []
  /-- Bytes written over a register port or record port, or by the MXE into a B store, in this cycle: place and byte mask (13 R270). -/
  portWrites : List (Nat × Nat) := []
  /-- The group at hand: its words with their slots. -/
  words : List (Nat × Instr) := []
  cur : Cur := {}
  deriving DecidableEq, Repr

/-- The machine right after reset. Every table is empty, which reads as each entry's default above; the plan and the
management firmware give the rest (A1, A4). -/
def State.reset : State := {}

/-- The reasons for which a step stops the model. Traps of the E96 are next states and are not among them. -/
inductive Fault where
  /-- Raised by an event row that names a core, berth, cluster, tier, partition or port that the E96 does not have. Safe: the
  spec gives such an event no existence. -/
  | noSuchUnit
  deriving DecidableEq, Repr

/-- The reasons for which a step refuses an instruction. -/
inductive Refusal where
  /-- An arm of Dispatch whose instruction has no meaning yet. Safe: nothing is claimed of it. -/
  | notModelled (mnemonic : String)
  deriving DecidableEq, Repr

end Sys2Proof.Machine
end

