-- ==== Sys2Proof/Machine/Tbl.lean ====
section
/-! DEFINITION. Finite maps, sets of numbers and the units of the package by their number. -/

namespace Sys2Proof.Machine

/-- The value at key k, or the default d. -/
def Tbl.get {α : Type} (t : Tbl α) (d : α) (k : Nat) : α :=
  match t with
  | [] => d
  | (j, v) :: t => if j = k then v else Tbl.get t d k

/-- Puts v at key k. -/
def Tbl.put {α : Type} (t : Tbl α) (k : Nat) (v : α) : Tbl α :=
  match t with
  | [] => [(k, v)]
  | (j, w) :: t => if k = j then (k, v) :: t else if k < j then (k, v) :: (j, w) :: t else (j, w) :: Tbl.put t k v

def Tbl.find? {α : Type} (t : Tbl α) (k : Nat) : Option α :=
  match t with
  | [] => none
  | (j, v) :: t => if j = k then some v else Tbl.find? t k

def Tbl.del {α : Type} (t : Tbl α) (k : Nat) : Tbl α := t.filter fun e => e.1 ≠ k

/-- Puts v at key k, or takes the key out when v is the default. -/
def Tbl.set {α : Type} [DecidableEq α] (t : Tbl α) (d : α) (k : Nat) (v : α) : Tbl α :=
  if v = d then t.del k else t.put k v

/-- Insertion in a rising list. -/
def setIns (t : List Nat) (k : Nat) : List Nat :=
  match t with
  | [] => [k]
  | j :: t => if k = j then j :: t else if k < j then k :: j :: t else j :: setIns t k

def setDel (t : List Nat) (k : Nat) : List Nat := t.filter (· ≠ k)

def setPut (t : List Nat) (k : Nat) (b : Bool) : List Nat := if b then setIns t k else setDel t k

namespace State

def core (s : State) (n : Nat) : Core := s.cores.get {} n
def setCore (s : State) (n : Nat) (c : Core) : State := { s with cores := s.cores.put n c }
def modCore (s : State) (n : Nat) (f : Core → Core) : State := s.setCore n (f (s.core n))

def berth (s : State) (c b : Nat) : Berth := (s.core c).berths.get {} b
def setBerth (s : State) (c b : Nat) (x : Berth) : State :=
  s.setCore c { s.core c with berths := (s.core c).berths.put b x }
def modBerth (s : State) (c b : Nat) (f : Berth → Berth) : State := s.setBerth c b (f (s.berth c b))

def cluster (s : State) (n : Nat) : Cluster := s.clusters.get {} n
def setCluster (s : State) (n : Nat) (c : Cluster) : State := { s with clusters := s.clusters.put n c }
def modCluster (s : State) (n : Nat) (f : Cluster → Cluster) : State := s.setCluster n (f (s.cluster n))

def tier (s : State) (n : Nat) : Tier := s.tiers.get {} n
def setTier (s : State) (n : Nat) (c : Tier) : State := { s with tiers := s.tiers.put n c }
def modTier (s : State) (n : Nat) (f : Tier → Tier) : State := s.setTier n (f (s.tier n))

def part (s : State) (n : Nat) : Part := s.parts.get {} n
def setPart (s : State) (n : Nat) (c : Part) : State := { s with parts := s.parts.put n c }
def modPart (s : State) (n : Nat) (f : Part → Part) : State := s.setPart n (f (s.part n))

/-- The berth at hand. -/
def me (s : State) : Berth := s.berth s.cur.core s.cur.berth
def modMe (s : State) (f : Berth → Berth) : State := s.modBerth s.cur.core s.cur.berth f

end State

/-- The tier of a clock: clocks 0 to 5 are the tiers', 8 + 8 t + p the one of partition p's cores in tier t while it differs (16 R291). -/
def clockTier (k : Nat) : Nat := if k < 8 then k else (k - 8) / 8

/-- Tier, cluster (0-23 over the package), mesh coordinates and mesh index of a logical core (00 R3). -/
def tierOf (core : Nat) : Nat := core / 16
def clusterOf (core : Nat) : Nat := core / 4
def coreX (core : Nat) : Nat := 2 * (core / 4 % 2) + core % 2
def coreY (core : Nat) : Nat := 2 * (core / 8 % 2) + core / 2 % 2
def meshIdx (core : Nat) : Nat := coreY core * 4 + coreX core

/-- The logical core at mesh coordinates of a tier (00 R3). -/
def coreAt (tier x y : Nat) : Nat := tier * 16 + (y / 2 * 2 + x / 2) * 4 + (y % 2) * 2 + x % 2

/-- The logical core at a mesh index of a tier. -/
def coreAtMesh (tier m : Nat) : Nat := coreAt tier (m % 4) (m / 4)

/-- Counters that saturate at n bits, all ones (20 R368). -/
def satInc (n v : Nat) : Nat := if v + 1 < 2 ^ n then v + 1 else 2 ^ n - 1

/-- Signed value of a bit pattern of n bits. -/
def toSigned (n v : Nat) : Int := if v % 2 ^ n < 2 ^ (n - 1) then (v % 2 ^ n : Nat) else (v % 2 ^ n : Nat) - (2 ^ n : Nat)

/-- Bit pattern of n bits of an integer. -/
def toBits (n : Nat) (v : Int) : Nat := (v % (2 ^ n : Nat)).toNat

/-- SignExt(48, X) of a 48-bit immediate (00 R9). -/
def sx48 (x : BitVec 48) : Word := x.signExtend 64

end Sys2Proof.Machine
end

