-- ==== Sys2Proof/Machine/Float.lean ====
section
/-! DEFINITION. The number formats and the rounding of 03 R62 to R69 and R78, and the four approximations of 05 R111, R112, on
exact values: a sign, a natural significand and an integer exponent. -/

namespace Sys2Proof.Machine

/-- Rounding modes (03 R65). -/
inductive RMode where
  | rne | rtz | rup | rdn
  deriving DecidableEq, Repr

/-- Flags of FST as bits (01 R17). -/
def fNX : BitVec 9 := 1
def fUF : BitVec 9 := 2
def fOF : BitVec 9 := 4
def fDZ : BitVec 9 := 8
def fNV : BitVec 9 := 16
def fSAT : BitVec 9 := 256

/-- A format: exponent bits and fraction bits (03 R62). -/
structure FFmt where
  eb : Nat
  fb : Nat
  deriving DecidableEq, Repr

def fp32 : FFmt := ⟨8, 23⟩
def fp16 : FFmt := ⟨5, 10⟩
def bf16 : FFmt := ⟨8, 7⟩

namespace FFmt

def width (f : FFmt) : Nat := 1 + f.eb + f.fb
def bias (f : FFmt) : Int := 2 ^ (f.eb - 1) - 1
/-- Exponent of the smallest normal. -/
def emin (f : FFmt) : Int := 1 - f.bias
/-- Exponent of the smallest subnormal. -/
def qmin (f : FFmt) : Int := f.emin - f.fb
def signBit (f : FFmt) (neg : Bool) : Nat := if neg then 2 ^ (f.eb + f.fb) else 0
def infBits (f : FFmt) (neg : Bool) : Nat := f.signBit neg + (2 ^ f.eb - 1) * 2 ^ f.fb
def maxBits (f : FFmt) (neg : Bool) : Nat := f.infBits neg - 1
def nanBits (f : FFmt) : Nat := f.infBits false + 2 ^ (f.fb - 1)

end FFmt

/-- A value read from a format: a NaN (signalling or quiet), an infinity, or ±m·2^e. -/
inductive FVal where
  | nan (signalling : Bool)
  | inf (neg : Bool)
  | fin (neg : Bool) (m : Nat) (e : Int)
  deriving DecidableEq, Repr

namespace FVal

def isNaN : FVal → Bool
  | .nan _ => true
  | _ => false
def isSNaN : FVal → Bool
  | .nan sg => sg
  | _ => false
def isZero : FVal → Bool
  | .fin _ m _ => m = 0
  | _ => false
def neg : FVal → Bool
  | .nan _ => false
  | .inf n => n
  | .fin n _ _ => n
def flip : FVal → FVal
  | .nan sg => .nan sg
  | .inf n => .inf !n
  | .fin n m e => .fin (!n) m e
def withSign (n : Bool) : FVal → FVal
  | .nan sg => .nan sg
  | .inf _ => .inf n
  | .fin _ m e => .fin n m e

end FVal

/-- The value of a bit pattern (03 R62). -/
def fdecode (f : FFmt) (bits : Nat) : FVal :=
  let sg := bits / 2 ^ (f.eb + f.fb) % 2 = 1
  let e := bits / 2 ^ f.fb % 2 ^ f.eb
  let m := bits % 2 ^ f.fb
  if e = 2 ^ f.eb - 1 then if m = 0 then .inf sg else .nan (m < 2 ^ (f.fb - 1))
  else if e = 0 then .fin sg m f.qmin
  else .fin sg (m + 2 ^ f.fb) ((e : Int) - f.bias - f.fb)

/-- Bits in a natural number. -/
def bitLen (n : Nat) : Nat := if n = 0 then 0 else n.log2 + 1

/-- Rounds (m + ε)·2^e, 0 < ε < 1 when `sticky`, to a multiple of 2^q: the multiple and whether it differs. -/
def roundQ (rm : RMode) (neg : Bool) (m : Nat) (e : Int) (sticky : Bool) (q : Int) : Nat × Bool :=
  let sh := (q - e).toNat
  let keep := if q ≤ e then m * 2 ^ (e - q).toNat else m / 2 ^ sh
  let rem := if q ≤ e then 0 else m % 2 ^ sh
  let inexact := rem ≠ 0 || sticky
  let twice := 2 * rem
  let unit := if q ≤ e then 1 else 2 ^ sh
  let half := if q ≤ e then false else twice = unit && !sticky
  let more := if q ≤ e then false else twice > unit || (twice = unit && sticky)
  let up := match rm with
    | .rne => more || (half && keep % 2 = 1)
    | .rtz => false
    | .rup => inexact && !neg
    | .rdn => inexact && neg
  (if up then keep + 1 else keep, inexact)

/-- RoundTo with `prec` significant bits inside the exponent range of f (00 R9, 03 R65, R68; 05 R111 with fewer bits): the bits
and the flags. A result that 12-bit rounding carries past the top member of R111's set P, which holds finite values alone, goes to infinity
with OF and NX, as 03 R65 rounds (A57, DESIGN CHOICE). -/
def roundPrec (f : FFmt) (prec : Nat) (rm : RMode) (neg : Bool) (m : Nat) (e : Int) (sticky : Bool := false) : Nat × BitVec 9 :=
  if m = 0 && !sticky then (f.signBit neg, 0)
  else
    let top := e + bitLen m - 1
    let q0 := top - (prec - 1)
    let q := max q0 f.qmin
    let (k, inexact) := roundQ rm neg m e sticky q
    let (k0, _) := roundQ rm neg m e sticky q0
    -- tininess is detected after rounding to unbounded exponent
    let tiny := q0 + bitLen k0 - 1 < f.emin
    let fl := (if inexact then fNX else 0) ||| (if inexact && tiny then fUF else 0)
    if k = 0 then (f.signBit neg, fl)
    else
      let t := q + bitLen k - 1
      if f.bias < t then
        let toInf := match rm with
          | .rne => true
          | .rtz => false
          | .rup => !neg
          | .rdn => neg
        (if toInf then f.infBits neg else f.maxBits neg, fOF ||| fNX)
      else if t < f.emin then (f.signBit neg + k * 2 ^ (q - f.qmin).toNat, fl)
      else
        let fr := if t - f.fb ≤ q then k * 2 ^ (q - (t - f.fb)).toNat else k / 2 ^ ((t - f.fb) - q).toNat
        (f.signBit neg + (t + f.bias).toNat * 2 ^ f.fb + (fr - 2 ^ f.fb), fl)

def roundTo (f : FFmt) (rm : RMode) (neg : Bool) (m : Nat) (e : Int) (sticky : Bool := false) : Nat × BitVec 9 :=
  roundPrec f (f.fb + 1) rm neg m e sticky

/-- The canonical NaN with NV (03 R67). -/
def invalid (f : FFmt) : Nat × BitVec 9 := (f.nanBits, fNV)

/-- A NaN operand: the canonical NaN, with NV for a signalling one. -/
def nanResult (f : FFmt) (xs : List FVal) : Nat × BitVec 9 := (f.nanBits, if xs.any (·.isSNaN) then fNV else 0)

/-- An exact sum of two finite values. -/
def exactAdd (rm : RMode) (n1 : Bool) (m1 : Nat) (e1 : Int) (n2 : Bool) (m2 : Nat) (e2 : Int) : Bool × Nat × Int :=
  let e := min e1 e2
  let a : Int := (m1 * 2 ^ (e1 - e).toNat : Nat)
  let b : Int := (m2 * 2 ^ (e2 - e).toNat : Nat)
  let t := (if n1 then -a else a) + (if n2 then -b else b)
  if t = 0 then (if n1 = n2 then n1 else decide (rm = .rdn), 0, e) else (decide (t < 0), t.natAbs, e)

/-- a·b + c rounded once, with the sum's sign rule of 03 R65 (R67: 0·∞ is invalid whatever c is). -/
def fmaVal (f : FFmt) (rm : RMode) (a b c : FVal) : Nat × BitVec 9 :=
  let bad : Bool := match a, b with
    | .inf _, .fin _ m _ => m = 0
    | .fin _ m _, .inf _ => m = 0
    | _, _ => false
  if bad then invalid f
  else if a.isNaN || b.isNaN || c.isNaN then nanResult f [a, b, c]
  else
    let ps := a.neg != b.neg
    match a, b, c with
    | .fin _ m1 e1, .fin _ m2 e2, .fin n3 m3 e3 =>
      let (n, m, e) := exactAdd rm ps (m1 * m2) (e1 + e2) n3 m3 e3
      roundTo f rm n m e
    | .fin .., .fin .., .inf n => (f.infBits n, 0)
    | _, _, .inf n => if n = ps then (f.infBits n, 0) else invalid f
    | _, _, _ => (f.infBits ps, 0)

def addVal (f : FFmt) (rm : RMode) (a b : FVal) : Nat × BitVec 9 :=
  if a.isNaN || b.isNaN then nanResult f [a, b]
  else match a, b with
    | .fin n1 m1 e1, .fin n2 m2 e2 =>
      let (n, m, e) := exactAdd rm n1 m1 e1 n2 m2 e2
      roundTo f rm n m e
    | .inf n, .inf k => if n = k then (f.infBits n, 0) else invalid f
    | .inf n, _ => (f.infBits n, 0)
    | _, .inf n => (f.infBits n, 0)
    | _, _ => (f.nanBits, 0)

def mulVal (f : FFmt) (rm : RMode) (a b : FVal) : Nat × BitVec 9 :=
  if a.isNaN || b.isNaN then nanResult f [a, b]
  else
    let n := a.neg != b.neg
    match a, b with
    | .fin _ m1 e1, .fin _ m2 e2 => roundTo f rm n (m1 * m2) (e1 + e2)
    | .inf _, .fin _ m _ => if m = 0 then invalid f else (f.infBits n, 0)
    | .fin _ m _, .inf _ => if m = 0 then invalid f else (f.infBits n, 0)
    | _, _ => (f.infBits n, 0)

/-- Quotient bits of m1/m2 with at least 64 significant bits, its exponent, and whether a remainder is left. -/
def quotBits (m1 m2 : Nat) : Nat × Int × Bool :=
  let k := 64 + bitLen m2
  let t := m1 * 2 ^ k
  (t / m2, -(k : Int), t % m2 ≠ 0)

def divVal (f : FFmt) (rm : RMode) (a b : FVal) : Nat × BitVec 9 :=
  if a.isNaN || b.isNaN then nanResult f [a, b]
  else
    let n := a.neg != b.neg
    match a, b with
    | .fin _ m1 e1, .fin _ m2 e2 =>
      if m2 = 0 then if m1 = 0 then invalid f else (f.infBits n, fDZ)
      else
        let (q, e, st) := quotBits m1 m2
        roundTo f rm n q (e1 - e2 + e) st
    | .inf _, .inf _ => invalid f
    | .inf _, _ => (f.infBits n, 0)
    | _, _ => (f.signBit n, 0)

/-- Integer square root, bit by bit from bit i down. -/
def isqrtFrom (n : Nat) : Nat → Nat → Nat
  | 0, r => r
  | i + 1, r => let t := r + 2 ^ i; isqrtFrom n i (if t * t ≤ n then t else r)

def isqrt (n : Nat) : Nat := isqrtFrom n (bitLen n / 2 + 1) 0

def sqrtVal (f : FFmt) (rm : RMode) (a : FVal) : Nat × BitVec 9 :=
  match a with
  | .nan _ => nanResult f [a]
  | .inf n => if n then invalid f else (f.infBits false, 0)
  | .fin n m e =>
    if m = 0 then (f.signBit n, 0)
    else if n then invalid f
    else
      -- an even exponent and 128 more bits
      let m2 := if e % 2 = 0 then m else 2 * m
      let e2 := if e % 2 = 0 then e else e - 1
      let r := isqrt (m2 * 2 ^ 128)
      roundTo f rm false r (e2 / 2 - 64) (r * r ≠ m2 * 2 ^ 128)

/-- Order of two numbers, −0 equal to +0. -/
def ordVal (a b : FVal) : Ordering :=
  match a, b with
  | .inf n, .inf k => if n = k then .eq else if n then .lt else .gt
  | .inf n, _ => if n then .lt else .gt
  | _, .inf n => if n then .gt else .lt
  | .fin n1 m1 e1, .fin n2 m2 e2 =>
    let e := min e1 e2
    let x : Int := (m1 * 2 ^ (e1 - e).toNat : Nat)
    let y : Int := (m2 * 2 ^ (e2 - e).toNat : Nat)
    compare (if n1 then -x else x) (if n2 then -y else y)
  | _, _ => .eq

/-- minimumNumber and maximumNumber (03 R67) of two bit patterns. -/
def minMaxVal (f : FFmt) (isMax : Bool) (x y : Nat) : Nat × BitVec 9 :=
  let a := fdecode f x
  let b := fdecode f y
  let fl := if a.isSNaN || b.isSNaN then fNV else 0
  if a.isNaN && b.isNaN then (f.nanBits, fl)
  else if a.isNaN then (y, fl)
  else if b.isNaN then (x, fl)
  else
    let lt := match ordVal a b with
      | .lt => true
      | .gt => false
      | .eq => a.neg && !b.neg
    (if lt != isMax then x else y, fl)

/-- A finite value rounded to an integer by the mode, and whether it was not one. -/
def roundInt (rm : RMode) (n : Bool) (m : Nat) (e : Int) : Int × Bool :=
  let (k, ix) := roundQ rm n m e false 0
  (if n then -(k : Int) else k, ix)

/-- FP to an integer range (03 R69). -/
def toIntVal (rm : RMode) (lo hi : Int) (a : FVal) : Int × BitVec 9 :=
  match a with
  | .nan _ => (0, fNV)
  | .inf n => (if n then lo else hi, fNV)
  | .fin n m e =>
    let (v, ix) := roundInt rm n m e
    if v < lo then (lo, fNV) else if hi < v then (hi, fNV) else (v, if ix then fNX else 0)

/-- Integer to FP (03 R69). -/
def ofIntVal (f : FFmt) (rm : RMode) (v : Int) : Nat × BitVec 9 := roundTo f rm (decide (v < 0)) v.natAbs 0

/-- FP to FP (03 R69). -/
def cvtVal (f : FFmt) (rm : RMode) (a : FVal) : Nat × BitVec 9 :=
  match a with
  | .nan _ => nanResult f [a]
  | .inf n => (f.infBits n, 0)
  | .fin n m e => roundTo f rm n m e

/-! ## Approximations (05 R111, R112): rounded to nearest with min(12, p) bits -/

def apPrec (f : FFmt) : Nat := min 12 (f.fb + 1)

def rcpVal (f : FFmt) (a : FVal) : Nat × BitVec 9 :=
  match a with
  | .nan _ => nanResult f [a]
  | .inf n => (f.signBit n, 0)
  | .fin n m e =>
    if m = 0 then (f.infBits n, fDZ)
    else
      let (q, qe, st) := quotBits 1 m
      roundPrec f (apPrec f) .rne n q (qe - e) st

def rsqVal (f : FFmt) (a : FVal) : Nat × BitVec 9 :=
  match a with
  | .nan _ => nanResult f [a]
  | .inf n => if n then invalid f else (f.signBit false, 0)
  | .fin n m e =>
    if m = 0 then (f.infBits n, fDZ)
    else if n then invalid f
    else
      let m2 := if e % 2 = 0 then m else 2 * m
      let e2 := if e % 2 = 0 then e else e - 1
      let r := isqrt (2 ^ 256 / m2)
      roundPrec f (apPrec f) .rne false r (-128 - e2 / 2) (r * r * m2 ≠ 2 ^ 256)

/-- Bounds of 2^(2^-i) for i = 1, 2, …, as fixed-point numbers of w bits. -/
def rootBounds (w : Nat) : Nat → Nat × Nat → List (Nat × Nat)
  | 0, _ => []
  | n + 1, (lo, hi) =>
    let r := (isqrt (lo * 2 ^ w), isqrt (hi * 2 ^ w) + 1)
    r :: rootBounds w n r

/-- Bounds of 2^(f/2^k), the product of the roots at the ones of f, w bits. -/
def exp2Bounds (w k f : Nat) : Nat × Nat :=
  let rs := rootBounds w k (2 * 2 ^ w, 2 * 2 ^ w)
  let step (acc : Nat × Nat) (e : Nat × (Nat × Nat)) : Nat × Nat :=
    if f.testBit (k - 1 - e.1) then (acc.1 * e.2.1 / 2 ^ w, acc.2 * e.2.2 / 2 ^ w + 1) else acc
  ((List.range k).zip rs).foldl step (2 ^ w, 2 ^ w)

/-- Leading 40 bits after the point of 2^(f/2^k), 0 < f < 2^k, which is irrational: a precision is taken at which both bounds
agree on them. -/
def exp2Frac (k f : Nat) : Nat → Nat → Nat
  | 0, w => (exp2Bounds w k f).1 / 2 ^ (w - 40)
  | n + 1, w =>
    let (lo, hi) := exp2Bounds w k f
    if lo / 2 ^ (w - 40) = hi / 2 ^ (w - 40) then lo / 2 ^ (w - 40) else exp2Frac k f n (2 * w)

def exp2Val (f : FFmt) (a : FVal) : Nat × BitVec 9 :=
  match a with
  | .nan _ => nanResult f [a]
  | .inf n => (if n then 0 else f.infBits false, 0)
  | .fin n m e =>
    if m = 0 then roundTo f .rne false 1 0
    else if e + bitLen m ≤ -14 then ((roundTo f .rne false 1 0).1, fNX)
    else if 12 < e + bitLen m then
      if n then (0, fUF ||| fNX) else (f.infBits false, fOF ||| fNX)
    else if 0 ≤ e then
      let v : Int := (m * 2 ^ e.toNat : Nat)
      roundPrec f (apPrec f) .rne false 1 (if n then -v else v)
    else
      let k := (-e).toNat
      -- floor and fraction of ±m/2^k
      let i : Int := if n then -((m + 2 ^ k - 1) / 2 ^ k : Nat) else (m / 2 ^ k : Nat)
      let fr := if n then (2 ^ k - m % 2 ^ k) % 2 ^ k else m % 2 ^ k
      if fr = 0 then roundPrec f (apPrec f) .rne false 1 i
      else roundPrec f (apPrec f) .rne false (exp2Frac k fr 6 128) (i - 40) true

/-- n fraction bits of log2 of a value between the bounds, 1 ≤ value < 2, w fixed-point bits; none when the bounds do not decide
a bit. -/
def log2Bits (w : Nat) : Nat → Nat × Nat → Nat → Option Nat
  | 0, _, acc => some acc
  | n + 1, (lo, hi), acc =>
    let lo2 := lo * lo / 2 ^ w
    let hi2 := hi * hi / 2 ^ w + 1
    if 2 * 2 ^ w ≤ lo2 then log2Bits w n (lo2 / 2, hi2 / 2 + 1) (2 * acc + 1)
    else if hi2 < 2 * 2 ^ w then log2Bits w n (lo2, hi2) (2 * acc)
    else none

/-- 64 fraction bits of log2(m/2^(L-1)), L the length of m; irrational unless m is a power of two. -/
def log2Frac (m : Nat) : Nat → Nat → Nat
  | 0, _ => 0
  | n + 1, w =>
    let x := m * 2 ^ w / 2 ^ (bitLen m - 1)
    match log2Bits w 64 (x, x) 0 with
    | some v => v
    | none => log2Frac m n (2 * w)

def log2Val (f : FFmt) (a : FVal) : Nat × BitVec 9 :=
  match a with
  | .nan _ => nanResult f [a]
  | .inf n => if n then invalid f else (f.infBits false, 0)
  | .fin n m e =>
    if m = 0 then (f.infBits true, fDZ)
    else if n then invalid f
    else
      let t := e + bitLen m - 1
      if m = 2 ^ (bitLen m - 1) then roundPrec f (apPrec f) .rne (decide (t < 0)) t.natAbs 0
      else
        let v : Int := t * 2 ^ 64 + log2Frac m 6 256
        if v < 0 then roundPrec f (apPrec f) .rne true ((-v).toNat - 1) (-64) true
        else roundPrec f (apPrec f) .rne false v.toNat (-64) true

end Sys2Proof.Machine
end

