-- ==== Sys2Proof/Config.lean ====
section
/-! DEFINITION. What an implementation fixes and the values that the manual leaves open (log entries A7, A8, A9). -/

namespace Sys2Proof.Config

/-- The courier's untimed latency of its n-th piece of work, in cycles (17 R315 fixes no figure or bound). -/
opaque courierDelay : Nat → Nat

/-- Whether the n-th read of a location whose untimed write is not drained gets the new value (13 R273). -/
opaque undrainedNew : Nat → Bool

/-- The signature of the n-th attestation report, in the identity key that never leaves the hall (22 R391). -/
opaque signature : Nat → BitVec 768

/-- SHA-384 of a firmware image and of a plan image; the images' bytes are not modelled (22 R391, A9). -/
opaque fwDigest : FwImage → BitVec 384
opaque planDigest : Plan → BitVec 384

/-- What a report's plan digest holds for the n-th report made with no plan active (22 R391 states nothing). -/
opaque noPlanDigest : Nat → BitVec 384

/-- The n-th draw of two keys from the TRNG (22 R392). -/
opaque xtsKeys : Nat → BitVec 512

/-- What 16 bytes at a PA, stored under the first setting (the keys, or none for plain storage), read as under the second, given their value
under the first: AES-256-XTS with a data unit of 4 KiB of PA and the tweak PA[36:12] (22 R392; its arithmetic is not modelled, A9). -/
opaque xtsCross : Option (BitVec 512) → Option (BitVec 512) → Nat → BitVec 128 → BitVec 128

/-- The 802.1CB sequence number of a replicated frame of scan n: it is derived from SCN, the same in both packages of a pair (16 R292, 23
R400), which does not say how. -/
opaque seqNo : BitVec 32 → BitVec 16

/-- The loader's time for the n-th plan load, in cycles (18 R344 states none). -/
opaque loadDelay : Nat → Nat

/-- The time of the n-th verification of a plan image, in cycles (18 R344 states none). -/
opaque verifyDelay : Nat → Nat

/-- The syndrome that a SECDED decoder reports for an error of the word with this place key (20 R357 gives no code). -/
opaque syndrome : Nat → BitVec 8

/-- The n-th value that the manual leaves open: a TINFO or TCOORD that no rule states, a field that is valid only in another case
(A15). -/
opaque freeWord : Nat → BitVec 64

/-- The time of the n-th signing by the hall, in cycles (22 R391 states none). -/
opaque signDelay : Nat → Nat

end Sys2Proof.Config
end

