-- ==== Sys2Proof/Machine/Mem.lean ====
section
/-! DEFINITION. Memory by place: the one list of bytes, the parity, poison and SECDED states beside it, and what a read
through an access class returns (01 R19 to R22, 07 R157, 13 R265 to R273, 20 R357). -/

namespace Sys2Proof.Machine

/-! ## Keys: the place address of 13 R265 with the E96 tier; far memory and the process images above them -/

/-- Fields TIER, CLUSTER and POSITION of a logical core. -/
def coreBase (core : Nat) : Nat := tierOf core * 2 ^ 42 + core / 4 % 4 * 2 ^ 40 + core % 4 * 2 ^ 38
def wsKey (core off : Nat) : Nat := coreBase core + off
def codeKey (core off : Nat) : Nat := 2 ^ 45 + coreBase core + off
def roomKey (core off : Nat) : Nat := 2 * 2 ^ 45 + coreBase core + off
def bsKey (cluster off : Nat) : Nat := 3 * 2 ^ 45 + cluster / 4 * 2 ^ 42 + cluster % 4 * 2 ^ 40 + off
/-- Tier 6 is the keeper. -/
def commonKey (tier off : Nat) : Nat := 4 * 2 ^ 45 + tier * 2 ^ 42 + off
def hallKey (off : Nat) : Nat := 5 * 2 ^ 45 + 6 * 2 ^ 42 + off
def farKey (pa : Nat) : Nat := 2 ^ 48 + pa
/-- Input and output image halves of a partition (16 R294, R301). -/
def imgKey (part : Nat) (out : Bool) (half : Bool) (off : Nat) : Nat :=
  2 ^ 49 + part * 2 ^ 20 + out.toNat * 2 ^ 18 + half.toNat * 2 ^ 17 + off
/-- The default images (16 R296, R300). -/
def defKey (part : Nat) (out : Bool) (off : Nat) : Nat := 2 ^ 49 + 2 ^ 24 + part * 2 ^ 20 + out.toNat * 2 ^ 18 + off

/-- The memory of a control core: 2 MiB in all, taken as 256 KiB for each of the eight (00 R4; A32, DEDUCED). -/
def ctlKey (n off : Nat) : Nat := 2 ^ 49 + 2 ^ 25 + n * 2 ^ 18 + off

inductive Space where
  | ws | code | room | bs | common | hall | far | image | ctl
  deriving DecidableEq, Repr

def spaceOf (key : Nat) : Space :=
  if key < 2 ^ 45 then .ws
  else if key < 2 * 2 ^ 45 then .code
  else if key < 3 * 2 ^ 45 then .room
  else if key < 4 * 2 ^ 45 then .bs
  else if key < 5 * 2 ^ 45 then .common
  else if key < 2 ^ 48 then .hall
  else if key < 2 ^ 49 then .far
  else if key < 2 ^ 49 + 2 ^ 25 then .image
  else .ctl

/-- The core of a workspace-store, code or room place. -/
def coreOfKey (key : Nat) : Nat := key / 2 ^ 42 % 8 * 16 + key / 2 ^ 40 % 4 * 4 + key / 2 ^ 38 % 4
def offOfKey (key : Nat) : Nat := key % 2 ^ 36
def tierOfKey (key : Nat) : Nat := key / 2 ^ 42 % 8

/-! ## Bytes -/

namespace Memory

/-- What a byte that nothing has written reads as (A2): one in every bit of a code store, whose lines are then fill lines (02 R39),
and zero elsewhere. -/
def unlisted (a : Nat) : Byte := if 2 ^ 45 ≤ a && a < 2 * 2 ^ 45 then 0xFF else 0

def byte (m : List Host.Cell) (a : Nat) : Byte :=
  match m with
  | [] => unlisted a
  | (j, v) :: m => if j = a then v else byte m a

/-- Takes the listing of a byte out. -/
def drop (m : List Host.Cell) (a : Nat) : List Host.Cell :=
  match m with
  | [] => []
  | (j, v) :: m => if j = a then m else (j, v) :: drop m a

/-- Lists a byte in its place. -/
def insert (m : List Host.Cell) (a : Nat) (b : Byte) : List Host.Cell :=
  match m with
  | [] => [(a, b)]
  | (j, v) :: m => if a = j then (a, b) :: m else if a < j then (a, b) :: (j, v) :: m else (j, v) :: insert m a b

/-- Writes one byte, keeping the canonical form. -/
def put (m : List Host.Cell) (a : Nat) (b : Byte) : List Host.Cell :=
  if b = unlisted a then drop m a else insert m a b

/-- The canonical form: addresses strictly rising, no entry equal to what an unlisted address reads as. -/
def wf : List Host.Cell → Bool
  | [] => true
  | [(a, v)] => v ≠ unlisted a
  | (a, v) :: (b, w) :: m => v ≠ unlisted a && a < b && wf ((b, w) :: m)

/-- n bytes from a, little-endian (00 R5). -/
def read (m : List Host.Cell) (a : Nat) : Nat → Nat
  | 0 => 0
  | n + 1 => (byte m a).toNat + 256 * read m (a + 1) n

/-- Writes the bytes of v from a at which `mask` has its bit set. -/
def write (m : List Host.Cell) (a : Nat) (n v mask : Nat) : List Host.Cell :=
  match n with
  | 0 => m
  | n + 1 =>
    write (if mask % 2 = 1 then put m a (BitVec.ofNat 8 v) else m) (a + 1) n (v / 256) (mask / 2)

end Memory

/-- A mask of n ones. -/
def ones (n : Nat) : Nat := 2 ^ n - 1

/-! ## Reads -/

/-- Access classes of 13 R271. -/
def clsT : Nat := 0
def clsM : Nat := 1
def clsS : Nat := 2
def clsC : Nat := 3
def clsI : Nat := 4
def clsH : Nat := 5
def clsP : Nat := 6

namespace State

/-- The bytes as the latest writes left them. -/
def readRaw (s : State) (key n : Nat) : Nat := Memory.read s.mem key n

/-- Whether an untimed write is drained for reads of a class in this cycle (13 R273). -/
def drainedFor (s : State) (cls : Nat) (u : Undrained) : Bool :=
  u.cls = cls || u.drains.any fun d => d.1 = cls && d.2 ≤ s.acc

/-- The byte that a read of class `cls` returns: the latest write, or, for a write of class C, I or P that is not drained, it
or an earlier value, though none before a write that is drained (13 R273; the choice is the free value `Config.undrainedNew` at the byte, class and cycle, A7). -/
def pickByte (s : State) (cls key : Nat) (cand : Byte) : List Undrained → Nat → Byte
  | [], _ => cand
  | u :: us, i =>
    if u.key = key then
      if s.drainedFor cls u || Config.undrainedNew (((s.acc * 8 + cls) * 2 ^ 50 + key) * 256 + i) then cand
      else s.pickByte cls key u.old us (i + 1)
    else s.pickByte cls key cand us i

def readByte (s : State) (cls key : Nat) : Byte := s.pickByte cls key (Memory.byte s.mem key) s.undrained 0

/-- n bytes read through a class. -/
def readAs (s : State) (cls key : Nat) : Nat → Nat
  | 0 => 0
  | n + 1 => (s.readByte cls key).toNat + 256 * s.readAs cls (key + 1) n

/-- Units of 4 bytes (workspace store) or words of 8 bytes (SECDED arrays) that n bytes from key touch. -/
def unitsOf (w key n : Nat) : List Nat :=
  (List.range ((key + n + w - 1) / w - key / w)).map fun i => (key / w + i) * w

/-- First unit of a workspace store whose parity fails among n bytes from key. -/
def badUnit (s : State) (key n : Nat) : Option Nat :=
  (unitsOf 4 key n).find? fun u => s.badUnits.contains u

def psnUnit (s : State) (key n : Nat) : Bool := (unitsOf 4 key n).any fun u => s.psnUnits.contains u

/-- Words under SECDED that are not usable among n bytes from key: poison code or true uncorrectable (20 R357). -/
def eccAny (s : State) (key n : Nat) (e : Ecc) : Bool := (unitsOf 8 key n).any fun u => s.ecc.get .good u = e

/-- A read of n bytes in any space meets poison: a poison bit or failing parity, or a word that is not usable. -/
def tainted (s : State) (key n : Nat) : Bool :=
  match spaceOf key with
  | .ws => s.psnUnit key n || (s.badUnit key n).isSome
  | .code => false
  | _ => s.eccAny key n .poison || s.eccAny key n .unc

end State

/-! ## Logs and counters of errors met -/

namespace State

/-- Appends an entry to log k; with 256 unread entries the oldest is overwritten (20 R374). -/
def log (s : State) (k : Nat) (e : LogEntry) : State :=
  let l := s.logs.get {} k
  { s with logs := s.logs.put k { l with entries := l.entries.put l.wr e, wr := (l.wr + 1) % 256, ovf := l.ovf || 256 ≤ l.unread,
                                         unread := min 256 (l.unread + 1) } }

/-- SCN as a tier holds it, or the hall (6); they agree but from b_E to the edge cycle and after a missed edge (16 R288, R291). -/
def scnOf (s : State) (tier : Nat) : BitVec 32 := if tier = 6 then s.hall.scn else (s.tier tier).scn

def logEv (s : State) (k code tier pos berth sub addr data : Nat) : State :=
  s.log k { code := code, tier := tier, pos := pos, berth := berth, sub := sub, scn := s.scnOf tier, acc := s.acc,
            addr := addr, data := data }

def modCoreStat (s : State) (core : Nat) (f : CoreStat → CoreStat) : State :=
  s.modCore core fun c => { c with stat := f c.stat }

def modPosStat (s : State) (core : Nat) (f : PosStat → PosStat) : State :=
  s.modTier (tierOf core) fun t => { t with posstat := t.posstat.put (meshIdx core) (f (t.posstat.get {} (meshIdx core))) }

/-- Faults that the management firmware counts (20 R365): register-parity traps, repairs of duplicates and fetch-parity traps with a good
room copy at a site, a failed bond port, flit errors on an incoming link, MISMATCH statuses and B-store lines in a cluster, channel swaps, and
corrected words of an array. -/
inductive FaultKind where
  | regParity | dupRepair | fetchParity | bondPort | flit | mismatch | bLine | swap | corr
  deriving DecidableEq, Repr

def FaultKind.num : FaultKind → Nat
  | .regParity => 0
  | .dupRepair => 1
  | .fetchParity => 2
  | .bondPort => 3
  | .flit => 4
  | .mismatch => 5
  | .bLine => 6
  | .swap => 7
  | .corr => 8

def noteFault (s : State) (k : FaultKind) (unit : Nat) : State := { s with faults := (k.num, unit, s.scans) :: s.faults }

/-- An array under SECDED, as a number: the room of core c, the B store of cluster c, a replica or the keeper, the hall. -/
def arrayOf (key : Nat) : Nat :=
  match spaceOf key with
  | .room => coreOfKey key
  | .bs => 96 + key / 2 ^ 42 % 8 * 4 + key / 2 ^ 40 % 4
  | .common => 120 + tierOfKey key
  | _ => 127

/-- Counts and logs a corrected (`unc` false) or true uncorrectable error of the word at `key` (20 R355, R370, R372, R375). -/
def countEcc (s : State) (key : Nat) (unc : Bool) : State :=
  let cl := key / 2 ^ 42 % 8 * 4 + key / 2 ^ 40 % 4
  let s := match spaceOf key with
    | .room => s.modPosStat (coreOfKey key) fun p =>
        if unc then { p with runc := satInc 8 p.runc } else { p with rcor := satInc 8 p.rcor }
    | .bs =>
      let line := key / 64 * 64
      let s := if unc && !s.faults.any (fun f => f.1 = FaultKind.bLine.num && f.2.1 = line) then s.noteFault .bLine line else s
      s.modCluster cl fun c => if unc then { c with bunc := satInc 8 c.bunc } else { c with bcor := satInc 8 c.bcor }
    | _ => s
  let s := if unc then s else s.noteFault .corr (arrayOf key)
  s.logEv 0 (if unc then 5 else 4) (tierOfKey key) (if spaceOf key = .room then meshIdx (coreOfKey key) else 0) 0 0
    (key % 2 ^ 48) (Config.syndrome key).toNat

end State

/-! ## Writes -/

/-- The workspaces of a core's store: where its berths' WSP points or has pointed under this plan (01 R14, R31; A12). -/
def State.isWorkspace (s : State) (core base : Nat) : Bool :=
  base % 0x2000 = 0 && ((s.core core).berths.any (fun e => e.2.wsp = base) || (s.core core).spaces.contains base)

/-- The mask bits of the unit or word at offset o (in bytes) from the write's first byte, w bytes wide. -/
def maskAt (mask : Nat) (key u w : Nat) : Nat :=
  if u < key then mask * 2 ^ (key - u) % 2 ^ w else mask / 2 ^ (u - key) % 2 ^ w

namespace State

/-- New parity and poison state of one unit of a workspace store (01 R20, 07 R157). -/
def unitMark (s : State) (key mask psn u : Nat) : State :=
  let mu := maskAt mask key u 4
  if mu = 0 then s
  else
    let p := maskAt psn key u 4 &&& mu ≠ 0
    if mu = 15 then { s with badUnits := setDel s.badUnits u, psnUnits := setPut s.psnUnits u p }
    else if p then { s with psnUnits := setIns s.psnUnits u } else s

/-- New SECDED state of one 64-bit word (20 R357). -/
def wordMark (s : State) (key mask psn u : Nat) : State :=
  let mu := maskAt mask key u 8
  if mu = 0 then s
  else
    let p := maskAt psn key u 8 &&& mu ≠ 0
    if mu = 255 then { s with ecc := s.ecc.set .good u (if p then .poison else .good) }
    else match s.ecc.get .good u with
      | .good => if p then { s with ecc := s.ecc.set .good u .poison } else s
      | .corr => { s.countEcc u false with ecc := s.ecc.set .good u (if p then .poison else .good) }
      | .unc => { s.countEcc u true with ecc := s.ecc.set .good u .poison }
      | .poison => s

/-- The words of a workspace whose reserved bits are never written, after a write that touches them (01 R17, R18, R21): their
offset, the bits kept, the bits set. -/
def fixedWords : List (Nat × Nat × Nat) :=
  [(0x08, 0xFE, 1), (0x10, 0xFFFFFFFE, 0), (0x18, 0x17F, 0), (0x28, 0xFFFFFFFF0001FFFF, 0)]

def fixWord (s : State) (base key n : Nat) (e : Nat × Nat × Nat) : State :=
  let k := base + e.1
  if key < k + 8 && k < key + n then
    { s with mem := Memory.write s.mem k 8 ((Memory.read s.mem k 8 &&& e.2.1) ||| e.2.2) 255 }
  else s

/-- The reserved bits of a place that becomes a workspace of a core (01 R17, R18, R21). -/
def enterWs (s : State) (core wsp : Nat) : State :=
  fixedWords.foldl (fun s e => s.fixWord (wsKey core wsp) (wsKey core wsp) 0x40 e) s

/-- The bytes of a write of far memory are held under the present setting (22 R392). -/
def renewFar (s : State) (pa n : Nat) : State :=
  { s with farOld := s.farOld.flatMap fun e =>
      [(e.1, min e.2.1 pa, e.2.2), (max e.1 (pa + n), e.2.1, e.2.2)].filter fun x => x.1 < x.2.1 }

/-- A write of the masked bytes supersedes what was undrained there (13 R269) and what a fault decided later would put back (07 R157),
clears the SENT bits of its lines (23 R404), and a line that patrol scrub has read is not written back (20 R357). -/
def supersede (s : State) (key n mask : Nat) : State :=
  let hit (k : Nat) : Bool := key ≤ k && k < key + n && mask.testBit (k - key)
  { s with undrained := s.undrained.filter (fun u => !hit u.key),
           kept := s.kept.filter (fun u => !hit u.key),
           rsySent := s.rsySent.filter fun l => !(l < key + n && key < l + 64),
           scrubs := s.scrubs.filter fun l => !(l < key + n && key < l + 64) }

/-- A register-port or record-port write of this cycle has written the byte (13 R270). -/
def ported (s : State) (k : Nat) : Bool := s.portWrites.any fun p => p.1 ≤ k && p.2.testBit (k - p.1)

/-- The bytes of a write that a register-port or record-port write of the same cycle takes from it (13 R270). -/
def lostBytes (s : State) (key n mask : Nat) : Nat :=
  (List.range n).foldl (fun m i => if mask.testBit i && s.ported (key + i) then m + 2 ^ i else m) 0

/-- Copies s(i) to s(i+32) at the effect cycle of the write that sets DUP bit i (01 R21). A landing of s(i+32) in that cycle stands (13
R270). The copy takes a failing parity or the poison of s(i) with it: no check is made and no trap is raised (A54, DESIGN CHOICE: R21
gives none). -/
def copyDup (s : State) (base i : Nat) : State :=
  let a := base + 0x40 + 8 * i
  let b := a + 256
  let m := 255 - s.lostBytes b 8 255
  let mark (l : List Nat) (o : Nat) := if m / 2 ^ o % 16 = 15 then setPut l (b + o) (l.contains (a + o)) else l
  { s.supersede b 8 m with mem := Memory.write s.mem b 8 (Memory.read s.mem a 8) m,
                           badUnits := mark (mark s.badUnits 0) 4, psnUnits := mark (mark s.psnUnits 0) 4 }

/-- DUP of the workspace at a place (01 R21). -/
def dupOf (s : State) (base : Nat) : Nat := Memory.read s.mem (base + 0x10) 8 % 2 ^ 32

/-- The bytes of a write into a workspace store, with the new unit states. -/
def putWs (s : State) (key n v mask psn : Nat) : State :=
  (unitsOf 4 key n).foldl (fun s u => s.unitMark key mask psn u) { s with mem := Memory.write s.mem key n v mask }

/-- The part of a write of n bytes at key that lies in s(i) of the workspace at `base`, as the write of s(i+32) that 01 R21 makes of
it: its first place and its bytes; none when s(i) is not touched. -/
def dupSpan (base key n i : Nat) : Option (Nat × Nat) :=
  let a := base + 0x40 + 8 * i
  if key < a + 8 && a < key + n then some (max key a + 256, min (key + n) (a + 8) - max key a) else none

/-- The spans of the duplicates that a write of n bytes at key writes in the workspace at `base` (01 R21). -/
def dupSpans (s : State) (base key n : Nat) : List (Nat × Nat) :=
  if s.isWorkspace (coreOfKey key) (base % 2 ^ 36) && s.dupOf base ≠ 0 then
    (List.range 32).filterMap fun i => if i ≠ 0 && (s.dupOf base).testBit i then dupSpan base key n i else none
  else []

/-- The write of a duplicate that a write of s(i) makes (01 R21). `yields`: a data-port write, of which a landing of s(i+32) in the
same cycle takes its bytes (13 R270). -/
def mirror (s : State) (yields : Bool) (base key n v mask psn i : Nat) : State :=
  match dupSpan base key n i with
  | some (k, m) =>
    let o := k - 256 - key
    let w := mask / 2 ^ o % 2 ^ m
    let w := if yields then w - s.lostBytes k m w else w
    (s.supersede k m w).putWs k m (v / 2 ^ (8 * o)) w (psn / 2 ^ o)
  | none => s

/-- The duplicates' part of a write into the workspace at `base`, whose DUP was `dup0` before (01 R21). -/
def dupEffects (s : State) (yields : Bool) (base key n v mask psn dup0 : Nat) : State :=
  if dup0 = 0 && s.dupOf base = 0 then s
  else (List.range 32).foldl (fun s i =>
    if i = 0 then s
    else if dup0.testBit i then s.mirror yields base key n v mask psn i
    else if (s.dupOf base).testBit i then s.copyDup base i
    else s) s

/-- What a write does further in the workspace at `base`, if there is one: its fixed bits and its duplicates. -/
def wsEffects (s : State) (yields : Bool) (base key n v mask psn dup0 : Nat) : State :=
  if s.isWorkspace (coreOfKey key) (base % 2 ^ 36) then
    (fixedWords.foldl (fun s e => s.fixWord base key n e) s).dupEffects yields base key n v mask psn dup0
  else s

/-- A write into a workspace store; a vector's 256 bytes may lie in two workspaces. -/
def writeWs (s : State) (yields : Bool) (key n v mask psn : Nat) : State :=
  let lo := key / 0x2000 * 0x2000
  let hi := (key + n - 1) / 0x2000 * 0x2000
  let t := (s.putWs key n v mask psn).wsEffects yields lo key n v mask psn (s.dupOf lo)
  if hi = lo then t else t.wsEffects yields hi key n v mask psn (s.dupOf hi)

/-- A write of n bytes of v at key where `mask` is set, poisoned where `psn` is set. -/
def writeVia (s : State) (yields : Bool) (key n v mask psn : Nat) : State :=
  let s := s.supersede key n mask
  match spaceOf key with
  | .ws => s.writeWs yields key n v mask psn
  | .code => { s with mem := Memory.write s.mem key n v mask }
  | .far => (unitsOf 8 key n).foldl (fun s u => s.wordMark key mask psn u) { s.renewFar (key % 2 ^ 48) n with mem := Memory.write s.mem key n v mask }
  | _ => (unitsOf 8 key n).foldl (fun s u => s.wordMark key mask psn u) { s with mem := Memory.write s.mem key n v mask }

/-- A write that ranks below the register port and the record port; the callers take the bytes lost there out of `mask` (`lostBytes`). -/
def writeAt (s : State) (key n v mask psn : Nat) : State := s.writeVia true key n v mask psn

/-- A write over the register port. -/
def writePort (s : State) (key n v mask psn : Nat) : State := s.writeVia false key n v mask psn

/-- The lowest place of the bytes of a write, and of the duplicates it writes, that a register-port or record-port write of the same cycle
takes from it (13 R270, 01 R21). -/
def lostPlace (s : State) (key n mask : Nat) : Option Nat :=
  if s.portWrites.isEmpty then none
  else
    let own := (List.range n).filterMap fun i => if mask.testBit i && s.ported (key + i) then some (key + i) else none
    let lo := key / 0x2000 * 0x2000
    let hi := (key + n - 1) / 0x2000 * 0x2000
    let dups := if spaceOf key = .ws then s.dupSpans lo key n ++ (if hi = lo then [] else s.dupSpans hi key n) else []
    let dup := dups.flatMap fun d => (List.range d.2).filterMap fun i =>
      if mask.testBit (d.1 + i - 256 - key) && s.ported (d.1 + i) then some (d.1 + i) else none
    (own ++ dup).min?

/-- A write by an untimed path of class C, I or P: as `writeAt`, and the bytes replaced, those of duplicates among them, stay readable by
other classes until the path is drained (13 R273). -/
def writeUntimed (s : State) (cls key n v mask psn : Nat) : State :=
  let olds (k n mask : Nat) : List Undrained := (List.range n).filterMap fun i =>
    if mask.testBit i then
      some { cls := cls, key := k + i, old := Memory.byte s.mem (k + i), eff := s.acc, drains := [] }
    else none
  let dups := if spaceOf key = .ws then s.dupSpans (key / 0x2000 * 0x2000) key n else []
  let all := olds key n mask ++ dups.flatMap fun d =>
    let m := mask / 2 ^ (d.1 - 256 - key) % 2 ^ d.2
    olds d.1 d.2 (m - s.lostBytes d.1 d.2 m)
  let keep := s.undrained
  let s := s.writeAt key n v mask psn
  { s with undrained := all ++ keep }

/-- The scan edge drains every untimed path, from the cycle after it (13 R273, case 2). -/
def drainAll (s : State) : State :=
  { s with undrained := s.undrained.map fun u => { u with drains := (List.range 7).map (fun c => (c, s.acc + 1)) ++ u.drains } }

/-- In the hall the edge is b_E: it drains the paths into the hall's own places, the input halves among them, from that cycle on
(13 R273 case 2 with 16 R296, "the edge drains the view"; DEDUCED, A35). -/
def drainHall (s : State) : State :=
  let own := fun k => spaceOf k = .hall || spaceOf k = .image
  { s with undrained := s.undrained.map fun u =>
             if own u.key then { u with drains := (List.range 7).map (fun c => (c, s.acc)) ++ u.drains } else u }

/-- Entries drained for every class are of no more effect. -/
def undrainedTrim (s : State) : State :=
  { s with undrained := s.undrained.filter fun u => !((List.range 7).all fun c => u.cls = c || u.drains.any fun d => d.1 = c && d.2 ≤ s.acc) }

end State

end Sys2Proof.Machine
end

