-- ==== Sys2Proof/Machine/Ops.lean ====
section
/-! DEFINITION. The operations that every meaning uses: effects to come, registers and landings, islands and slips, the end of
a task, and taking a trap (01 R23 to R29, 06 R140 to R143, 07 R166 to R173, 20 R360 to R364). -/

namespace Sys2Proof.Machine

/-! ## Effects to come -/

/-- Order within a cycle (A5): the hall's edge and the gates, marks and the edge cycle, samples, landings, the turns, the writes that rank
higher where two meet (13 R270), the other writes, and the rest. -/
def phEdge : Nat := 0
def phMark : Nat := 1
def phSample : Nat := 2
def phLand : Nat := 3
def phTurn : Nat := 4
def phRec : Nat := 5
def phWrite : Nat := 6
def phEnd : Nat := 7

def Ev.before (a b : Ev) : Bool := a.at_ < b.at_ || (a.at_ = b.at_ && (a.ph < b.ph || (a.ph = b.ph && a.id < b.id)))

/-- Inserts an entry in the agenda's order. -/
def agendaIns (e : Ev) : List Ev → List Ev
  | [] => [e]
  | f :: t => if e.before f then e :: f :: t else f :: agendaIns e t

namespace State

/-- Puts an effect on the agenda. -/
def sched (s : State) (at_ ph : Nat) (org : Option Org) (act : Act) : State :=
  { s with agenda := agendaIns { at_ := at_, ph := ph, id := s.nextId, org := org, act := act } s.agenda, nextId := s.nextId + 1 }

def schedAux (s : State) (at_ ph : Nat) (org : Option Org) (a : Aux) : State := s.sched at_ ph org (.aux a)
def schedRow (s : State) (at_ ph : Nat) (org : Option Org) (i : Instr) : State := s.sched at_ ph org (.row i)

/-- The instruction at hand, as the origin of its effects. -/
def here (s : State) : Org :=
  { core := s.cur.core, berth := s.cur.berth, issue := s.acc, slot := s.cur.slot, pc := s.cur.pc + s.cur.slot, wsp := s.cur.wsp }

/-- The clock that holds a core's TTC, SCN and edge copy: its tier's, unless the cores of its partition have taken an edge there alone or
let one pass (16 R291). -/
def clockOf (s : State) (core : Nat) : Nat :=
  match (s.core core).owner with
  | some (p, _) => if (s.tiers.find? (8 + 8 * tierOf core + p)).isSome then 8 + 8 * tierOf core + p else tierOf core
  | none => tierOf core

def ttcOf (s : State) (core : Nat) : Nat := (s.tier (s.clockOf core)).ttc

/-- SCN as a core holds it. -/
def scnAt (s : State) (core : Nat) : BitVec 32 := (s.tier (s.clockOf core)).scn

/-! ## Registers (01 R14 to R19) -/

/-- Base of the workspace in which the group at hand issues. -/
def wsBase (s : State) : Nat := wsKey s.cur.core s.cur.wsp

end State

def sOff (r : SReg) : Nat := 0x40 + 8 * r.toNat
def mOff (r : MReg) : Nat := 0x240 + 32 * r.toNat
def vOff (r : VReg) : Nat := 0x400 + 256 * r.toNat

namespace State

/-- s(r) as the instruction at hand reads it; s0 is zero (01 R15). -/
def sreg (s : State) (r : SReg) : Word := if r = 0 then 0 else BitVec.ofNat 64 (s.readAs clsT (s.wsBase + sOff r) 8)

/-- p(r); p0 is true. -/
def preg (s : State) (r : PReg) : Bool := r = 0 || (s.readByte clsT (s.wsBase + 8)).getLsbD r.toNat

/-- m(r); m0 is all ones. -/
def mreg (s : State) (r : MReg) : Mask :=
  if r = 0 then BitVec.allOnes 256 else BitVec.ofNat 256 (s.readAs clsT (s.wsBase + mOff r) 32)

def vreg (s : State) (r : VReg) : Vec := BitVec.ofNat 2048 (s.readAs clsT (s.wsBase + vOff r) 256)

/-- Tag of v(r) (01 R16). -/
def vtag (s : State) (r : VReg) : BitVec 4 :=
  ((s.readByte clsT (s.wsBase + r.toNat / 2)) >>> (4 * (r.toNat % 2))).setWidth 4

/-- FST of the workspace at hand (01 R17). -/
def fst (s : State) : Nat := s.readAs clsT (s.wsBase + 0x18) 8

/-! ## Islands, tasks and slips -/

/-- ITC of a clock that stands at `base` or is held (06 R141). -/
def itcOf (s : State) (i : Island) : Nat := (i.held.getD (s.acc + 2 ^ 32 - i.base)) % 2 ^ 32

/-- The island clock of a berth, when it is of an island (06 R141, 18 R327). -/
def island? (s : State) (c b : Nat) : Option Island :=
  let x := s.berth c b
  match x.journey with
  | some (p, j) => some ((s.part p).journeys.get {} j).itc
  | none => if x.isl = 0 then none else some ((s.core c).islands.get {} x.isl)

def setIsland (s : State) (c b : Nat) (i : Island) : State :=
  let x := s.berth c b
  match x.journey with
  | some (p, j) => s.modPart p fun t => { t with journeys := t.journeys.put j { t.journeys.get {} j with itc := i } }
  | none => if x.isl = 0 then s else s.modCore c fun t => { t with islands := t.islands.put x.isl i }

/-- ITC as a berth reads it; 0 for a berth of no island (04 R101). -/
def itc (s : State) (c b : Nat) : Nat := ((s.island? c b).map s.itcOf).getD 0

/-- ITC as a berth read it in cycle t, at most this one: a clock that runs has counted since. -/
def itcAt (s : State) (c b t : Nat) : Nat :=
  match s.island? c b with
  | some i => if i.held.isSome then s.itcOf i else (s.itcOf i + 2 ^ 32 - (s.acc - t)) % 2 ^ 32
  | none => 0

/-- The task of a berth (20 R360). -/
def taskOf (s : State) (c b : Nat) : Task :=
  let x := s.berth c b
  match x.journey with
  | some (p, j) => .journey p j
  | none => if x.isl = 0 then .berth c b else .island c x.isl

/-- Sets the SLIPPED bit that a slip, or a fetch-parity trap, of the berth marks (06 R140, 02 R38). -/
def markSlip (s : State) (c b : Nat) : State :=
  match s.island? c b with
  | some i => s.setIsland c b { i with slipped := true }
  | none => s.modCore c fun t => { t with slipped := true }

/-- Holds the island's ITC from a slip's trap cycle on (06 R141). -/
def holdItc (s : State) (c b : Nat) : State :=
  match s.island? c b with
  | some i => (s.setIsland c b { i with held := some (i.held.getD (s.itcOf i)) }).modBerth c b fun x => { x with slipTrap := true }
  | none => s

/-- Whether another berth of the island is handling a slip. -/
def slipInIsland (s : State) (c b : Nat) : Bool :=
  let t := s.taskOf c b
  s.cores.any fun e => e.2.berths.any fun f => f.2.slipTrap && !(e.1 = c && f.1 = b) && s.taskOf e.1 f.1 = t

/-- The end of a slip's handling in cycle t: by RTE, ITC takes the smaller of ITC and WITC; the hold ends with the island's last
handling (06 R141). One flag counts the handlings of a berth: where a trap or slip nests in a slip handler that has cleared INTRAP (07 R168),
the inner RTE ends the hold and sets ITC back (A58, DESIGN CHOICE). -/
def endSlip (s : State) (c b : Nat) (rte : Bool) (t : Nat) : State :=
  let x := s.berth c b
  if !x.slipTrap then s
  else match s.island? c b with
    | none => s.modBerth c b fun x => { x with slipTrap := false }
    | some i =>
      let v := if rte then min (s.itcAt c b t) x.witc else s.itcAt c b t
      let i := if s.slipInIsland c b then { i with held := some v } else { i with held := none, base := t + 2 ^ 32 - v }
      (s.setIsland c b i).modBerth c b fun x => { x with slipTrap := false }

/-- Sets WPC, with WITC, as of cycle t, and begins a restart region at cycle `from_` (01 R26 to R28, 06 R141). -/
def setWpcAt (s : State) (c b pc from_ t : Nat) : State :=
  let w := if (s.berth c b).slipTrap then (s.berth c b).witc else s.itcAt c b t
  s.modBerth c b fun x => { x with wpc := pc, regionAt := from_, witc := w }

/-- Sets WPC in this cycle. -/
def setWpc (s : State) (c b : Nat) (pc from_ : Nat) : State := s.setWpcAt c b pc from_ s.acc

/-! ## Landings (01 R24, R25, R28) -/

/-- A trap or stop at cycle t discards the landings later than t of the present restart region (01 R28). -/
def discardFrom (s : State) (c b t : Nat) : State :=
  s.modBerth c b fun x => { x with discards := (x.regionAt, t) :: x.discards }

/-- Whether a landing at cycle `at_` of a group issued at `issue` is discarded. -/
def discarded (x : Berth) (issue at_ : Nat) : Bool := x.discards.any fun d => d.1 ≤ issue && issue ≤ d.2 && d.2 < at_

/-- Byte lanes of a register that a later-issued landing of the same turn has written (01 R25). -/
def laterLanes (x : Berth) (key stamp : Nat) : Nat :=
  x.landed.foldl (fun m e => if e.1 = key && stamp < e.2.2 then m ||| e.2.1 else m) 0

/-- The bytes that a write of the masked bytes at key touches: those of the duplicate of a scalar word among them (01 R21). -/
def portSpans (s : State) (key mask : Nat) : List (Nat × Nat) :=
  let base := key / 0x2000 * 0x2000
  let o := key - base
  if spaceOf key = .ws && 0x48 ≤ o && o < 0x140 && s.isWorkspace (coreOfKey key) (base % 2 ^ 36) && (s.dupOf base).testBit ((o - 0x40) / 8) then
    [(key, mask), (key + 256, mask)]
  else [(key, mask)]

/-- Notes a write of the register port or record port (13 R270). -/
def notePort (s : State) (key mask : Nat) : State := { s with portWrites := s.portSpans key mask ++ s.portWrites }

/-- An entry of `State.kept` for the berth of `org`. -/
def keptOf (org : Org) (e : Kept) : Bool := e.core = org.core && e.berth = org.berth

/-- What a write of the masked bytes at key by a landing of `org` is to keep: the bytes that it is the first to overwrite while a fault of
the berth's last group is still to be decided (07 R157). -/
def toKeep (s : State) (org : Org) (key n mask : Nat) : List Kept :=
  match (s.berth org.core org.berth).undo with
  | none => []
  | some u =>
    if u.issue < s.acc && s.acc < u.settled && u.regionAt ≤ org.issue then
      (s.portSpans key mask).flatMap fun p => (List.range n).filterMap fun i =>
        let k := p.1 + i
        if p.2.testBit i && !s.kept.any (fun e => keptOf org e && e.key = k) then
          some { core := org.core, berth := org.berth, key := k, old := Memory.byte s.mem k, bad := s.badUnits.contains (k / 4 * 4),
                 psn := s.psnUnits.contains (k / 4 * 4) }
        else none
    else []

/-- A write of a landing of `org`, or of its group's own, over the register port. -/
def landWrite (s : State) (org : Org) (key n v mask psn : Nat) : State :=
  let new := s.toKeep org key n mask
  let t := s.writePort key n v mask psn
  { t with kept := new ++ s.kept.filter fun e => keptOf org e || t.kept.contains e }.notePort key mask

/-- Writes the lanes of one register that no later-issued landing has written, over the register port. -/
def landBytes (s : State) (org : Org) (key n v mask psn : Nat) : State :=
  let stamp := org.issue * 2 + org.slot
  let x := s.berth org.core org.berth
  let m := mask &&& ((2 ^ n - 1) ^^^ (laterLanes x key stamp &&& mask))
  (s.landWrite org key n v m psn).modBerth org.core org.berth fun x => { x with landed := (key, mask, stamp) :: x.landed }

/-- Writes one register of a landing; a constant register discards it (01 R15). -/
def landOne (s : State) (org : Org) (d : DVal) : State :=
  let base := wsKey org.core org.wsp
  match d with
  | .s r v => if r = 0 then s else s.landBytes org (base + sOff r) 8 v.toNat 255 0
  | .p r v =>
    if r = 0 then s
    else
      -- a predicate is a bit of the PRED word: the stamp key tells the bits apart
      let stamp := org.issue * 2 + org.slot
      let key := base + 8
      let x := s.berth org.core org.berth
      if (x.landed.any fun e => e.1 = key * 8 + r.toNat + 2 ^ 60 && stamp < e.2.2) then s
      else
        let old := Memory.read s.mem key 4
        let new := if v then old ||| 2 ^ r.toNat else old &&& (0xFFFFFFFF ^^^ 2 ^ r.toNat)
        (s.landWrite org key 4 new 1 0).modBerth org.core org.berth fun x => { x with landed := (key * 8 + r.toNat + 2 ^ 60, 1, stamp) :: x.landed }
  | .m r v => if r = 0 then s else s.landBytes org (base + mOff r) 32 v.toNat (2 ^ 32 - 1) 0
  | .v r data lanes tag =>
    let s := s.landBytes org (base + vOff r) 256 data.toNat lanes.toNat (if tag = 15 then lanes.toNat else 0)
    let stamp := org.issue * 2 + org.slot
    let key := base + r.toNat / 2
    let tk := key * 8 + r.toNat % 2 + 2 ^ 61
    let x := s.berth org.core org.berth
    if (x.landed.any fun e => e.1 = tk && stamp < e.2.2) then s
    else
      let old := Memory.read s.mem key 1
      let new := if r.toNat % 2 = 0 then old / 16 * 16 + tag.toNat else old % 16 + 16 * tag.toNat
      (s.landWrite org key 1 new 1 0).modBerth org.core org.berth fun x => { x with landed := (tk, 1, stamp) :: x.landed }

/-- Sets the sticky flags of a landing (01 R17). -/
def landFlags (s : State) (org : Org) (f : BitVec 9) : State :=
  if f = 0 then s
  else
    let key := wsKey org.core org.wsp + 0x18
    s.landWrite org key 2 ((Memory.read s.mem key 2 ||| f.toNat) &&& 0x17F) 3 0

/-- Lands results at a cycle (00 R9, Land). -/
def land (s : State) (at_ : Nat) (dests : List DVal) (flags : BitVec 9 := 0) : State :=
  if dests.isEmpty && flags = 0 then s
  else s.schedRow at_ phLand (some s.here) (.landing { org := s.here, dests := dests, flags := flags })

/-- Lands a scalar result. -/
def landS (s : State) (at_ : Nat) (d : SReg) (v : Word) (flags : BitVec 9 := 0) : State := s.land at_ [.s d v] flags

/-! ## Trap words (01 R18) -/

/-- The word at 0x0028. -/
def causeWord (t : TrapInfo) (async : Bool) : Nat :=
  t.cause.toNat + 256 * t.sub.toNat + 65536 * async.toNat + 2 ^ 32 * t.tinfo.toNat

/-- The trap words' 32 bytes, over the register port. -/
def putTrapWords (s : State) (key v : Nat) : State := (s.writePort key 32 v (2 ^ 32 - 1) 0).notePort key (2 ^ 32 - 1)

/-- Writes TEPC, the cause word, TIPC and TCOORD over the register port (07 R166). `later`: the trap is taken at a sample, and the words
are written with the landings of the cycle, so that no sample of the cycle sees them (13 R269). -/
def writeTrapWords (s : State) (c wsp tepc : Nat) (t : TrapInfo) (async : Bool) (later : Bool := false) : State :=
  let k := wsKey c wsp + 0x20
  let v := tepc + 2 ^ 64 * (causeWord t async + 2 ^ 64 * (t.tipc + 2 ^ 64 * t.tcoord.toNat))
  if later then s.schedAux s.acc phLand none (.trapWords k v) else s.putTrapWords k v

/-! ## The end of a task (20 R361 to R364) -/

/-- Place of the tensor record h of a core: TRTB is a room-local base (10 R201). -/
def recKey (s : State) (core h : Nat) : Nat := roomKey core ((s.core core).trtb + 64 * h)

/-- Void(h): the stamp field of a record, over the record port (00 R9, 10 R202). -/
def voidRecord (s : State) (key : Nat) : State :=
  (s.writePort (key + 0x28) 4 0xFFFFFFFF 15 0).notePort (key + 0x28) 15

/-- Asks a running MMAC of the berths in `p` to stop at its next step boundary (09 R194). -/
def stopMmacs (s : State) (p : Org → Bool) : State :=
  { s with clusters := s.clusters.map fun e => (e.1, { e.2 with mmac := e.2.mmac.map fun m => if p m.org then { m with stopReq := true } else m }) }

/-- Changes every berth of the machine, by its core and number. -/
def mapBerths (s : State) (f : Nat → Nat → Berth → Berth) : State :=
  let g (e : Nat × Core) : Nat × Core := (e.1, { e.2 with berths := e.2.berths.map fun x => (x.1, f e.1 x.1 x.2) })
  { s with cores := s.cores.map g }

/-- Issue cycle of the last turn of berth b of a core, counted back from this cycle, and whether the core's turn there has passed: the turns
of a cycle go tier by tier in the order of the mesh (A5). -/
def lastTurn (s : State) (c b : Nat) : Nat := s.acc - (s.ttcOf c + 16 - b) % 16
def turnPast (s : State) (c b : Nat) : Bool := s.lastTurn c b < s.acc || tierOf c * 16 + meshIdx c < s.turnCore

def modTile (s : State) (cl t : Nat) (f : Tile → Tile) : State :=
  s.modCluster cl fun k => { k with tiles := k.tiles.put t (f (k.tiles.get {} t)) }

/-- The array is given up: it is free, or goes without a gap to a journey that is being parked in the cluster, to which it is reserved from
the cycle of its stop on (18 R331). -/
def freeArray (s : State) (cl : Nat) : State :=
  let parking (x : JourneySt) : Bool := x.state = 2 && x.core.any fun c => clusterOf c = cl
  let next := s.parts.findSome? fun p => p.2.journeys.findSome? fun j => if parking j.2 then some j.2 else none
  s.modCluster cl fun k => { k with array := next.map fun x => { org := none, op := .msave, tile := x.tiles.head?.getD 0 } }

/-- The tile and the array or the drain path that a macro-op other than MMAC holds are free (09 R192). -/
def releaseMacro (s : State) (cl : Nat) (op : MacroOp) (tile : Nat) : State :=
  let s := if op = .mbld then s else s.modTile cl tile fun t => { t with busy := false }
  match op with
  | .mdrain => s.modCluster cl fun k => { k with drain := none }
  | .mbld | .msave | .mrestore => s.freeArray cl
  | _ => s

/-- What a group took at its issue and the entry would give back, when the entry is dropped: a macro-op's tile and path, and a packet's
links (11 R226). -/
def dropEntry (s : State) (e : Ev) : State :=
  let s := { s with flights := s.flights.filter fun f => f.ev ≠ e.id }
  match e.act with
  | .row (.macroOpCompletion cl op tile) => s.releaseMacro cl op tile
  | .row (.mmacCompletion cl) =>
    match (s.cluster cl).mmac with
    | some m => ((s.modTile cl m.tile fun t => { t with busy := false }).modCluster cl fun k => { k with mmac := none }).freeArray cl
    | none => s
  | _ => s

/-- Drops the entries of the agenda that `p` names. -/
def dropEntries (s : State) (p : Ev → Bool) : State :=
  (s.agenda.filter p).foldl dropEntry { s with agenda := s.agenda.filter fun e => !p e }

/-- Every berth of the task but the consumer takes RUN 0b000 at its first cycle at or after the trap cycle tc (20 R361). That cycle may be
past, as for a fault decided after its issue (07 R157): what a group issued there has still to do is dropped (A11). -/
def endTaskBerths (s : State) (t : Task) (c b tc : Nat) : State :=
  let mate (c' b' : Nat) : Bool := s.taskOf c' b' = t && !(c' = c && b' = b)
  let gone (c' b' : Nat) : Bool := mate c' b' && tc ≤ s.lastTurn c' b' && s.turnPast c' b'
  (s.dropEntries fun e => match e.org with
    | some o => gone o.core o.berth && tc ≤ o.issue
    | none => false).mapBerths fun c' b' x =>
    if !mate c' b' || !x.used then x
    else if gone c' b' then
      { x with run := if x.run = 2 then 2 else 0, wait := .none, discards := (x.regionAt, s.lastTurn c' b') :: x.discards }
    else { x with endAt := some tc }

/-- Ends the task of a berth by a trap whose trap cycle is tc: code is CONTLOG's (20 R361, R375). The output records' W bits and the
records named by R362 are voided at tc + 20; the rollback and the log entry follow at TTC = L (R364). -/
def endTask (s : State) (c b tc code tipc : Nat) : State :=
  let t := s.taskOf c b
  let s := s.modBerth c b fun x => { x with run := 0, wait := .none, endAt := none }
  let s := s.endTaskBerths t c b tc
  let s := s.stopMmacs fun o => s.taskOf o.core o.berth = t
  let s := (s.schedAux (tc + 20) phRec none (.endVoid t)).schedAux s.acc phRec none (.endLate c)
  let s := s.modCoreStat c fun k => { k with ended := satInc 8 k.ended }
  { s with ended := if s.ended.contains t then s.ended else t :: s.ended,
           contlog := s.contlog ++ [{ task := t, core := c, berth := b, code := code, tipc := tipc, at_ := tc, scn := s.scnAt c }] }

/-! ## Taking a trap (07 R166, R168, 20 R361) -/

/-- Counts a trap in CORESTAT (20 R371), unless it was counted when its cause arose. -/
def countTrap (s : State) (c : Nat) (t : TrapInfo) (counted : Bool) : State :=
  if counted then s
  else if t.cause = 4 then (s.noteFault .regParity c).modCoreStat c fun k => { k with rpar := satInc 8 k.rpar }
  else if t.cause = 3 then (if t.sub = 3 then s else s.noteFault .fetchParity c).modCoreStat c fun k => { k with fpar := satInc 8 k.fpar }
  else if t.cause = 9 || t.cause = 0xD then s.modCoreStat c fun k => { k with coll := satInc 8 k.coll }
  else s

/-- The words of a double trap, in DTCAUSE and DTIPC (07 R168). -/
def doubleWords (s : State) (c b : Nat) (t : TrapInfo) : State :=
  let dt := BitVec.ofNat 64 (t.cause.toNat + 256 * t.sub.toNat + 65536 * b + 2 ^ 32 * t.tinfo.toNat)
  let s := s.modCore c fun k => { k with dtcause := dt, dtipc := BitVec.ofNat 64 t.tipc }
  s.modCoreStat c fun k => { k with dbl := satInc 8 k.dbl }

/-- A double trap ends the task (07 R168). -/
def doubleTrap (s : State) (c b tc : Nat) (t : TrapInfo) : State :=
  ((s.doubleWords c b t).modBerth c b fun x => { x with dbl := true }).endTask c b tc 0x21 t.tipc

/-- Trap entry with trap cycle tc (07 R166). WITC is kept while the berth handles a slip, so that RTE finds the region's (06 R141,
A13). -/
def enterTrap (s : State) (c b tc : Nat) (t : TrapInfo) (async : Bool) (later : Bool := false) : State :=
  let x := s.berth c b
  let s := s.writeTrapWords c x.wsp x.wpc t async later
  let tv := (s.core c).tvec
  let s := s.modBerth c b fun x => { x with pmode := x.mode, mode := true, intrap := true, pc := tv, run := 1, wait := .none, branch := none, forceWm := false }
  s.setWpcAt c b tv (tc + 1) tc

/-- A berth takes a trap whose trap cycle is `tc`: the landings of its region are discarded (01 R28), a slip marks its phase or
island (06 R140, 02 R38), a poison trap or an unreadable code line ends its task (20 R360), a synchronous trap in a handler is a
double trap (07 R168), and any other enters the handler (07 R166). A fetch-parity trap sets SLIPPED and does not hold the island's
ITC: 02 R38 counts it as a slip, and 06 R141 speaks of a slip that is taken (A17, DEDUCED). -/
def takeTrap (s : State) (c b tc : Nat) (t : TrapInfo) (async : Bool := false) (counted : Bool := async)
    (later : Bool := false) : State :=
  let s := s.discardFrom c b tc
  let s := s.countTrap c t counted
  let s := if t.cause = 0xB || t.cause = 3 then s.markSlip c b else s
  let x := s.berth c b
  if x.intrap && !async then s.doubleTrap c b tc t
  else if t.cause = 6 || (t.cause = 3 && t.sub = 3) then
    (s.writeTrapWords c x.wsp x.wpc t async later).endTask c b tc (if t.cause = 6 then 0x20 else 0x22) t.tipc
  else (if t.cause = 0xB then s.holdItc c b else s).enterTrap c b tc t async later

/-- The instruction at hand faults at issue: its group has no effect and the trap is taken (01 R28). Nothing of the group is left to be
decided. -/
def raise (s : State) (cause sub : BitVec 8) (tinfo : BitVec 32 := 0) (tcoord : Word := 0) : State :=
  let s := s.modMe fun x => { x with undo := none }
  let s := s.takeTrap s.cur.core s.cur.berth s.acc
    { cause := cause, sub := sub, tinfo := tinfo, tcoord := tcoord, tipc := s.cur.pc + s.cur.slot }
  { s with cur := { s.cur with trapped := true } }

/-- A free value: nothing is known of it (A15). -/
def freeWord (s : State) : Word × State := (Config.freeWord s.free, { s with free := s.free + 1 })

/-- A fault at issue whose TINFO no rule states. -/
def raiseFree (s : State) (cause sub : BitVec 8) : State :=
  let (w, s) := s.freeWord
  s.raise cause sub (w.setWidth 32)

/-- Adds an asynchronous trap to a berth's queue of four (07 R169). -/
def queueTrap (s : State) (c b wsp : Nat) (t : TrapInfo) : State :=
  let s := s.countTrap c t false
  s.modBerth c b fun x =>
    if 4 ≤ x.queue.length then { x with aovf := true } else { x with queue := x.queue ++ [{ info := t, wsp := wsp }] }

/-- Queues an asynchronous trap for the instruction an effect is of. -/
def queueFor (s : State) (o : Org) (cause sub : BitVec 8) (tinfo : BitVec 32 := 0) (tcoord : Word := 0) : State :=
  s.queueTrap o.core o.berth o.wsp { cause := cause, sub := sub, tinfo := tinfo, tcoord := tcoord, tipc := o.pc }

/-- The issue of a commit point sets WPC to the berth's next group, which the turn or a branch of the pair has put into PC
(01 R27). The group after it is no waymark group for an asynchronous trap or a deferred pre-emption unless it carries W = 1: R27
speaks of WPC alone (A17, DEDUCED). -/
def commit (s : State) : State :=
  { (s.setWpc s.cur.core s.cur.berth s.me.pc (s.acc + 1)) with cur := { s.cur with committed := true } }

/-! ## The plan of a core -/

/-- The active plan of the core's partition (18 R343). -/
def planOf (s : State) (core : Nat) : Option Plan :=
  match (s.core core).owner with
  | some (p, _) => (s.part p).plan
  | none => none

/-- LEN (06 R136); 0 while no plan is active. -/
def lenOf (s : State) (core : Nat) : Nat :=
  match s.planOf core with
  | some p => p.len
  | none => 0

/-- The partition of a core; partition 0 for a core that none owns. -/
def partOf (s : State) (core : Nat) : Nat :=
  match (s.core core).owner with
  | some (p, _) => p
  | none => 0

/-! ## A fault decided after issue (07 R157, 12 R247) -/

/-- The berth's fields before the group at hand, whose fault is decided before the turns of cycle `settled`. -/
def undoNow (s : State) (c b settled : Nat) : Undo :=
  let x := s.berth c b
  { issue := s.acc, settled := settled, pc := x.pc, wpc := x.wpc, wsp := x.wsp, mode := x.mode, run := x.run, intrap := x.intrap,
    pmode := x.pmode, wait := x.wait, witc := x.witc, regionAt := x.regionAt, branch := x.branch }

/-- A berth's fields as they were before the group. -/
def Undo.before (u : Undo) (x : Berth) : Berth :=
  { x with pc := u.pc, wpc := u.wpc, wsp := u.wsp, mode := u.mode, run := u.run, intrap := u.intrap, pmode := u.pmode,
           wait := u.wait, witc := u.witc, regionAt := u.regionAt, branch := u.branch }

/-- A berth as other berths see it: the effects of a group whose fault is still to be decided are held (07 R157). -/
def shown (s : State) (c b : Nat) : Berth :=
  let x := s.berth c b
  match x.undo with
  | some u => if u.issue < s.acc && s.acc < u.settled then Undo.before u x else x
  | none => x

/-- The berth has halted: a HALT whose group is still to be decided has not halted it yet (07 R157). -/
def hasHalted (s : State) (c b : Nat) : Bool :=
  let x := s.berth c b
  (match x.undo with
    | some u => if s.acc < u.settled then u.run else x.run
    | none => x.run) = 2

/-- Puts back a byte that a landing has overwritten, with its unit's states. -/
def putBack (s : State) (e : Kept) : State :=
  let u := e.key / 4 * 4
  { s with mem := Memory.put s.mem e.key e.old, badUnits := setPut s.badUnits u e.bad, psnUnits := setPut s.psnUnits u e.psn }

/-- Takes back what landings have written since the issue of the berth's last group: a trap with that cycle as trap cycle discards
them (01 R28). A byte that has been written otherwise since stays (`supersede`). -/
def rewind (s : State) (o : Org) : State :=
  match (s.berth o.core o.berth).undo with
  | none => s
  | some _ =>
    let t := (s.kept.filter (keptOf o)).foldl putBack s
    { t with kept := t.kept.filter fun e => !keptOf o e }

/-- `rewind`, when what follows discards landings. -/
def rewindIf (s : State) (o : Org) (b : Bool) : State := if b then s.rewind o else s

/-- An edge since the issue of `o` has cut the berth off: it is at its plan entry (06 R137). -/
def pastEdge (s : State) (o : Org) : Bool := (s.berth o.core o.berth).journey.isNone && o.issue < (s.tier (s.clockOf o.core)).edgeAt

/-- A line of an undo log takes its old bytes, with new check bits, or the poison code where the old word was not usable (20 R357, R364). -/
def restoreLine (s : State) (key : Nat) (e : UndoLine) : State :=
  let psn := e.oldEcc.foldl (fun m u => if u.2 = .poison || u.2 = .unc then m ||| (255 * 2 ^ (u.1 - key)) else m) 0
  s.writeAt key 64 e.old (ones 64) psn

/-- The rollback of a task that a fault of its group issued in cycle t has ended, when the fault is decided after the edge: each room
restores as many lines as there were cycles from t to the edge, but for lines written in the new scan (20 R364; A11, DEDUCED). The state, the
lines restored and those skipped as SHARED. -/
def pastRollback (s : State) (k : Task) (n : Nat) : State × Nat × Nat :=
  s.oldLogs.foldl (fun a r =>
    let fresh (e : UndoLine) : Bool := !((s.undoLogs.get [] r.1).any fun x => x.line = e.line)
    let mine := r.2.filter fun e => e.task = k && !e.done
    let l := (mine.filter fun e => !e.shared && fresh e).take n
    (l.foldl (fun s e => s.restoreLine (roomKey r.1 (64 * e.line)) e) a.1, a.2.1 + l.length,
      a.2.2 + (mine.filter fun e => e.shared).length)) (s, 0, 0)

/-- A trap decided after the edge that follows its issue: the handler has been cut off at once, so that the trap words and the counters
remain, and a task that it ends is stopped by the edge already. Its records of that scan are voided at t + 20, and its room writes rolled
back (20 R361, R362, R364). -/
def pastTrap (s : State) (o : Org) (intrap : Bool) (t : TrapInfo) : State :=
  let s := s.countTrap o.core t false
  let ends (s : State) (code : Nat) : State :=
    let k := s.taskOf o.core o.berth
    let recs := s.oldNotes.filter fun n => n.1 = k
    let s := recs.foldl (fun s n =>
      s.schedRow (o.issue + 20) phRec none (.roomWriteEffect (.stamp none (coreOfKey n.2) (offOfKey n.2) 0xFFFFFFFF))) s
    let (s, back, kept) := s.pastRollback k ((s.tier (s.clockOf o.core)).edgeAt - o.issue)
    (s.modCoreStat o.core fun x => { x with ended := satInc 8 x.ended }).log 2
      { code := code, tier := tierOf o.core, pos := meshIdx o.core, berth := o.berth, sub := 0, scn := s.scnAt o.core - 1,
        acc := o.issue, addr := t.tipc, data := recs.length % 2 ^ 16 + 2 ^ 16 * (back % 2 ^ 16) + 2 ^ 32 * (kept % 2 ^ 16)
          + 2 ^ 48 * (s.oldOvf.contains k).toNat }
  if intrap then ends (s.doubleWords o.core o.berth t) 0x21
  else
    let s := s.writeTrapWords o.core o.wsp (s.berth o.core o.berth).wpc t false true
    if t.cause = 6 then ends s 0x20 else s

/-- Takes back what the group of `o` did at issue and takes the fault with the issue cycle as trap cycle: the group has no
effect, and landings later than the issue cycle are discarded, those made since included (A11). -/
def lateFault (s : State) (o : Org) (t : TrapInfo) : State :=
  let x := s.berth o.core o.berth
  let s := s.dropEntries fun e => match e.org with
    | some p => p.core = o.core && p.berth = o.berth && p.issue = o.issue
    | none => false
  if s.pastEdge o then s.pastTrap o ((x.undo.map fun u => u.intrap).getD false) t
  else match x.undo with
  | none => s.takeTrap o.core o.berth o.issue t (later := true)
  | some u =>
    ((s.rewind o).modBerth o.core o.berth fun x => { Undo.before u x with undo := none }).takeTrap o.core o.berth o.issue t (later := true)

/-! ## Stopping a berth from outside (07 R172, R173) -/

/-- The stop of a berth by pre-emption with trap cycle tc: no handler runs. -/
def preempt (s : State) (c b : Nat) (sub : BitVec 8) (tc : Nat) : State :=
  let x := s.berth c b
  let t : TrapInfo :=
    { cause := 0x1A, sub := sub, tinfo := BitVec.ofNat 32 (x.mode.toNat + 2 * x.intrap.toNat),
      tcoord := BitVec.ofNat 64 ((s.ttcOf c - (s.acc - tc)) * 2 ^ 32 + s.itcAt c b tc), tipc := x.lastPc }
  let s := s.discardFrom c b tc
  let s := s.writeTrapWords c x.wsp x.wpc t false
  let s := s.stopMmacs fun o => o.core = c && o.berth = b
  s.modBerth c b fun x => { x with run := 0, wait := .none, pdef := false, branch := none, pstop := x.pstop || sub = 2 }

/-- A deferred pre-emption takes effect at the end, in cycle tc, of the handling (07 R173). -/
def endDeferred (s : State) (c b tc : Nat) : State :=
  let x := s.berth c b
  if !x.pdef then s
  else match x.stops.find? fun r => r.q ≤ tc with
    | some r => (s.modBerth c b fun x => { x with stops := x.stops.erase r }).preempt c b (BitVec.ofNat 8 r.sub) tc
    | none => s.modBerth c b fun x => { x with pdef := false }

end State

/-! ## Journeys, the rail and debug events -/

/-- The berths of a journey, as (core, berth) (18 R326). -/
def State.journeyBerths (s : State) (p j : Nat) : List (Nat × Nat) :=
  s.cores.flatMap fun e => (e.2.berths.filter fun x => x.2.journey = some (p, j) && x.2.used).map fun x => (e.1, x.1)

def State.modJourney (s : State) (p j : Nat) (f : JourneySt → JourneySt) : State :=
  s.modPart p fun t => { t with journeys := t.journeys.put j (f (t.journeys.get {} j)) }

/-- The journey is complete when all its berths have halted: its window goes unused and it starts fresh next (18 R330). -/
def State.journeyHalted (s : State) (p j : Nat) : State :=
  if (s.journeyBerths p j).all fun e => s.hasHalted e.1 e.2 then
    s.modJourney p j fun t => { t with state := 0, itc := { t.itc with held := some (s.itcOf t.itc) } }
  else s

/-! ## Rail (06 R149, R150) -/

/-- Whether a core of the cluster has RQ set. -/
def State.rqAny (s : State) (cl : Nat) : Bool := (List.range 4).any fun i => (s.core (cl * 4 + i)).rq

/-- The modes of the dense class (06 R149, 09 R185), by MMAC's mode byte: PN pairs with at least 4 k per cycle. -/
def denseMode (mode : Nat) : Bool := [0x00, 0x01, 0x02, 0x04, 0x05, 0x08].contains mode

/-- Ramping down begins in cycle t when no RQ is set and no dense MMAC runs, as one does until its completion or the boundary at which it
stops (09 R194, 22 R384); nominal 64 cycles later. -/
def State.railCheck (s : State) (cl t : Nat) : State :=
  let k := s.cluster cl
  let busy := k.mmac.isSome && k.array.any fun a => a.dense
  if (k.rail.1 = 1 || k.rail.1 = 2) && !s.rqAny cl && !busy then
    (s.setCluster cl { k with rail := (3, t + 64) }).schedRow (t + 64) phEdge none (.railNominalReached cl)
  else s

/-- Starts a ramp of 184 cycles from cycle t, unless one is under way or the level is dense. -/
def State.railUp (s : State) (cl t : Nat) : State :=
  let k := s.cluster cl
  if k.rail.1 = 0 || k.rail.1 = 3 then
    (s.setCluster cl { k with rail := (2, t + 184) }).schedRow (t + 184) phEdge none (.railDenseReached cl)
  else s

/-- The debug event of DBG.brk in the group of `o`: TEPC names the next group, as for SVC. The other word of the group has its effect. -/
def State.brkEvent (s : State) (o : Org) (x : BitVec 32) : State :=
  let c := o.core
  let b := o.berth
  let ctl := (s.core c).dbgctl
  let s := s.setWpcAt c b (s.berth c b).pc (o.issue + 1) o.issue
  let s := if ctl.getLsbD 4 then s.schedAux s.acc phEnd none (.freeze .debug) else s
  if ctl.getLsbD 1 then s.takeTrap c b o.issue { cause := 0x19, sub := 1, tinfo := x, tipc := o.pc }
  else if (s.berth c b).intrap then s.modBerth c b fun x => { x with pdef := true, stops := x.stops ++ [{ q := o.issue, sub := 3 }] }
  else s.preempt c b 3 o.issue

/-! ## What waits for the other word of the group (07 R157) -/

/-- RAIL.up and RAIL.dn of a core, issued in cycle t. -/
def State.setRq (s : State) (c : Nat) (up : Bool) (t : Nat) : State :=
  let s := s.modCore c fun k => { k with rq := up }
  if up then s.railUp (clusterOf c) t else s.railCheck (clusterOf c) t

/-- The end of a handling, in the cycle of its RTE, RESYNC or XWSP.task: ITC, WITC with the WPC just set, and, at RTE and RESYNC, a deferred
pre-emption (06 R141, 07 R173). -/
def State.endHandling (s : State) (o : Org) (rte stop : Bool) : State :=
  let s := s.endSlip o.core o.berth rte o.issue
  let w := s.itcAt o.core o.berth o.issue
  let s := s.modBerth o.core o.berth fun x => { x with witc := w }
  if stop then s.endDeferred o.core o.berth o.issue else s

/-- What a word makes at its issue outside its berth's own fields. A group decided after an edge has been cut off there. -/
def State.settle (s : State) (o : Org) (k : Held) : State :=
  let past := s.pastEdge o
  let u := (s.berth o.core o.berth).undo
  match k with
  | .handled rte stop => if past then s else (s.rewindIf o (stop && (s.berth o.core o.berth).pdef)).endHandling o rte stop
  | .halt => match (s.berth o.core o.berth).journey with
    | some (p, j) => s.journeyHalted p j
    | none => s
  | .trap t => if past then s.pastTrap o ((u.map fun u => u.intrap).getD false) t else (s.rewind o).takeTrap o.core o.berth o.issue t
  | .brk x => if past then s else (s.rewind o).brkEvent o x
  | .rail up => if past then s else s.setRq o.core up o.issue
  | .mark x => s.modCore o.core fun k => { k with dbgmark := BitVec.ofNat 64 (x.toNat + 2 ^ 32 * o.berth) }
  | .yieldm v => s.modCore o.core fun k => { k with yieldm := v }
  | .space w => s.schedAux s.acc phEnd none (.enterWs o.core w)
  | .jyld => s

/-- The word at hand makes it at once, or when its group is settled. -/
def State.hold (s : State) (k : Held) : State :=
  match s.cur.late with
  | none => s.settle s.here k
  | some t => s.schedAux t phLand (some s.here) (.settle s.here k)

end Sys2Proof.Machine
end

