-- ==== Sys2Proof/Machine/Flags.lean ====
section
/-! DEFINITION. Rounding modes and flags of FST (01 R17, 02 R44, 03 R68). -/

namespace Sys2Proof.Machine

/-- Mode of an FST.RM value (01 R17). -/
def rmOfFst (fst : Nat) : RMode :=
  match fst / 32 % 4 with
  | 0 => .rne
  | 1 => .rtz
  | 2 => .rup
  | _ => .rdn

/-- The rounding mode that M names; 0b111 takes FST.RM (02 R44). -/
def State.rmode (s : State) (r : Rnd) : RMode :=
  match r with
  | .rne => .rne
  | .rtz => .rtz
  | .rup => .rup
  | .rdn => .rdn
  | .dyn => rmOfFst s.fst

/-- Union of the flags of several elements (03 R68). -/
def flagUnion (l : List (BitVec 9)) : BitVec 9 := l.foldl (· ||| ·) 0

/-- SAT when a clamp changed the value (03 R61). -/
def satFlag (changed : Bool) : BitVec 9 := if changed then fSAT else 0

end Sys2Proof.Machine
end

