-- ==== Sys2Proof/Machine/Operands.lean ====
section
/-! DEFINITION. Operands: the guard, the register sources with their parity and poison checks (01 R20 to R22, 04 R82, 07 R157),
the tag checks (03 R71 to R73), second operands and effective addresses. -/

namespace Sys2Proof.Machine

/-- What a meaning answers. -/
abbrev Res := Host.Outcome State Fault Refusal

/-- A register source. -/
inductive Src where
  | s (r : SReg)
  | p (r : PReg)
  | m (r : MReg)
  | v (r : VReg)
  /-- VTAG's unit of a vector register, and FST. -/
  | tag (r : VReg)
  | fst
  deriving DecidableEq, Repr

namespace State

/-- Place and length of what a source reads; a constant register reads nothing (01 R15). A vector source reads all its 256 bytes, those of
inactive and unselected elements too, so their parity is checked (05 R104 "every unit read" beside 03 R60; A54, DEDUCED). -/
def srcSpan (s : State) : Src → Nat × Nat
  | .s r => if r = 0 then (0, 0) else (s.wsBase + sOff r, 8)
  | .p r => if r = 0 then (0, 0) else (s.wsBase + 8, 4)
  | .m r => if r = 0 then (0, 0) else (s.wsBase + mOff r, 32)
  | .v r => (s.wsBase + vOff r, 256)
  | .tag r => (s.wsBase + r.toNat / 8 * 4, 4)
  | .fst => (s.wsBase + 0x18, 4)

/-- The number of the duplicated scalar whose word holds the unit, when it has a good copy (01 R22). -/
def dupIndex (s : State) (u : Nat) : Option Nat :=
  let base := u / 0x2000 * 0x2000
  let o := u - base
  if 0x48 ≤ o && o < 0x140 && s.isWorkspace (coreOfKey u) (base % 2 ^ 36) && (s.dupOf base).testBit ((o - 0x40) / 8)
      && !s.badUnits.contains (u + 256) then some ((o - 0x40) / 8)
  else none

/-- Rewrites a failing unit from its copy and counts the repair (01 R22). -/
def repairUnit (s : State) (u : Nat) : State :=
  let s := { s with mem := Memory.write s.mem u 4 (Memory.read s.mem (u + 256) 4) 15, badUnits := setDel s.badUnits u,
                    psnUnits := setPut s.psnUnits u (s.psnUnits.contains (u + 256)),
                    rsySent := s.rsySent.filter fun l => !(l ≤ u && u < l + 64) }
  (s.noteFault .dupRepair (coreOfKey u)).modCoreStat (coreOfKey u) fun k => { k with creg := satInc 8 k.creg }

/-- Checks the parity of n bytes of a workspace store for a read: the state with what the copies repair, and the first failing unit that no
copy repairs (01 R22). -/
def checkParity (s : State) (key n : Nat) : State × Option Nat :=
  if s.badUnits = [] then (s, none)
  else (unitsOf 4 key n).foldl (fun (r : State × Option Nat) u =>
    if r.1.badUnits.contains u then
      if (r.1.dupIndex u).isSome then (r.1.repairUnit u, r.2) else (r.1, r.2 <|> some u)
    else r) (s, none)

/-- The register-parity trap of a unit (01 R22). -/
def parityTrap (u pc : Nat) : TrapInfo := { cause := 4, sub := 0, tinfo := BitVec.ofNat 32 (offOfKey u % 2 ^ 19), tipc := pc }

/-- The poison trap of a unit of a workspace store (07 R157, 20 R359). -/
def poisonTrap (u pc : Nat) : TrapInfo := { cause := 6, sub := 2, tinfo := BitVec.ofNat 32 (offOfKey u % 2 ^ 19), tipc := pc }

/-- First poisoned unit among n bytes. -/
def psnFirst (s : State) (key n : Nat) : Option Nat := (unitsOf 4 key n).find? fun u => s.psnUnits.contains u

/-- Reads one source: the state after the repairs, and the trap if there is one (01 R22; 04 R82 and 07 R157 for a poisoned scalar or
predicate). -/
def checkSrc (s : State) (x : Src) : State × Option TrapInfo :=
  let (key, n) := s.srcSpan x
  let pc := s.cur.pc + s.cur.slot
  if n = 0 then (s, none)
  else match s.checkParity key n with
    | (s, some u) => (s, some (parityTrap u pc))
    | (s, none) =>
      match x with
      | .s _ | .p _ => (s, (s.psnFirst key n).map fun u => poisonTrap u pc)
      | _ => (s, none)

/-- Reads the sources: every one is read, and the first trap counts (A19). -/
def checkSrcs (s : State) (l : List Src) : State × Option TrapInfo :=
  l.foldl (fun r x => let q := r.1.checkSrc x; (q.1, r.2 <|> q.2)) (s, none)

/-- A trap of the word at hand, given as its words. -/
def raiseInfo (s : State) (t : TrapInfo) : State := s.raise t.cause t.sub t.tinfo t.tcoord

/-- The guard (02 R40, R41): its value, with the checks of a source when it names p1 to p7. -/
def guardVal (s : State) (h : Hd) : Bool := s.preg h.gp != h.gn

end State

/-- A word at its issue: with its guard false it has no further effect (02 R41); otherwise its register sources are read with
their checks, in the order given, and `k` is its action. -/
def issueOp (h : Hd) (srcs : List Src) (s : State) (k : State → State) : Res :=
  match s.checkSrc (.p h.gp) with
  | (s, some t) => .next (s.raiseInfo t)
  | (s, none) =>
    if s.guardVal h then
      match s.checkSrcs srcs with
      | (s, some t) => .next (s.raiseInfo t)
      | (s, none) => .next (k s)
    else .next s

/-- The source of op2 (04 R83). -/
def op2Srcs : Op2 → List Src
  | .reg b => [.s b]
  | .imm _ => []

def State.op2 (s : State) : Op2 → Word
  | .reg b => s.sreg b
  | .imm x => sx48 x

/-- FST is read when M is 0b111 (02 R44), also on integer tags, where M has no effect (05 R105; A54, DESIGN CHOICE). -/
def rndSrcs : Rnd → List Src
  | .dyn => [.fst]
  | _ => []

/-! ## Tags (03 R59, R71 to R73) -/

/-- Element width in bytes of a tag; reserved tags and 15 have no elements and are read as bytes. -/
def tagWidth (t : BitVec 4) : Nat :=
  match t.toNat with
  | 1 | 4 => 4
  | 2 | 3 | 5 => 2
  | 8 => 8
  | _ => 1

def tagCount (t : BitVec 4) : Nat := 256 / tagWidth t

/-- A vector source with its field code (0 D, 1 A, 2 B, 3 C) and the tags it accepts. -/
structure VSrc where
  field : Nat
  reg : VReg
  ok : BitVec 4 → Bool
  /-- The tag required, or 0 when a set is accepted (03 R73). -/
  req : Nat := 0

/-- The trap of 03 R73 for cause 0x05. -/
def fmtTrap (sub : BitVec 8) (found req reg field : Nat) : TrapInfo :=
  { cause := 5, sub := sub, tinfo := BitVec.ofNat 32 (found + 16 * req + 256 * reg + 4096 * field) }

/-- The checks of 03 R71 on the sources in field order A, B, C, D; `agree` names those that must have one tag. -/
def State.tagCheck (s : State) (srcs : List VSrc) (agree : Bool) : Option TrapInfo :=
  let tag (x : VSrc) := s.vtag x.reg
  match srcs.find? fun x => tag x = 15 with
  | some x => some { cause := 6, sub := 1, tinfo := BitVec.ofNat 32 (x.reg.toNat + 16 * x.field) }
  | none =>
    match srcs.find? fun x => 9 ≤ (tag x).toNat with
    | some x => some (fmtTrap 2 (tag x).toNat x.req x.reg.toNat x.field)
    | none =>
      match srcs.find? fun x => !x.ok (tag x) with
      | some x => some (fmtTrap 1 (tag x).toNat x.req x.reg.toNat x.field)
      | none =>
        match srcs with
        | [] => none
        | x0 :: xs =>
          if !agree then none
          else (xs.find? fun x => tag x ≠ tag x0).map fun x => fmtTrap 3 (tag x).toNat (tag x0).toNat x.reg.toNat x.field

/-! ## Effective addresses (07 R152 to R155) -/

/-- s(A) + SignExt(48, X), modulo 2^64. -/
def State.ea (s : State) (a : SReg) (x : BitVec 48) : Word := s.sreg a + sx48 x

/-- What an access does with the place. -/
inductive Access where
  | read | write | both
  deriving DecidableEq, Repr

/-- An access lies inside a window and may do what it does there: (inside, permitted) (07 R154). -/
def inWindow (w : Word) (ea size : Nat) (k : Access) : Bool × Bool :=
  let base := w.toNat % 2 ^ 19
  let fin := w.toNat / 2 ^ 32 % 2 ^ 20
  let r := w.getLsbD 62
  let wr := w.getLsbD 63
  (decide (base ≤ ea) && decide (ea + size ≤ fin),
   match k with
   | .read => r
   | .write => wr
   | .both => r && wr)

/-- The region rule of 07 R154: none when the access is legal, or the SUB of cause 0x07. An access that runs past the end of the
store in supervisor mode takes SUB 0x01, the one for an address outside it (A14). -/
def State.regionFault (s : State) (ea size : Nat) (k : Access) : Option (BitVec 8) :=
  if s.cur.mode then (if ea + size ≤ 2 ^ 19 then none else some 1)
  else if s.cur.wsp ≤ ea && ea + size ≤ s.cur.wsp + 0x2000 then none
  else
    let w0 := inWindow s.me.win0 ea size k
    let w1 := inWindow s.me.win1 ea size k
    if (w0.1 && w0.2) || (w1.1 && w1.2) then none
    else if w0.1 || w1.1 then some 3
    else some 2

/-- The checks of 07 R155 on an access of the workspace store: alignment, then the address, then the region. -/
def State.accessFault (s : State) (ea : Word) (size align : Nat) (k : Access) (alignSub : BitVec 8) (seg : Nat) : Option TrapInfo :=
  let lo : BitVec 32 := ea.setWidth 32
  if ea.toNat % align ≠ 0 then some { cause := 8, sub := alignSub, tinfo := lo, tcoord := BitVec.ofNat 64 seg }
  else if 2 ^ 19 ≤ ea.toNat then some { cause := 7, sub := 1, tinfo := lo, tcoord := BitVec.ofNat 64 seg }
  else (s.regionFault ea.toNat size k).map fun sub => { cause := 7, sub := sub, tinfo := lo, tcoord := BitVec.ofNat 64 seg }

/-- A watch hit of DBGADDR by an access of the berth at hand (07 R177). -/
def State.watchHit (s : State) (ea size : Nat) (write : Bool) : Bool :=
  let k := s.core s.cur.core
  k.dbgctl.getLsbD 0 && k.dbgctl.getLsbD 2 && (write || !k.dbgctl.getLsbD 3) && ea ≤ k.dbgaddr.toNat && k.dbgaddr.toNat < ea + size

end Sys2Proof.Machine
end

