-- ==== Sys2Proof/Machine/Scalar.lean ====
section
/-! DEFINITION. The integer, bit, compare and selection instructions of 04 R84 to R91. -/

namespace Sys2Proof.Machine

/-- A result in s(D) at issue + 16 from two scalar sources (04 R85). -/
def alu2 (h : Hd) (d a b : SReg) (s : State) (f : Word → Word → Word) : Res :=
  issueOp h [.s a, .s b] s fun s => s.landS (s.acc + 16) d (f (s.sreg a) (s.sreg b))

/-- A result in s(D) at issue + 16 from s(A) and op2 (04 R83). -/
def aluOp2 (h : Hd) (d a : SReg) (o : Op2) (s : State) (f : Word → Word → Word) : Res :=
  issueOp h (.s a :: op2Srcs o) s fun s => s.landS (s.acc + 16) d (f (s.sreg a) (s.op2 o))

/-- A result in s(D) at issue + 16 from s(A). -/
def alu1 (h : Hd) (d a : SReg) (s : State) (f : Word → Word) : Res :=
  issueOp h [.s a] s fun s => s.landS (s.acc + 16) d (f (s.sreg a))

/-- DIV, DIVU, REM and REMU land at issue + 64 (04 R86). -/
def divOp (h : Hd) (d a b : SReg) (s : State) (f : Word → Word → Word) : Res :=
  issueOp h [.s a, .s b] s fun s => s.landS (s.acc + 64) d (f (s.sreg a) (s.sreg b))

/-- Quotients and remainders of 04 R86: `BitVec.sdiv` truncates toward zero and gives −2^63 for −2^63 / −1. -/
def quotS (a b : Word) : Word := if b = 0 then BitVec.allOnes 64 else a.sdiv b
def quotU (a b : Word) : Word := if b = 0 then BitVec.allOnes 64 else a / b
def remS (a b : Word) : Word := if b = 0 then a else a.srem b
def remU (a b : Word) : Word := if b = 0 then a else a % b

/-- Bits [127:64] of the signed product. -/
def mulHS (a b : Word) : Word := BitVec.ofInt 64 (a.toInt * b.toInt / (2 ^ 64 : Nat))
def mulHU (a b : Word) : Word := BitVec.ofNat 64 (a.toNat * b.toNat / 2 ^ 64)

/-- The carry-less product of two numbers, the low n bits of b taken (04 R87). -/
def clmulNat (a b : Nat) : Nat → Nat
  | 0 => 0
  | n + 1 => (if b % 2 = 1 then a else 0) ^^^ clmulNat (2 * a) (b / 2) n

def clmulW (a b : Word) : Nat := clmulNat a.toNat b.toNat 64

/-- Number of ones among the low n bits. -/
def popNat (v : Nat) : Nat → Nat
  | 0 => 0
  | n + 1 => v % 2 + popNat (v / 2) n

/-- Leading zeros of an n-bit pattern; n for zero. -/
def clzNat (n v : Nat) : Nat := n - bitLen (v % 2 ^ n)

/-- Trailing zeros of an n-bit pattern; n for zero. -/
def ctzNat (v : Nat) : Nat → Nat
  | 0 => 0
  | n + 1 => if v % 2 = 1 then 0 else 1 + ctzNat (v / 2) n

/-- Bit i of the result is bit n − 1 − i. -/
def brevNat (v : Nat) : Nat → Nat
  | 0 => 0
  | n + 1 => v % 2 * 2 ^ n + brevNat (v / 2) n

/-- 04 R84: no effect beyond its guard's read. -/
def execNop (h : Hd) (s : State) : Res := issueOp h [] s fun s => s

def execAdd (h : Hd) (d a b : SReg) (s : State) : Res := alu2 h d a b s (· + ·)
def execAddi (h : Hd) (d a : SReg) (x : BitVec 48) (s : State) : Res := alu1 h d a s (· + sx48 x)
def execSub (h : Hd) (d a b : SReg) (s : State) : Res := alu2 h d a b s (· - ·)
def execMul (h : Hd) (d a b : SReg) (s : State) : Res := alu2 h d a b s (· * ·)
def execMulh (h : Hd) (d a b : SReg) (s : State) : Res := alu2 h d a b s mulHS
def execMulhu (h : Hd) (d a b : SReg) (s : State) : Res := alu2 h d a b s mulHU
def execDiv (h : Hd) (d a b : SReg) (s : State) : Res := divOp h d a b s quotS
def execDivu (h : Hd) (d a b : SReg) (s : State) : Res := divOp h d a b s quotU
def execRem (h : Hd) (d a b : SReg) (s : State) : Res := divOp h d a b s remS
def execRemu (h : Hd) (d a b : SReg) (s : State) : Res := divOp h d a b s remU
def execAnd (h : Hd) (d a : SReg) (o : Op2) (s : State) : Res := aluOp2 h d a o s (· &&& ·)
def execOr (h : Hd) (d a : SReg) (o : Op2) (s : State) : Res := aluOp2 h d a o s (· ||| ·)
def execXor (h : Hd) (d a : SReg) (o : Op2) (s : State) : Res := aluOp2 h d a o s (· ^^^ ·)
def execAndn (h : Hd) (d a : SReg) (o : Op2) (s : State) : Res := aluOp2 h d a o s fun x y => x &&& ~~~y
def execOrn (h : Hd) (d a : SReg) (o : Op2) (s : State) : Res := aluOp2 h d a o s fun x y => x ||| ~~~y

/-- A shift amount is op2[5:0] (04 R87). -/
def shAmt (y : Word) : Nat := y.toNat % 64

def execShl (h : Hd) (d a : SReg) (o : Op2) (s : State) : Res := aluOp2 h d a o s fun x y => x <<< shAmt y
def execShr (h : Hd) (d a : SReg) (o : Op2) (s : State) : Res := aluOp2 h d a o s fun x y => x >>> shAmt y
def execSar (h : Hd) (d a : SReg) (o : Op2) (s : State) : Res := aluOp2 h d a o s fun x y => x.sshiftRight (shAmt y)
def execRol (h : Hd) (d a : SReg) (o : Op2) (s : State) : Res := aluOp2 h d a o s fun x y => x.rotateLeft (shAmt y)
def execClz (h : Hd) (d a : SReg) (s : State) : Res := alu1 h d a s fun x => BitVec.ofNat 64 (clzNat 64 x.toNat)
def execCtz (h : Hd) (d a : SReg) (s : State) : Res := alu1 h d a s fun x => BitVec.ofNat 64 (ctzNat x.toNat 64)
def execPopc (h : Hd) (d a : SReg) (s : State) : Res := alu1 h d a s fun x => BitVec.ofNat 64 (popNat x.toNat 64)
def execBrev (h : Hd) (d a : SReg) (s : State) : Res := alu1 h d a s fun x => BitVec.ofNat 64 (brevNat x.toNat 64)
def execMin (h : Hd) (d a : SReg) (o : Op2) (s : State) : Res := aluOp2 h d a o s fun x y => if x.slt y then x else y
def execMax (h : Hd) (d a : SReg) (o : Op2) (s : State) : Res := aluOp2 h d a o s fun x y => if x.slt y then y else x
def execMinu (h : Hd) (d a : SReg) (o : Op2) (s : State) : Res := aluOp2 h d a o s fun x y => if x < y then x else y
def execMaxu (h : Hd) (d a : SReg) (o : Op2) (s : State) : Res := aluOp2 h d a o s fun x y => if x < y then y else x

/-- ABS of −2^63 is −2^63 (04 R85). -/
def execAbs (h : Hd) (d a : SReg) (s : State) : Res := alu1 h d a s fun x => if x.msb then -x else x

def execMovi (h : Hd) (d : SReg) (x : BitVec 48) (s : State) : Res :=
  issueOp h [] s fun s => s.landS (s.acc + 16) d (sx48 x)
def execMovhi (h : Hd) (d a : SReg) (x : BitVec 16) (s : State) : Res := alu1 h d a s fun v => x ++ (v.setWidth 48)

/-- The low w bits, extended to 64 bits. -/
def extLow (sg : Bool) (w : Nat) (v : Word) : Word := if sg then (v.setWidth w).signExtend 64 else (v.setWidth w).setWidth 64

/-- w1 is w − 1 (04 R87). -/
def execSext (h : Hd) (d a : SReg) (w1 : BitVec 6) (s : State) : Res := alu1 h d a s (extLow true (w1.toNat + 1))
def execZext (h : Hd) (d a : SReg) (w1 : BitVec 6) (s : State) : Res := alu1 h d a s (extLow false (w1.toNat + 1))

/-- The field of len bits from bit pos; bits above 63 read as zero (04 R88). -/
def execExtb (h : Hd) (sg : Bool) (d a : SReg) (pos len1 : BitVec 6) (s : State) : Res :=
  alu1 h d a s fun v => extLow sg (len1.toNat + 1) (v >>> pos.toNat)

/-- INSB reads s(D); bits of the field above bit 63 are dropped (04 R88). -/
def execInsb (h : Hd) (d a : SReg) (pos len1 : BitVec 6) (s : State) : Res :=
  issueOp h [.s d, .s a] s fun s =>
    let m : Word := BitVec.ofNat 64 (ones (len1.toNat + 1)) <<< pos.toNat
    s.landS (s.acc + 16) d ((s.sreg d &&& ~~~m) ||| ((s.sreg a <<< pos.toNat) &&& m))

def execClmul (h : Hd) (d a b : SReg) (s : State) : Res := alu2 h d a b s fun x y => BitVec.ofNat 64 (clmulW x y)
def execClmulh (h : Hd) (d a b : SReg) (s : State) : Res := alu2 h d a b s fun x y => BitVec.ofNat 64 (clmulW x y / 2 ^ 64)
def execLea (h : Hd) (d a b : SReg) (sh : BitVec 3) (x : BitVec 48) (s : State) : Res :=
  alu2 h d a b s fun u v => u + (v <<< sh.toNat) + sx48 x

/-- Conditions of 04 R89. -/
def cmpCond (c : BitVec 3) (a b : Word) : Bool :=
  match c.toNat with
  | 0 => a = b
  | 1 => a ≠ b
  | 2 => a.slt b
  | 3 => b.sle a
  | 4 => a < b
  | 5 => b ≤ a
  | 6 => a &&& b ≠ 0
  | _ => a &&& b = 0

/-- A condition into p(D) and its complement into p(C); C's value wins when both name one predicate (04 R89). -/
def predPair (d c : PReg) (v : Bool) : List DVal := [.p d v, .p c (!v)]

def execCmp (h : Hd) (cond : BitVec 3) (d c : PReg) (a b : SReg) (s : State) : Res :=
  issueOp h [.s a, .s b] s fun s => s.land (s.acc + 16) (predPair d c (cmpCond cond (s.sreg a) (s.sreg b)))
def execCmpi (h : Hd) (cond : BitVec 3) (d c : PReg) (a : SReg) (x : BitVec 48) (s : State) : Res :=
  issueOp h [.s a] s fun s => s.land (s.acc + 16) (predPair d c (cmpCond cond (s.sreg a) (sx48 x)))

/-- Operations of 04 R90 and 05 R116 on one bit. -/
def logOp (op : BitVec 3) (a b : Bool) : Bool :=
  match op.toNat with
  | 0 => a && b
  | 1 => a || b
  | 2 => a != b
  | 3 => a && !b
  | 4 => a || !b
  | 5 => !(a && b)
  | 6 => !(a || b)
  | _ => a == b

def execPlog (h : Hd) (op : BitVec 3) (d a b : PReg) (s : State) : Res :=
  issueOp h [.p a, .p b] s fun s => s.land (s.acc + 16) [.p d (logOp op (s.preg a) (s.preg b))]
def execSel (h : Hd) (d a b : SReg) (c : PReg) (s : State) : Res :=
  issueOp h [.s a, .s b, .p c] s fun s => s.landS (s.acc + 16) d (if s.preg c then s.sreg a else s.sreg b)

/-! ## Scalar floating point (04 R92 to R94) -/

/-- Bits [31:0] of a source as an FP32 value (03 R64). -/
def f32 (v : Word) : FVal := fdecode fp32 (v.toNat % 2 ^ 32)

/-- Lands an FP32 result, bits [63:32] zero, with its flags. -/
def State.landF (s : State) (at_ : Nat) (d : SReg) (r : Nat × BitVec 9) : State := s.landS at_ d (BitVec.ofNat 64 r.1) r.2

def execFadd (h : Hd) (rm : Rnd) (d a b : SReg) (s : State) : Res :=
  issueOp h ([.s a, .s b] ++ rndSrcs rm) s fun s => s.landF (s.acc + 16) d (addVal fp32 (s.rmode rm) (f32 (s.sreg a)) (f32 (s.sreg b)))
def execFsub (h : Hd) (rm : Rnd) (d a b : SReg) (s : State) : Res :=
  issueOp h ([.s a, .s b] ++ rndSrcs rm) s fun s =>
    s.landF (s.acc + 16) d (addVal fp32 (s.rmode rm) (f32 (s.sreg a)) (f32 (s.sreg b)).flip)
def execFmul (h : Hd) (rm : Rnd) (d a b : SReg) (s : State) : Res :=
  issueOp h ([.s a, .s b] ++ rndSrcs rm) s fun s => s.landF (s.acc + 16) d (mulVal fp32 (s.rmode rm) (f32 (s.sreg a)) (f32 (s.sreg b)))

/-- FFMA's forms: the product negated in .nma and .nms, c negated in .ms and .nms (04 R92). -/
def ffmaVal (form : BitVec 2) (rm : RMode) (a b c : FVal) : Nat × BitVec 9 :=
  fmaVal fp32 rm (if form.getLsbD 1 then a.flip else a) b (if form.getLsbD 0 then c.flip else c)

def execFfma (h : Hd) (form : BitVec 2) (rm : Rnd) (d a b c : SReg) (s : State) : Res :=
  issueOp h ([.s a, .s b, .s c] ++ rndSrcs rm) s fun s =>
    s.landF (s.acc + 16) d (ffmaVal form (s.rmode rm) (f32 (s.sreg a)) (f32 (s.sreg b)) (f32 (s.sreg c)))
def execFdiv (h : Hd) (rm : Rnd) (d a b : SReg) (s : State) : Res :=
  issueOp h ([.s a, .s b] ++ rndSrcs rm) s fun s => s.landF (s.acc + 48) d (divVal fp32 (s.rmode rm) (f32 (s.sreg a)) (f32 (s.sreg b)))
def execFsqrt (h : Hd) (rm : Rnd) (d a : SReg) (s : State) : Res :=
  issueOp h (.s a :: rndSrcs rm) s fun s => s.landF (s.acc + 48) d (sqrtVal fp32 (s.rmode rm) (f32 (s.sreg a)))
def execFmin (h : Hd) (d a b : SReg) (s : State) : Res :=
  issueOp h [.s a, .s b] s fun s =>
    s.landF (s.acc + 16) d (minMaxVal fp32 false ((s.sreg a).toNat % 2 ^ 32) ((s.sreg b).toNat % 2 ^ 32))
def execFmax (h : Hd) (d a b : SReg) (s : State) : Res :=
  issueOp h [.s a, .s b] s fun s =>
    s.landF (s.acc + 16) d (minMaxVal fp32 true ((s.sreg a).toNat % 2 ^ 32) ((s.sreg b).toNat % 2 ^ 32))

/-- Conditions and NV of 04 R93. -/
def fcmpVal (cond : BitVec 2) (a b : FVal) : Bool × BitVec 9 :=
  let un := a.isNaN || b.isNaN
  let sn := if a.isSNaN || b.isSNaN then fNV else 0
  let qn := if un then fNV else 0
  match cond.toNat with
  | 0 => (!un && ordVal a b = .eq, sn)
  | 1 => (!un && ordVal a b = .lt, qn)
  | 2 => (!un && ordVal a b ≠ .gt, qn)
  | _ => (un, sn)

def execFcmp (h : Hd) (cond : BitVec 2) (d c : PReg) (a b : SReg) (s : State) : Res :=
  issueOp h [.s a, .s b] s fun s =>
    let r := fcmpVal cond (f32 (s.sreg a)) (f32 (s.sreg b))
    s.land (s.acc + 16) (predPair d c r.1) r.2

/-- FCVT's results in 64 bits (04 R94). -/
def fcvtVal (kind : Fin 10) (rm : RMode) (v : Word) : Nat × BitVec 9 :=
  let i (r : Int × BitVec 9) : Nat × BitVec 9 := (toBits 64 r.1, r.2)
  match kind.val with
  | 0 => ofIntVal fp32 rm v.toInt
  | 1 => ofIntVal fp32 rm v.toNat
  | 2 => i (toIntVal rm (-(2 ^ 63)) (2 ^ 63 - 1) (f32 v))
  | 3 => i (toIntVal rm 0 (2 ^ 64 - 1) (f32 v))
  | 4 => cvtVal fp16 rm (f32 v)
  | 5 => cvtVal bf16 rm (f32 v)
  | 6 => cvtVal fp32 rm (fdecode fp16 (v.toNat % 2 ^ 16))
  | 7 => cvtVal fp32 rm (fdecode bf16 (v.toNat % 2 ^ 16))
  | 8 => cvtVal bf16 rm (fdecode fp16 (v.toNat % 2 ^ 16))
  | _ => cvtVal fp16 rm (fdecode bf16 (v.toNat % 2 ^ 16))

def execFcvt (h : Hd) (kind : Fin 10) (rm : Rnd) (d a : SReg) (s : State) : Res :=
  issueOp h (.s a :: rndSrcs rm) s fun s => s.landF (s.acc + 16) d (fcvtVal kind (s.rmode rm) (s.sreg a))

end Sys2Proof.Machine
end

