-- ==== Sys2Proof/Machine/Control.lean ====
section
/-! DEFINITION. Branches, calls and the timetable instructions of 04 R95 to R102. -/

namespace Sys2Proof.Machine

namespace State

/-- A taken branch to a PC: the target is fetched at the next turn (02 R36, R37). A commit point of the same group set WPC to the
next group, which is now the target (01 R27). -/
def branchTo (s : State) (pc : Nat) : State :=
  let from_ := s.cur.pc + s.cur.slot
  let s := s.modMe fun x => { x with pc := pc, branch := some from_ }
  if s.cur.committed then s.setWpc s.cur.core s.cur.berth pc (s.acc + 1) else s

/-- Line L + LOFF, plus an index for BRX; none outside 0 to 4,095 (02 R45, 04 R97). -/
def lineTarget (s : State) (loff : BitVec 45) (idx : Nat) : Option Nat :=
  let l : Int := (s.cur.pc / 8 : Nat) + loff.toInt + idx
  if 0 ≤ l && l < 4096 then some l.toNat else none

/-- LOFF [31:0], or (LOFF + s(A)) [31:0]. -/
def loffInfo (loff : BitVec 45) (idx : Nat) : BitVec 32 := BitVec.ofInt 32 (loff.toInt + idx)

end State

/-- A J-format branch with its sources; `pre` says whether it is taken and what it lands (04 R96, R97). -/
def jBranch (h : Hd) (srcs : List Src) (loff : BitVec 45) (ts : Fin 5) (s : State) (taken : State → Bool) (idx : State → Nat)
    (pre : State → State) : Res :=
  issueOp h srcs s fun s =>
    if taken s then
      match s.lineTarget loff (idx s) with
      | some l => (pre s).branchTo (l * 8 + ts.val)
      | none => s.raise 2 6 (State.loffInfo loff (idx s))
    else pre s

/-- A branch to the PC in s(A) (04 R97). -/
def rBranch (h : Hd) (a : SReg) (s : State) (pre : State → State) : Res :=
  issueOp h [.s a] s fun s =>
    let v := s.sreg a
    if 2 ^ 15 ≤ v.toNat then s.raise 2 6 (v.setWidth 32) else (pre s).branchTo v.toNat

/-- The link: the PC of the group after the branch's group (04 R95). -/
def linkTo (d : SReg) (s : State) : State := s.landS (s.acc + 16) d (BitVec.ofNat 64 s.cur.next)

def execBr (h : Hd) (loff : BitVec 45) (ts : Fin 5) (s : State) : Res :=
  jBranch h [] loff ts s (fun _ => true) (fun _ => 0) fun s => s
def execJmp (h : Hd) (a : SReg) (s : State) : Res := rBranch h a s fun s => s
def execCall (h : Hd) (d : SReg) (loff : BitVec 45) (ts : Fin 5) (s : State) : Res :=
  jBranch h [] loff ts s (fun _ => true) (fun _ => 0) (linkTo d)
def execCallr (h : Hd) (d a : SReg) (s : State) : Res := rBranch h a s (linkTo d)
def execRet (h : Hd) (a : SReg) (s : State) : Res := rBranch h a s fun s => s

/-- LOOP counts s(A) down and branches while it stays non-zero (04 R96). -/
def execLoop (h : Hd) (a : SReg) (loff : BitVec 45) (ts : Fin 5) (s : State) : Res :=
  jBranch h [.s a] loff ts s (fun s => s.sreg a ≠ 0 && s.sreg a - 1 ≠ 0) (fun _ => 0) fun s =>
    if s.sreg a ≠ 0 then s.landS (s.acc + 16) a (s.sreg a - 1) else s
def execBrx (h : Hd) (a : SReg) (loff : BitVec 45) (ts : Fin 5) (s : State) : Res :=
  jBranch h [.s a] loff ts s (fun _ => true) (fun s => (s.sreg a).toNat) fun s => s

/-! ## Waits -/

namespace State

/-- The berth waits (RUN 0b100). Beside an MMAC in its group it is out of the rotation first, and waits when it is back. -/
def waitFor (s : State) (w : Waiting) : State := s.modMe fun x => { x with run := if x.run = 3 then 3 else 4, wait := w }

/-- TCOORD of a slip: counter at issue and target (01 R18). -/
def slipCoord (i t : Nat) : Word := BitVec.ofNat 64 (i % 2 ^ 32 * 2 ^ 32 + t % 2 ^ 32)

end State

def execWaitc (h : Hd) (a : SReg) (x : BitVec 32) (s : State) : Res :=
  issueOp h [.s a] s fun s =>
    let t := (s.sreg a).toNat + x.toNat
    let i := s.ttcOf s.cur.core
    if s.lenOf s.cur.core ≤ t then s.raise 0xB 2 0 (State.slipCoord i t)
    else if t ≤ i then s.raise 0xB 1 (BitVec.ofNat 32 (i - t)) (State.slipCoord i t)
    else s.waitFor (.ttc t)

def execWaitcItc (h : Hd) (a : SReg) (x : BitVec 32) (s : State) : Res :=
  issueOp h [.s a] s fun s =>
    let t := (s.sreg a).toNat + x.toNat
    match s.island? s.cur.core s.cur.berth with
    | none => s.raise 0xB 3 0 (State.slipCoord 0 t)
    | some isl =>
      let i := s.itcOf isl
      if t ≤ i then s.raise 0xB 1 (BitVec.ofNat 32 (i - t)) (State.slipCoord i t) else s.waitFor (.itc t)

/-- WAITR counts cycles, at least a turn (04 R99). -/
def execWaitr (h : Hd) (a : SReg) (x : BitVec 32) (s : State) : Res :=
  issueOp h [.s a] s fun s => s.waitFor (.cycle (s.acc + max ((s.sreg a).toNat + x.toNat) 16))

namespace State

/-- The next phase mark after this cycle's TTC: its row (04 R100, 06 R139). -/
def nextMark (s : State) (core : Nat) : Option PhaseRow := (s.core core).phases.find? fun r => s.ttcOf core < r.mark

/-- RESYNC with the resume PC that the mark's row gives: the handling ends, WPC takes the resume PC, and the berth waits for the
mark, or for the scan edge as a halted berth does: a journey berth's too (04 R100, 18 R330). `br` is the PC of a RESYNC.to, whose target is checked as JMP's. -/
def resyncAt (s : State) (dst : Nat → Option Nat) (br : Option Nat) : State :=
  let c := s.cur.core
  let b := s.cur.berth
  let mark : Option (Nat × Nat) := match s.nextMark c with
    | some r => (r.entries.find? fun (e : Nat × Nat) => e.1 = b).bind fun e => (dst e.2).map fun pc => (r.mark, pc)
    | none => none
  let pc := match mark with
    | some m => m.2
    | none => s.me.entry
  let s := s.modMe fun x => if x.intrap then { x with mode := x.pmode, intrap := false } else x
  let s := s.modMe fun x => match mark with
    | some m => { x with pc := pc, branch := br, forceWm := true, run := if x.run = 3 then 3 else 4, wait := .ttc m.1 }
    | none => { x with pc := pc, branch := none, forceWm := true, run := 2, wait := .none }
  let s := (s.setWpc c b pc (s.acc + 1)).hold (.handled false true)
  if mark.isNone then s.hold .halt else s

end State

def execResync (h : Hd) (s : State) : Res := issueOp h [] s fun s => s.resyncAt some none

def execResyncTo (h : Hd) (a : SReg) (s : State) : Res :=
  issueOp h [.s a] s fun s =>
    let v := s.sreg a
    if 2 ^ 15 ≤ v.toNat then s.raise 2 6 (v.setWidth 32) else s.resyncAt (fun _ => some v.toNat) (some (s.cur.pc + s.cur.slot))

/-! ## RDTT (04 R101) -/

namespace State

/-- Number of the current phase and its mark (06 R139). -/
def phaseOf (s : State) (core : Nat) : Nat × Nat :=
  let on := (s.core core).phases.filter fun r => r.mark ≤ s.ttcOf core
  match on.getLast? with
  | some r => (on.length - 1, r.mark)
  | none => (0, 0)

/-- SLIPPED of the berth's island, or of the foreground (06 R140). -/
def slippedOf (s : State) (c b : Nat) : Bool :=
  match s.island? c b with
  | some i => i.slipped
  | none => (s.core c).slipped

/-- The phase status word. -/
def phaseWord (s : State) (c b : Nat) : Word :=
  let (k, m) := s.phaseOf c
  BitVec.ofNat 64 (m * 2 ^ 32 + (s.island? c b).isSome.toNat * 32 + (s.slippedOf c b).toNat * 16 + k)

/-- GT in whole ns (22 R388). -/
def gtNs (s : State) : Nat := s.gt / 552

/-- The value that RDTT's F names. -/
def rdttVal (s : State) (sel : BitVec 3) : Word :=
  let c := s.cur.core
  let b := s.cur.berth
  match sel.toNat with
  | 0 => BitVec.ofNat 64 (s.ttcOf c % 2 ^ 32)
  | 1 => BitVec.ofNat 64 (s.itc c b)
  | 2 => BitVec.ofNat 64 s.acc
  | 3 => (s.scnAt c).setWidth 64
  | 4 => BitVec.ofNat 64 s.gtNs
  | 5 => s.phaseWord c b
  | 6 => BitVec.ofNat 64 (s.lenOf c)
  | _ =>
    let (p, l) := (s.core c).owner.getD (0, 0)
    BitVec.ofNat 64 (b + 16 * l + 2048 * p)

end State

def execRdtt (h : Hd) (sel : BitVec 3) (d : SReg) (s : State) : Res :=
  issueOp h [] s fun s => s.landS (s.acc + 16) d (s.rdttVal sel)

end Sys2Proof.Machine
end

