-- ==== Sys2Proof/Machine/Vector.lean ====
section
/-! DEFINITION. The vector instructions of 05 R103 to R134. -/

namespace Sys2Proof.Machine

/-! ## Elements (03 R59 to R62) -/

/-- Element i of w bytes. -/
def elem (w i : Nat) (v : Vec) : Nat := v.toNat / 2 ^ (8 * w * i) % 2 ^ (8 * w)

/-- The register whose element i is (l i), w bytes each. -/
def joinElems (w : Nat) : List Nat → Nat
  | [] => 0
  | x :: l => x % 2 ^ (8 * w) + 2 ^ (8 * w) * joinElems w l

/-- Element i is active: the mask bit of its lowest lane (03 R60). -/
def active (m : Mask) (w i : Nat) : Bool := m.getLsbD (w * i)

/-- The byte lanes of the elements that satisfy p, n elements of w bytes. -/
def lanesOf (w n : Nat) (p : Nat → Bool) : Mask :=
  BitVec.ofNat 256 ((List.range n).foldl (fun acc i => if p i then acc + (2 ^ w - 1) * 2 ^ (w * i) else acc) 0)

def isFp (t : BitVec 4) : Bool := t = 1 || t = 2 || t = 3
def isInt (t : BitVec 4) : Bool := t = 4 || t = 5 || t = 6 || t = 7

/-- Format of a floating-point tag. -/
def fmtOfTag (t : BitVec 4) : FFmt := if t = 1 then fp32 else if t = 2 then bf16 else fp16

/-- Value of an element of an integer tag: signed, but for UINT8 (03 R61). -/
def intVal (t : BitVec 4) (x : Nat) : Int := if t = 7 then x else toSigned (8 * tagWidth t) x

def intLo (t : BitVec 4) : Int := if t = 7 then 0 else -(2 ^ (8 * tagWidth t - 1) : Nat)
def intHi (t : BitVec 4) : Int := if t = 7 then 255 else (2 ^ (8 * tagWidth t - 1) : Nat) - 1

/-- An exact integer result wrapped, or clamped with SAT (03 R61). -/
def intOut (t : BitVec 4) (sat : Bool) (x : Int) : Nat × BitVec 9 :=
  let n := 8 * tagWidth t
  if sat then
    let y := if x < intLo t then intLo t else if intHi t < x then intHi t else x
    (toBits n y, satFlag (y ≠ x))
  else (toBits n x, 0)

/-! ## Issue and landing -/

/-- The register sources of vector sources: the data and the tag. -/
def vSrcs (l : List VSrc) : List Src := l.flatMap fun x => [.v x.reg, .tag x.reg]

/-- A vector instruction at issue: parity checks, then tags, then its action (05 R104, R106). Poison in a scalar operand is met with the
operand reads, before the tags (A20, DEDUCED). -/
def vecOp (h : Hd) (vs : List VSrc) (agree : Bool) (others : List Src) (s : State) (k : State → State) : Res :=
  issueOp h (vSrcs vs ++ others) s fun s =>
    match s.tagCheck vs agree with
    | some t => s.raiseInfo t
    | none => k s

/-- A tag not accepted for a reason beyond the tag itself: a part or a form (05 R106). -/
def State.badForm (s : State) (x : VSrc) : State := s.raiseInfo (fmtTrap 1 (s.vtag x.reg).toNat x.req x.reg.toNat x.field)

/-- Lands the active elements of a vector result with its tag; the flags are the union over the active elements (05 R104). -/
def State.landV (s : State) (at_ : Nat) (d : VReg) (tag : BitVec 4) (k : MReg) (f : Nat → Nat × BitVec 9) : State :=
  let w := tagWidth tag
  let n := 256 / w
  let m := s.mreg k
  let rs := (List.range n).map fun i => if active m w i then f i else (0, 0)
  s.land at_ [.v d (BitVec.ofNat 2048 (joinElems w (rs.map (·.1)))) (lanesOf w n (active m w)) tag] (flagUnion (rs.map (·.2)))

/-- Lands a mask result: the w bits of an active element take its value, all others 0 (05 R104). -/
def State.landM (s : State) (d : MReg) (w : Nat) (k : MReg) (p : Nat → Bool) (flags : BitVec 9) : State :=
  s.land (s.acc + 16) [.m d (lanesOf w (256 / w) fun i => active (s.mreg k) w i && p i)] flags

def srcA (a : VReg) (ok : BitVec 4 → Bool) : VSrc := { field := 1, reg := a, ok := ok }
def srcB (b : VReg) (ok : BitVec 4 → Bool) : VSrc := { field := 2, reg := b, ok := ok }
def srcD (d : VReg) (ok : BitVec 4 → Bool) : VSrc := { field := 0, reg := d, ok := ok }

/-- Vector and scalar sources of the second operand (05 R107). -/
def vop2V (o : VOp2) (ok : BitVec 4 → Bool) : List VSrc :=
  match o with
  | .vec b => [srcB b ok]
  | .bs _ => []
def vop2S (o : VOp2) : List Src :=
  match o with
  | .vec _ => []
  | .bs b => [.s b]

/-- Element i of the second operand. -/
def State.vop2 (s : State) (o : VOp2) (w i : Nat) : Nat :=
  match o with
  | .vec b => elem w i (s.vreg b)
  | .bs b => (s.sreg b).toNat % 2 ^ (8 * w)

/-- A lane instruction on v(A) and the second operand, with A's tag, landing at issue + 16. -/
def laneOp (h : Hd) (k : MReg) (d a : VReg) (o : VOp2) (ok : BitVec 4 → Bool) (others : List Src) (s : State)
    (f : State → BitVec 4 → Nat → Nat → Nat × BitVec 9) : Res :=
  vecOp h (srcA a ok :: vop2V o ok) true (.m k :: vop2S o ++ others) s fun s =>
    let t := s.vtag a
    let w := tagWidth t
    s.landV (s.acc + 16) d t k fun i => f s t (elem w i (s.vreg a)) (s.vop2 o w i)

/-- A lane instruction on v(A) alone. -/
def laneOp1 (h : Hd) (k : MReg) (d a : VReg) (ok : BitVec 4 → Bool) (others : List Src) (lat : Nat) (s : State)
    (f : State → BitVec 4 → Nat → Nat × BitVec 9) : Res :=
  vecOp h [srcA a ok] true (.m k :: others) s fun s =>
    let t := s.vtag a
    s.landV (s.acc + lat) d t k fun i => f s t (elem (tagWidth t) i (s.vreg a))

def ok17 (t : BitVec 4) : Bool := isFp t || isInt t
def okArith (sat : Bool) (t : BitVec 4) : Bool := if sat then isInt t else ok17 t
def ok08 (t : BitVec 4) : Bool := t.toNat ≤ 8

/-! ## Lane arithmetic (05 R108 to R113) -/

/-- FP or integer form of a two-operand operation (05 R108). -/
def arith (fp : FFmt → RMode → FVal → FVal → Nat × BitVec 9) (int : Int → Int → Int) (sat : Bool) (rm : RMode) (t : BitVec 4)
    (x y : Nat) : Nat × BitVec 9 :=
  if isFp t then fp (fmtOfTag t) rm (fdecode (fmtOfTag t) x) (fdecode (fmtOfTag t) y)
  else intOut t sat (int (intVal t x) (intVal t y))

def execVadd (h : Hd) (sat : Bool) (rm : Rnd) (k : MReg) (d a : VReg) (o : VOp2) (s : State) : Res :=
  laneOp h k d a o (okArith sat) (rndSrcs rm) s fun s => arith addVal (· + ·) sat (s.rmode rm)
def execVsub (h : Hd) (sat : Bool) (rm : Rnd) (k : MReg) (d a : VReg) (o : VOp2) (s : State) : Res :=
  laneOp h k d a o (okArith sat) (rndSrcs rm) s fun s => arith (fun f r x y => addVal f r x y.flip) (· - ·) sat (s.rmode rm)
def execVmul (h : Hd) (sat : Bool) (rm : Rnd) (k : MReg) (d a : VReg) (o : VOp2) (s : State) : Res :=
  laneOp h k d a o (okArith sat) (rndSrcs rm) s fun s => arith mulVal (· * ·) sat (s.rmode rm)

/-- Minimum or maximum (05 R108). -/
def minMax (isMax : Bool) (t : BitVec 4) (x y : Nat) : Nat × BitVec 9 :=
  if isFp t then minMaxVal (fmtOfTag t) isMax x y
  else (if (intVal t x < intVal t y) != isMax then x else y, 0)

def execVmin (h : Hd) (k : MReg) (d a : VReg) (o : VOp2) (s : State) : Res :=
  laneOp h k d a o ok17 [] s fun _ => minMax false
def execVmax (h : Hd) (k : MReg) (d a : VReg) (o : VOp2) (s : State) : Res :=
  laneOp h k d a o ok17 [] s fun _ => minMax true

/-- VFMA and VFMS accumulate into v(D) (05 R109). -/
def fmaOp (h : Hd) (sub : Bool) (rm : Rnd) (k : MReg) (d a : VReg) (o : VOp2) (s : State) : Res :=
  vecOp h (srcA a isFp :: vop2V o isFp ++ [srcD d isFp]) true (.m k :: vop2S o ++ rndSrcs rm) s fun s =>
    let t := s.vtag a
    let w := tagWidth t
    let f := fmtOfTag t
    s.landV (s.acc + 16) d t k fun i =>
      let c := fdecode f (elem w i (s.vreg d))
      fmaVal f (s.rmode rm) (fdecode f (elem w i (s.vreg a))) (fdecode f (s.vop2 o w i)) (if sub then c.flip else c)

def execVfma (h : Hd) (rm : Rnd) (k : MReg) (d a : VReg) (o : VOp2) (s : State) : Res := fmaOp h false rm k d a o s
def execVfms (h : Hd) (rm : Rnd) (k : MReg) (d a : VReg) (o : VOp2) (s : State) : Res := fmaOp h true rm k d a o s

/-- Tags 1 to 6; the saturating form takes integers only (05 R106, R110). -/
def okAbs (sat : Bool) (t : BitVec 4) : Bool := t ≠ 7 && okArith sat t

/-- VABS and VNEG on one element (05 R110). -/
def absNeg (neg sat : Bool) (t : BitVec 4) (x : Nat) : Nat × BitVec 9 :=
  if isFp t then
    let f := fmtOfTag t
    let v := fdecode f x
    if v.isNaN then nanResult f [v] else (x % f.signBit true + f.signBit (neg && !v.neg), 0)
  else
    let v := intVal t x
    intOut t sat (if neg || v < 0 then -v else v)

def execVabs (h : Hd) (sat : Bool) (k : MReg) (d a : VReg) (s : State) : Res :=
  laneOp1 h k d a (okAbs sat) [] 16 s fun _ => absNeg false sat
def execVneg (h : Hd) (sat : Bool) (k : MReg) (d a : VReg) (s : State) : Res :=
  laneOp1 h k d a (okAbs sat) [] 16 s fun _ => absNeg true sat

def execVrcp (h : Hd) (k : MReg) (d a : VReg) (s : State) : Res :=
  laneOp1 h k d a isFp [] 16 s fun _ t x => rcpVal (fmtOfTag t) (fdecode (fmtOfTag t) x)
def execVrsq (h : Hd) (k : MReg) (d a : VReg) (s : State) : Res :=
  laneOp1 h k d a isFp [] 16 s fun _ t x => rsqVal (fmtOfTag t) (fdecode (fmtOfTag t) x)
def execVexp2 (h : Hd) (k : MReg) (d a : VReg) (s : State) : Res :=
  laneOp1 h k d a isFp [] 16 s fun _ t x => exp2Val (fmtOfTag t) (fdecode (fmtOfTag t) x)
def execVlog2 (h : Hd) (k : MReg) (d a : VReg) (s : State) : Res :=
  laneOp1 h k d a isFp [] 16 s fun _ t x => log2Val (fmtOfTag t) (fdecode (fmtOfTag t) x)

/-- VDIV and VSQRT land at issue + 64 (05 R113). -/
def execVdiv (h : Hd) (rm : Rnd) (k : MReg) (d a b : VReg) (s : State) : Res :=
  vecOp h [srcA a isFp, srcB b isFp] true (.m k :: rndSrcs rm) s fun s =>
    let t := s.vtag a
    let w := tagWidth t
    let f := fmtOfTag t
    s.landV (s.acc + 64) d t k fun i =>
      divVal f (s.rmode rm) (fdecode f (elem w i (s.vreg a))) (fdecode f (elem w i (s.vreg b)))
def execVsqrt (h : Hd) (rm : Rnd) (k : MReg) (d a : VReg) (s : State) : Res :=
  laneOp1 h k d a isFp (rndSrcs rm) 64 s fun s t x => sqrtVal (fmtOfTag t) (s.rmode rm) (fdecode (fmtOfTag t) x)

/-! ## Compares, selection and masks (05 R114 to R116) -/

/-- Tags of each condition (05 R114). -/
def okCmp (cond : Fin 7) (t : BitVec 4) : Bool := if cond.val ≤ 1 then ok08 t else if cond.val ≤ 5 then ok17 t else isFp t

/-- A condition on an ordering. -/
def condOf (cond : Nat) (o : Ordering) : Bool :=
  match cond with
  | 0 => o = .eq
  | 1 => o ≠ .eq
  | 2 => o = .lt
  | 3 => o ≠ .gt
  | 4 => o = .gt
  | _ => o ≠ .lt

/-- VCMP on one element: the truth and NV (05 R114). -/
def cmpElem (cond : Fin 7) (t : BitVec 4) (x y : Nat) : Bool × BitVec 9 :=
  if isFp t then
    let a := fdecode (fmtOfTag t) x
    let b := fdecode (fmtOfTag t) y
    let un := a.isNaN || b.isNaN
    let quiet := cond.val ≤ 1 || cond.val = 6
    let fl := if quiet then (if a.isSNaN || b.isSNaN then fNV else 0) else if un then fNV else 0
    (if cond.val = 6 then un else if un then cond.val = 1 else condOf cond.val (ordVal a b), fl)
  else if isInt t then (condOf cond.val (compare (intVal t x) (intVal t y)), 0)
  else (condOf cond.val (compare x y), 0)

def execVcmp (h : Hd) (cond : Fin 7) (k d : MReg) (a : VReg) (o : VOp2) (s : State) : Res :=
  vecOp h (srcA a (okCmp cond) :: vop2V o (okCmp cond)) true (.m k :: vop2S o) s fun s =>
    let t := s.vtag a
    let w := tagWidth t
    let r (i : Nat) := cmpElem cond t (elem w i (s.vreg a)) (s.vop2 o w i)
    let m := s.mreg k
    let fl := flagUnion ((List.range (256 / w)).map fun i => if active m w i then (r i).2 else 0)
    s.landM d w k (fun i => (r i).1) fl

def execVsel (h : Hd) (k : MReg) (d a b : VReg) (c : MReg) (s : State) : Res :=
  vecOp h [srcA a ok08, srcB b ok08] true [.m k, .m c] s fun s =>
    let t := s.vtag a
    let w := tagWidth t
    s.landV (s.acc + 16) d t k fun i => (elem w i (s.vreg (if active (s.mreg c) w i then a else b)), 0)

/-- The 256 bits of VMLOG (05 R116). -/
def mlog (op : BitVec 3) (a b : Mask) : Mask :=
  match op.toNat with
  | 0 => a &&& b
  | 1 => a ||| b
  | 2 => a ^^^ b
  | 3 => a &&& ~~~b
  | 4 => a ||| ~~~b
  | 5 => ~~~(a &&& b)
  | 6 => ~~~(a ||| b)
  | _ => ~~~(a ^^^ b)

def execVmlog (h : Hd) (op : BitVec 3) (d a b : MReg) (s : State) : Res :=
  issueOp h [.m a, .m b] s fun s => s.land (s.acc + 16) [.m d (mlog op (s.mreg a) (s.mreg b))]
def execVmpop (h : Hd) (k : MReg) (d : SReg) (a : MReg) (s : State) : Res :=
  issueOp h [.m a, .m k] s fun s => s.landS (s.acc + 16) d (BitVec.ofNat 64 (popNat (s.mreg a &&& s.mreg k).toNat 256))

/-- Index of the lowest or highest one; 256 when there is none (05 R116). -/
def firstOne (last : Bool) (m : Mask) : Nat := if m = 0 then 256 else if last then m.toNat.log2 else ctzNat m.toNat 256

def execVmfirst (h : Hd) (last : Bool) (k : MReg) (d : SReg) (a : MReg) (s : State) : Res :=
  issueOp h [.m a, .m k] s fun s => s.landS (s.acc + 16) d (BitVec.ofNat 64 (firstOne last (s.mreg a &&& s.mreg k)))

/-! ## Bits and counts (05 R117 to R120) -/

def execVand (h : Hd) (k : MReg) (d a : VReg) (o : VOp2) (s : State) : Res := laneOp h k d a o ok08 [] s fun _ _ x y => (x &&& y, 0)
def execVor (h : Hd) (k : MReg) (d a : VReg) (o : VOp2) (s : State) : Res := laneOp h k d a o ok08 [] s fun _ _ x y => (x ||| y, 0)
def execVxor (h : Hd) (k : MReg) (d a : VReg) (o : VOp2) (s : State) : Res := laneOp h k d a o ok08 [] s fun _ _ x y => (x ^^^ y, 0)
def execVnot (h : Hd) (k : MReg) (d a : VReg) (s : State) : Res :=
  laneOp1 h k d a ok08 [] 16 s fun _ t x => (2 ^ (8 * tagWidth t) - 1 - x, 0)

/-- A shift of an element of n bits by an unsigned amount (05 R118). -/
def shl (_ : BitVec 4) (n x amt : Nat) : Nat := if n ≤ amt then 0 else x * 2 ^ amt % 2 ^ n
def shr (_ : BitVec 4) (n x amt : Nat) : Nat := if n ≤ amt then 0 else x / 2 ^ amt
def sar (t : BitVec 4) (n x amt : Nat) : Nat := toBits n (toSigned (8 * tagWidth t) x / (2 ^ min amt n : Nat))

def shiftOp (h : Hd) (k : MReg) (d a : VReg) (n : ShAmt) (ok : BitVec 4 → Bool) (s : State) (f : BitVec 4 → Nat → Nat → Nat → Nat) : Res :=
  let vs := match n with
    | .vec b => [srcB b ok]
    | _ => []
  let ss := match n with
    | .bs b => [Src.s b]
    | _ => []
  vecOp h (srcA a ok :: vs) true (.m k :: ss) s fun s =>
    let t := s.vtag a
    let w := tagWidth t
    let amt (i : Nat) := match n with
      | .vec b => elem w i (s.vreg b)
      | .imm x => x.toNat
      | .bs b => (s.sreg b).toNat
    s.landV (s.acc + 16) d t k fun i => (f t (8 * w) (elem w i (s.vreg a)) (amt i), 0)

def ok48 (t : BitVec 4) : Bool := 4 ≤ t.toNat && t.toNat ≤ 8
def ok46 (t : BitVec 4) : Bool := 4 ≤ t.toNat && t.toNat ≤ 6

def execVshl (h : Hd) (k : MReg) (d a : VReg) (n : ShAmt) (s : State) : Res := shiftOp h k d a n ok48 s shl
def execVshr (h : Hd) (k : MReg) (d a : VReg) (n : ShAmt) (s : State) : Res := shiftOp h k d a n ok48 s shr
def execVsar (h : Hd) (k : MReg) (d a : VReg) (n : ShAmt) (s : State) : Res := shiftOp h k d a n ok46 s sar

/-- Lands lanes of 64 bits with a given tag (05 R119). -/
def State.landWords (s : State) (d : VReg) (tag : BitVec 4) (k : MReg) (f : Nat → Nat) : State :=
  let m := s.mreg k
  s.land (s.acc + 16) [.v d (BitVec.ofNat 2048 (joinElems 8 ((List.range 32).map f))) (lanesOf 8 32 (active m 8)) tag]

def execVclmul (h : Hd) (hi : Bool) (k : MReg) (d a : VReg) (o : VOp2) (s : State) : Res :=
  let ok (t : BitVec 4) : Bool := t = 0 || t = 8
  vecOp h (srcA a ok :: vop2V o ok) true (.m k :: vop2S o) s fun s =>
    s.landWords d (s.vtag a) k fun i =>
      let p := clmulNat (elem 8 i (s.vreg a)) (s.vop2 o 8 i) 64
      if hi then p / 2 ^ 64 else p % 2 ^ 64

def execVpopc (h : Hd) (k : MReg) (d a : VReg) (s : State) : Res :=
  laneOp1 h k d a ok48 [] 16 s fun _ t x => (popNat x (8 * tagWidth t), 0)
def execVclz (h : Hd) (k : MReg) (d a : VReg) (s : State) : Res :=
  laneOp1 h k d a ok48 [] 16 s fun _ t x => (clzNat (8 * tagWidth t) x, 0)

/-! ## Moving elements (05 R121 to R125) -/

def execVperm (h : Hd) (k : MReg) (d a b : VReg) (s : State) : Res :=
  vecOp h [srcA a ok08, srcB b fun t => t = 0 || isInt t] false [.m k] s fun s =>
    let t := s.vtag a
    let w := tagWidth t
    s.landV (s.acc + 16) d t k fun i =>
      let e := elem w i (s.vreg b)
      (if e < 256 / w then elem w e (s.vreg a) else 0, 0)

/-- Source element of a shuffle: from b when the flag is set (05 R122). -/
def shufIdx (pat : Nat) (n i : Nat) : Bool × Nat :=
  match pat with
  | 0 => (i % 2 = 1, i / 2)
  | 1 => (i % 2 = 1, n / 2 + i / 2)
  | 2 => (n / 2 ≤ i, 2 * (i % (n / 2)))
  | 3 => (n / 2 ≤ i, 2 * (i % (n / 2)) + 1)
  | _ => (false, n - 1 - i)

def execVshuf (h : Hd) (pat : Fin 5) (k : MReg) (d a b : VReg) (s : State) : Res :=
  vecOp h (srcA a ok08 :: if pat = 4 then [] else [srcB b ok08]) true [.m k] s fun s =>
    let t := s.vtag a
    let w := tagWidth t
    s.landV (s.acc + 16) d t k fun i =>
      let (fromB, j) := shufIdx pat.val (256 / w) i
      (elem w j (s.vreg (if fromB then b else a)), 0)

/-- Element i of the slide of a and b by m places (05 R123). -/
def slideElem (up : Bool) (w m i : Nat) (a b : Vec) : Nat :=
  let n := 256 / w
  if up then
    if m ≤ i then elem w (i - m) a else if m ≤ i + n then elem w (i + n - m) b else 0
  else if i + m < n then elem w (i + m) a
  else if i + m < 2 * n then elem w (i + m - n) b
  else 0

def execVslide (h : Hd) (up : Bool) (k : MReg) (d a b : VReg) (n : SlAmt) (s : State) : Res :=
  let ss := match n with
    | .imm _ => []
    | .reg c => [Src.s c]
  vecOp h [srcA a ok08, srcB b ok08] true (.m k :: ss) s fun s =>
    let t := s.vtag a
    let m := match n with
      | .imm x => x.toNat
      | .reg c => (s.sreg c).toNat
    s.landV (s.acc + 16) d t k fun i => (slideElem up (tagWidth t) m i (s.vreg a) (s.vreg b), 0)

def execVbcast (h : Hd) (k : MReg) (d : VReg) (src : BcSrc) (s : State) : Res :=
  match src with
  | .scalar tag a =>
    issueOp h [.s a, .m k] s fun s =>
      let t := BitVec.ofNat 4 tag.val
      s.landV (s.acc + 16) d t k fun _ => ((s.sreg a).toNat % 2 ^ (8 * tagWidth t), 0)
  | .elem a x =>
    vecOp h [srcA a ok08] true [.m k] s fun s =>
      let t := s.vtag a
      let w := tagWidth t
      s.landV (s.acc + 16) d t k fun _ => (if x.toNat < 256 / w then elem w x.toNat (s.vreg a) else 0, 0)

/-- The element index s(B) + X[15:0] (05 R125). -/
def State.elemIdx (s : State) (b : SReg) (x : BitVec 16) : Nat := (s.sreg b).toNat + x.toNat

def execVextr (h : Hd) (sg : Bool) (d : SReg) (a : VReg) (b : SReg) (x : BitVec 16) (s : State) : Res :=
  vecOp h [srcA a ok08] true [.s b] s fun s =>
    let w := tagWidth (s.vtag a)
    let e := s.elemIdx b x
    let v : Word := if e < 256 / w then extLow sg (8 * w) (BitVec.ofNat 64 (elem w e (s.vreg a))) else 0
    s.landS (s.acc + 16) d v

def execVins (h : Hd) (d : VReg) (a b : SReg) (x : BitVec 16) (s : State) : Res :=
  issueOp h [.s a, .s b, .tag d] s fun s =>
    match s.tagCheck [srcD d ok08] true with
    | some t => s.raiseInfo t
    | none =>
      let t := s.vtag d
      let w := tagWidth t
      let e := s.elemIdx b x
      if e < 256 / w then
        s.land (s.acc + 16)
          [.v d (BitVec.ofNat 2048 ((s.sreg a).toNat % 2 ^ (8 * w) * 2 ^ (8 * w * e))) (lanesOf w (256 / w) fun i => i = e) t]
      else s

/-! ## Reductions and scans (05 R126, R127, 03 R79, R80) -/

/-- An element in a reduction: none is inactive; integers are exact. -/
abbrev RedElem := Option (Int × Nat)

/-- One combination: values as (integer, bits) so that integer sums stay exact (03 R79). -/
def redCombine (op : Nat) (wrap : Bool) (rm : RMode) (t : BitVec 4) (x y : RedElem) : RedElem × BitVec 9 :=
  match x, y with
  | none, y => (y, 0)
  | x, none => (x, 0)
  | some (i, b), some (j, c) =>
    let r : (Int × Nat) × BitVec 9 :=
      match op with
      | 0 =>
        if isFp t then
          let z := addVal (fmtOfTag t) rm (fdecode (fmtOfTag t) b) (fdecode (fmtOfTag t) c)
          ((0, z.1), z.2)
        else if wrap then let z := (intOut t false (i + j)).1; ((intVal t z, z), 0)
        else ((i + j, 0), 0)
      | 1 => let z := minMax false t b c; ((intVal t z.1, z.1), z.2)
      | 2 => let z := minMax true t b c; ((intVal t z.1, z.1), z.2)
      | 3 => ((0, b &&& c), 0)
      | 4 => ((0, b ||| c), 0)
      | _ => ((0, b ^^^ c), 0)
    (some r.1, r.2)

/-- The fixed tree of 03 R79: n halving steps. -/
def redTree (op : Nat) (rm : RMode) (t : BitVec 4) : Nat → List RedElem → BitVec 9 → List RedElem × BitVec 9
  | 0, l, f => (l, f)
  | n + 1, l, f =>
    if l.length ≤ 1 then (l, f)
    else
    let d := l.length / 2
    let rs := ((l.take d).zip (l.drop d)).map fun p => redCombine op false rm t p.1 p.2
    redTree op rm t n (rs.map (·.1)) (f ||| flagUnion (rs.map (·.2)))

/-- Result of VRED when no element is active (05 R126). -/
def redIdentity (op : Nat) (t : BitVec 4) : Nat :=
  let w := tagWidth t
  match op with
  | 1 => if isFp t then (fmtOfTag t).infBits false else toBits (8 * w) (intHi t)
  | 2 => if isFp t then (fmtOfTag t).infBits true else toBits (8 * w) (intLo t)
  | 3 => 2 ^ (8 * w) - 1
  | _ => 0

def okRed (op : Nat) (t : BitVec 4) : Bool := if op ≤ 2 then ok17 t else t = 0 || ok48 t

/-- The active elements of v(A), by their index. -/
def State.redElems (s : State) (k : MReg) (a : VReg) : List RedElem :=
  let t := s.vtag a
  let w := tagWidth t
  (List.range (256 / w)).map fun i =>
    if active (s.mreg k) w i then some (intVal t (elem w i (s.vreg a)), elem w i (s.vreg a)) else none

def execVred (h : Hd) (op : Fin 6) (rm : Rnd) (k : MReg) (d : SReg) (a : VReg) (s : State) : Res :=
  vecOp h [srcA a (okRed op.val)] true (.m k :: rndSrcs rm) s fun s =>
    let t := s.vtag a
    let w := tagWidth t
    let (l, fl) := redTree op.val (s.rmode rm) t 8 (s.redElems k a) 0
    let (v, f2) : Nat × BitVec 9 := match l.head?.join with
      | none => (redIdentity op.val t, 0)
      | some (i, b) => if op.val = 0 && isInt t then intOut t true i else (b, 0)
    let sg := t = 4 || t = 5 || t = 6
    s.landS (s.acc + 32) d (extLow sg (8 * w) (BitVec.ofNat 64 v)) (fl ||| f2)

/-- The Hillis–Steele steps of 03 R80 from distance dist; an inactive element passes on what reaches it, and the add made there raises its
flags as every add does (A20, DEDUCED). -/
def scanSteps (op : Nat) (rm : RMode) (t : BitVec 4) : Nat → Nat → List RedElem → BitVec 9 → List RedElem × BitVec 9
  | 0, _, l, f => (l, f)
  | n + 1, dist, l, f =>
    if l.length ≤ dist then (l, f)
    else
    let rs := (l.zip (List.replicate dist none ++ l)).map fun p => redCombine op true rm t p.1 p.2
    scanSteps op rm t n (2 * dist) (rs.map (·.1)) (f ||| flagUnion (rs.map (·.2)))

def execVscan (h : Hd) (op : Fin 3) (rm : Rnd) (k : MReg) (d a : VReg) (s : State) : Res :=
  vecOp h [srcA a ok17] true (.m k :: rndSrcs rm) s fun s =>
    let t := s.vtag a
    let w := tagWidth t
    let (l, fl) := scanSteps op.val (s.rmode rm) t 8 1 (s.redElems k a) 0
    let vals := l.map fun x => match x with
      | some (_, b) => b
      | none => 0
    s.land (s.acc + 32) [.v d (BitVec.ofNat 2048 (joinElems w vals)) (lanesOf w (256 / w) (active (s.mreg k) w)) t] fl

/-! ## Conversions, tags, quantisation and planes (05 R128 to R132) -/

/-- One element converted from tag t to tag u (03 R69). -/
def convert (rm : RMode) (t u : BitVec 4) (x : Nat) : Nat × BitVec 9 :=
  if isFp t then
    let v := fdecode (fmtOfTag t) x
    if isFp u then cvtVal (fmtOfTag u) rm v
    else
      let r := toIntVal rm (intLo u) (intHi u) v
      (toBits (8 * tagWidth u) r.1, r.2)
  else if isFp u then ofIntVal (fmtOfTag u) rm (intVal t x)
  else intOut u true (intVal t x)

/-- Lands the conversion of v(A), of tag t, to tag u in part q: a widening takes source part q, a narrowing fills destination
part q and writes zeros elsewhere (05 R128). -/
def State.landParts (s : State) (d a : VReg) (k : MReg) (t u : BitVec 4) (q : Nat) (f : Nat → Nat × BitVec 9) : State :=
  let ws := tagWidth t
  let wd := tagWidth u
  let n := 256 / wd
  s.landV (s.acc + 16) d u k fun i =>
    if ws ≤ wd then f (elem ws (q * n + i) (s.vreg a))
    else
      let m := n / (ws / wd)
      if q * m ≤ i && i < q * m + m then f (elem ws (i - q * m) (s.vreg a)) else (0, 0)

/-- The ratio of two element widths (05 R128). -/
def ratio (t u : BitVec 4) : Nat := max (tagWidth t) (tagWidth u) / min (tagWidth t) (tagWidth u)

def execVcvt (h : Hd) (t : Fin 7) (rm : Rnd) (k : MReg) (q : BitVec 2) (d a : VReg) (s : State) : Res :=
  vecOp h [srcA a ok17] true (.m k :: rndSrcs rm) s fun s =>
    let u := BitVec.ofNat 4 (t.val + 1)
    let ta := s.vtag a
    if ratio ta u ≤ q.toNat then s.badForm (srcA a ok17)
    else s.landParts d a k ta u q.toNat (convert (s.rmode rm) ta u)

def execVtag (h : Hd) (t : Fin 9) (d a : VReg) (s : State) : Res :=
  vecOp h [srcA a ok08] true [] s fun s =>
    s.land (s.acc + 16) [.v d (s.vreg a) (BitVec.allOnes 256) (BitVec.ofNat 4 t.val)]

/-- VQNT of one element with scale g (05 R130). An infinite product is no integer: SAT and NX. -/
def quantize (rm : RMode) (u : BitVec 4) (x g : FVal) : Nat × BitVec 9 :=
  let bad : Bool := match x, g with
    | .inf _, .fin _ m _ => m = 0
    | .fin _ m _, .inf _ => m = 0
    | _, _ => false
  if x.isNaN || g.isNaN || bad then (0, fNV)
  else match x, g with
    | .fin n1 m1 e1, .fin n2 m2 e2 =>
      let (v, ix) := roundInt rm (n1 != n2) (m1 * m2) (e1 + e2)
      let r := intOut u true v
      (r.1, r.2 ||| (if ix then fNX else 0))
    | _, _ => (toBits 8 (if x.neg != g.neg then intLo u else intHi u), fSAT ||| fNX)

def execVqnt (h : Hd) (uns : Bool) (rm : Rnd) (k : MReg) (q : BitVec 2) (d a : VReg) (b : SReg) (s : State) : Res :=
  vecOp h [srcA a isFp] true (.s b :: .m k :: rndSrcs rm) s fun s =>
    let u : BitVec 4 := if uns then 7 else 6
    let ta := s.vtag a
    if ratio ta u ≤ q.toNat then s.badForm (srcA a isFp)
    else s.landParts d a k ta u q.toNat fun x => quantize (s.rmode rm) u (fdecode (fmtOfTag ta) x) (f32 (s.sreg b))

/-- The truncation q_n and centre of 03 R75. -/
def pnTrunc (n : Nat) (centre : Bool) (q : Int) : Int :=
  if n = 2 || n = 4 then q / (2 ^ (8 - n) : Nat) * (2 ^ (8 - n) : Nat) + (if centre then (2 ^ (7 - n) : Nat) else 0) else q

/-- VDQNT (05 R131). n or centre on a tag other than 6 is a tag not accepted, with 0 for the tag required, as the instruction accepts a set
(A20, DEDUCED). An integer 0 is +0 in the product with the scale: a negative scale gives -0 (A20, DEDUCED). -/
def execVdqnt (h : Hd) (t : Fin 3) (rm : Rnd) (k : MReg) (q : BitVec 2) (d a : VReg) (b : SReg) (n : BitVec 4) (centre : Bool)
    (s : State) : Res :=
  vecOp h [srcA a isInt] true (.s b :: .m k :: rndSrcs rm) s fun s =>
    let u := BitVec.ofNat 4 (t.val + 1)
    let ta := s.vtag a
    if ratio ta u ≤ q.toNat || ((n ≠ 0 || centre) && ta ≠ 6) then s.badForm (srcA a isInt)
    else s.landParts d a k ta u q.toNat fun x =>
      let v := pnTrunc n.toNat centre (intVal ta x)
      mulVal (fmtOfTag u) (s.rmode rm) (.fin (decide (v < 0)) v.natAbs 0) (f32 (s.sreg b))

/-- Bit b of word 4p + k from element 64k + b (05 R132). -/
def packBit (v : Vec) (i : Nat) : Nat :=
  let p := i / 256
  (elem 1 (i % 256) v).testBit (7 - p) |>.toNat

/-- q_n of element i from its planes: the top n bits of the byte (05 R132, 03 R74, R75). -/
def unpackElem (v : Vec) (n i : Nat) : Nat :=
  (List.range n).foldl (fun acc p => if v.getLsbD (256 * p + i) then acc + 2 ^ (7 - p) else acc) 0

def joinBits (l : List Nat) : Nat := l.foldr (fun b acc => b + 2 * acc) 0

def execVplane (h : Hd) (form : PlaneForm) (d a : VReg) (s : State) : Res :=
  match form with
  | .pack =>
    vecOp h [{ field := 1, reg := a, ok := fun t => t = 6, req := 6 }] true [] s fun s =>
      s.land (s.acc + 16) [.v d (BitVec.ofNat 2048 (joinBits ((List.range 2048).map (packBit (s.vreg a))))) (BitVec.allOnes 256) 8]
  | .unpack n =>
    vecOp h [{ field := 1, reg := a, ok := fun t => t = 8, req := 8 }] true [] s fun s =>
      s.land (s.acc + 16)
        [.v d (BitVec.ofNat 2048 (joinElems 1 ((List.range 256).map (unpackElem (s.vreg a) n.toNat)))) (BitVec.allOnes 256) 6]

/-! ## Bound checks and dot products (05 R133, R134) -/

/-- An element against its bounds: below lo (or a NaN), above hi (05 R133). -/
def boundElem (t : BitVec 4) (x lo hi : Nat) : Bool × Bool :=
  if isFp t then
    let f := fmtOfTag t
    let v := fdecode f x
    let l := fdecode f lo
    let u := fdecode f hi
    (v.isNaN || (!l.isNaN && ordVal v l = .lt), !v.isNaN && !u.isNaN && ordVal v u = .gt)
  else (decide (intVal t x < intVal t lo), decide (intVal t hi < intVal t x))

def isNaNElem (t : BitVec 4) (x : Nat) : Bool := isFp t && (fdecode (fmtOfTag t) x).isNaN

def execVbnd (h : Hd) (form : BndForm) (k : MReg) (a : VReg) (b c : SReg) (s : State) : Res :=
  vecOp h [srcA a ok17] true [.s b, .s c, .m k] s fun s =>
    let t := s.vtag a
    let w := tagWidth t
    let lo := (s.sreg b).toNat % 2 ^ (8 * w)
    let hi := (s.sreg c).toNat % 2 ^ (8 * w)
    let m := s.mreg k
    let x (i : Nat) := elem w i (s.vreg a)
    let out (i : Nat) := let r := boundElem t (x i) lo hi; r.1 || r.2
    let act := (List.range (256 / w)).filter (active m w)
    let nv := if act.any (fun i => isNaNElem t (x i)) || (!act.isEmpty && (isNaNElem t lo || isNaNElem t hi)) then fNV else 0
    match form with
    | .flag d => s.landM d w k out nv
    | .clamp d =>
      let s' := s.landV (s.acc + 16) d t k fun i =>
        let r := boundElem t (x i) lo hi
        (if r.1 then lo else if r.2 then hi else x i, nv)
      s'
    | .trap =>
      match act.find? out with
      | some i => s.raise 0x12 1 (BitVec.ofNat 32 i) (BitVec.ofNat 64 (x i))
      | none => s.land (s.acc + 16) [] nv

/-- One INT32 element of VDOT4 before wrapping or clamping (05 R134). -/
def dot4 (ta tb : BitVec 4) (c : Nat) (a b : Vec) (i : Nat) : Int :=
  (List.range 4).foldl (fun acc j => acc + intVal ta (elem 1 (4 * i + j) a) * intVal tb (elem 1 (4 * i + j) b)) (toSigned 32 c)

def execVdot4 (h : Hd) (sat : Bool) (k : MReg) (d a b : VReg) (s : State) : Res :=
  let ok (t : BitVec 4) : Bool := t = 6 || t = 7
  vecOp h [srcA a ok, srcB b ok, { field := 0, reg := d, ok := fun t => t = 4, req := 4 }] false [.m k] s fun s =>
    s.landV (s.acc + 16) d 4 k fun i => intOut 4 sat (dot4 (s.vtag a) (s.vtag b) (elem 4 i (s.vreg d)) (s.vreg a) (s.vreg b) i)

end Sys2Proof.Machine
end

