-- ==== Sys2Proof/WellFormed.lean ====
section
/-! DEFINITION. Which terms of `Instr` stand for an instruction word that the E96 executes (02 R44), and which event rows
name units that the E96 has (00 R1, R3). -/

namespace Sys2Proof

/-- An immediate shift amount has X[47:6] zero (04 R87). -/
def Op2.shiftOk : Op2 → Bool
  | .reg _ => true
  | .imm x => x.toNat < 64

/-- The MMAC modes of 10 R208. -/
def mmacModeOk (f : BitVec 8) : Bool :=
  f = 0x10 || f = 0x20 || (f.toNat < 11 && f.toNat % 4 < 3)

/-- C names a compare operand in .cas only (11 R237). -/
def casOk (op : Fin 9) (c : SReg) : Bool := op = 2 || c = 0

/-- A logical core number of the E96 (00 R3). -/
def coreOk (n : Nat) : Bool := n < 96

def BId.ok (b : BId) : Bool := coreOk b.core && b.berth < 16

/-- The event rows, which no instruction word encodes (95). -/
def Instr.isEvent : Instr → Bool
  | .berthTurn .. | .lineRefetchWrite .. | .asyncTrapDelivery .. | .landing .. | .storeEffect .. | .waitEnd ..
  | .railDenseReached .. | .railNominalReached .. | .gatedTurn .. | .preemptionStop .. | .deferredPreemption ..
  | .mmacCompletion .. | .mmacStop .. | .drainGroupEffect .. | .macroOpCompletion .. | .wakeEffect ..
  | .waitwWakeSeen .. | .waitwDeadline .. | .meshPacketDelivery .. | .remoteReplyLanding .. | .stackBeat ..
  | .nackResend .. | .directedBeatEffect .. | .resyncCopyBeat .. | .stairwellEntryWrite .. | .stairwellCreditReturn ..
  | .tierGateEffect .. | .tierWakeW .. | .hallOutputWrite .. | .courierRequestAccept .. | .translationMiss ..
  | .courierInboundBeat .. | .courierOutboundBeat .. | .sideLogReplay .. | .copyFaultStop .. | .receiptWrite ..
  | .rcptwReceiptSeen .. | .rcptwDeadline .. | .budgetEnd .. | .journeyParked .. | .journeyWindowOpen ..
  | .journeyCarry .. | .scanEdge | .scanOverrun .. | .phaseMark .. | .rollback .. | .patrolScrub .. | .frameReceive ..
  | .gateListExchange .. | .deliveryBeat .. | .egressFrameTransmit .. | .syncLock | .syncLoss | .greqStore ..
  | .gateResult .. | .commonRoomWindowStore .. | .outputViewStore .. | .hallRegisterWrite .. | .counterReadClear ..
  | .plcmdStage .. | .planVerifyDone .. | .plcmdActivate .. | .planLoadDone .. | .plcmdAbort .. | .plcmdStop ..
  | .freqreqWrite .. | .railRampComplete | .undervoltAdjust .. | .thermalSample .. | .firmwareRepairAction ..
  | .testPackageApply .. | .freezeRequest .. | .reset | .aonPowerUp | .boot .. | .fuseBlow .. | .attcmdWrite ..
  | .ppsPulse | .pairFrameReceive .. | .pairNackResend .. | .pairFrameDeadline .. | .hbDue .. | .decisionPoint ..
  | .rsyLineSend .. | .roomWriteEffect .. | .farMemoryAccess .. | .hallSramStore .. | .qbvWindowOpening ..
  | .berthRelease .. | .digestFold .. | .attestationReportDone .. | .testPackageDone | .hostBootImageWrite ..
  | .supplyLoss | .partitionConfigure .. => true
  | _ => false

/-- The operand values that an instruction's description declares illegal, beyond what the field types exclude: the special
values of 02 R44 and R50 check c. An event row is no instruction word. -/
def Instr.wordOk : Instr → Bool
  | .shl _ _ _ o | .shr _ _ _ o | .sar _ _ _ o | .rol _ _ _ o => o.shiftOk
  | .vshuf _ pat _ _ _ b => pat ≠ 4 || b = 0
  | .vplane _ (.unpack n) _ _ => n = 2 || n = 4 || n = 8
  | .vdqnt _ _ _ _ _ _ _ _ n _ => n = 0 || n = 2 || n = 4 || n = 8
  | .fence _ fr dst => fr ≠ 0 && dst ≠ 0
  | .mmac _ mode _ _ _ _ => mmacModeOk mode
  | .ramo _ op _ _ _ _ c _ _ => casOk op c
  | .sbamo _ op _ _ _ _ c _ => casOk op c
  | i => !i.isEvent

/-- The firmware's repair names units that exist. -/
def Repair.unitsOk : Repair → Bool
  | .mapOut c => coreOk c
  | .clearLink t m d => t < 6 && m < 16 && d < 5
  | .gazWrite t m _ _ => t < 6 && m < 16
  | .degrade k => k < 24
  | .pfail _ => true

def Org.ok (o : Org) : Bool := coreOk o.core && o.berth < 16

/-- The place of a drain's group is in a workspace store or a room (10 R213), in the numbering of Machine/Mem.lean. -/
def drainPlaceOk (key : Nat) : Bool := key / 2 ^ 42 % 8 < 6 && (key < 2 ^ 45 || (2 * 2 ^ 45 ≤ key && key < 3 * 2 ^ 45))

/-- The units that an event row names exist: a core below 96 and a berth below 16, a cluster below 24, a tier below 6, a
partition below 8 (00 R3, 18 R341), and the numbers within them that their own rules bound. -/
def Instr.unitsOk : Instr → Bool
  | .berthTurn b | .asyncTrapDelivery b | .waitEnd b | .gatedTurn b | .preemptionStop b _ | .deferredPreemption b
  | .wakeEffect b | .waitwWakeSeen b | .waitwDeadline b | .rcptwReceiptSeen b | .rcptwDeadline b | .scanOverrun b
  | .berthRelease b => b.ok
  | .lineRefetchWrite c _ | .phaseMark c _ | .rollback c | .stairwellCreditReturn c _ | .digestFold c _ _
  | .roomWriteEffect (.stamp _ c _ _) | .roomWriteEffect (.sflag _ c _) | .roomWriteEffect (.bflag _ c _) => coreOk c
  | .stairwellEntryWrite c _ k _ _ => coreOk c && k < 8
  | .landing l => l.org.ok
  | .meshPacketDelivery p => coreOk p.dest && p.org.ok
  | .remoteReplyLanding r => r.org.ok
  | .drainGroupEffect g => drainPlaceOk g.key
  | .railDenseReached c | .railNominalReached c | .mmacCompletion c | .mmacStop c | .undervoltAdjust c _ => c < 24
  | .macroOpCompletion c _ tile => c < 24 && tile < 4
  | .stackBeat b => b.dtier < 8 && b.src < 8 && b.org.all Org.ok
  | .nackResend b => b.dtier < 8 && b.src < 6
  | .directedBeatEffect b | .courierInboundBeat _ _ b => b.dtier < 6 && b.dpos < 16
  | .courierOutboundBeat _ _ b => b.src < 6
  | .hallOutputWrite b => b.part < 8
  | .resyncCopyBeat line => line < 65536
  | .tierGateEffect t | .tierWakeW t => t < 6
  | .courierRequestAccept p o _ => p < 8 && o.ok
  | .budgetEnd p j | .journeyParked p j | .journeyWindowOpen p j | .journeyCarry p j => p < 8 && j < 16
  | .egressFrameTransmit p f => p < 8 && f < 64
  | .sideLogReplay p _ | .deliveryBeat p _ _ | .plcmdStage p _ | .planVerifyDone p | .plcmdActivate p | .planLoadDone p
  | .plcmdAbort p | .plcmdStop p | .attcmdWrite p _ | .pairNackResend p _ | .pairFrameDeadline p _ | .hbDue p _ _ _
  | .decisionPoint p | .rsyLineSend p _ | .attestationReportDone p | .partitionConfigure p _ => p < 8
  | .pairFrameReceive f => f.part < 8
  | .frameReceive f => f.port < 4
  | .gateListExchange n t => t.ok n
  | .qbvWindowOpening p c => p < 4 && c < 8
  | .greqStore c _ | .gateResult c => c < 8
  | .patrolScrub a => match a with
    | .room c => coreOk c
    | .bstore k => k < 24
    | .hall => true
    | .replica t => t < 7
  | .firmwareRepairAction r => r.unitsOk
  | _ => true

/-- A well-formed instruction: its word executes, or, for an event row, the units it names exist. -/
def Instr.wf (i : Instr) : Bool := (i.isEvent || i.wordOk) && i.unitsOk

end Sys2Proof
end

