-- ==== Sys2Proof/Machine/MemOps.lean ====
section
/-! DEFINITION. Loads, stores and atomics of the workspace store, at issue and at the data port (07 R152 to R162), and the debug
events they can raise (R176, R177). -/

namespace Sys2Proof.Machine

namespace State

/-! ## Debug events (07 R176, R177) -/

/-- A debug event of the berth at hand: the freeze request of DBGCTL.FRZ, then a debug trap, or a stop as a pre-emption, SUB 0x03,
which a berth that was handling a trap before the group defers (07 R173). `go` is what the word does then; when RTE or RESYNC in the
lower slot has ended the handling, the stop takes effect there. A stop leaves PC at the group, which has not issued. -/
def debugEvent (s : State) (sub : BitVec 8) (tinfo : BitVec 32) (go : State → State) : State :=
  let ctl := (s.core s.cur.core).dbgctl
  let s := if ctl.getLsbD 4 then s.schedAux s.acc phEnd none (.freeze .debug) else s
  if ctl.getLsbD 1 then s.raise 0x19 sub tinfo
  else if s.cur.intrap then
    let t := go (s.modMe fun x => { x with pdef := true, stops := x.stops ++ [{ q := s.acc, sub := 3 }] })
    if !s.me.intrap && s.me.wsp = s.cur.wsp then t.hold (.handled false true) else t
  else
    { (s.modMe fun x => { x with pc := s.cur.pc, lastPc := s.cur.prevPc, undo := none }).preempt s.cur.core s.cur.berth 3 s.acc with
      cur := { s.cur with trapped := true } }

end State

/-- A data-port instruction with one access: checks of 07 R155, the watch of R177, then its action on the offset. -/
def dataOp (h : Hd) (srcs : List Src) (a : SReg) (x : BitVec 48) (size align : Nat) (k : Access) (alignSub : BitVec 8) (s : State)
    (f : State → Nat → State) : Res :=
  issueOp h (.s a :: srcs) s fun s =>
    let ea := s.ea a x
    match s.accessFault ea size align k alignSub 0 with
    | some t => s.raiseInfo t
    | none =>
      if s.watchHit ea.toNat size (k ≠ .read) then s.debugEvent 2 (ea.setWidth 32) fun s => f s ea.toNat else f s ea.toNat

/-- Size and sign of LD's F (07 R158). -/
def ldSize (sz : Fin 7) : Nat × Bool :=
  match sz.val with
  | 0 => (1, true)
  | 1 => (1, false)
  | 2 => (2, true)
  | 3 => (2, false)
  | 4 => (4, true)
  | 5 => (4, false)
  | _ => (8, false)

/-- The extension of a loaded value. -/
def extLoad (sz : Nat) (sg : Bool) (v : Nat) : Word := extLow sg (8 * sz) (BitVec.ofNat 64 v)

def execLd (h : Hd) (sz : Fin 7) (d a : SReg) (x : BitVec 48) (s : State) : Res :=
  let (n, sg) := ldSize sz
  dataOp h [] a x n n .read 1 s fun s off => s.schedAux (s.acc + 2) phSample (some s.here) (.load s.here off n sg d)

/-- A store party of the data port (07 R156). -/
def State.storeAt (s : State) (at_ off len data mask psn : Nat) : State :=
  s.schedRow at_ phWrite (some s.here)
    (.storeEffect { org := some s.here, key := wsKey s.cur.core off, len := len, data := data, mask := mask, psn := psn, rank := 1 })

/-- Bytes of ST's F (07 R159). -/
def stSize (sz : Fin 4) : Nat := 2 ^ sz.val

def execSt (h : Hd) (sz : Fin 4) (a b : SReg) (x : BitVec 48) (s : State) : Res :=
  let n := stSize sz
  dataOp h [.s b] a x n n .write 1 s fun s off => s.storeAt (s.acc + 2) off n ((s.sreg b).toNat % 2 ^ (8 * n)) (ones n) 0

def execVld (h : Hd) (tag : Fin 9) (k : MReg) (d : VReg) (a : SReg) (x : BitVec 48) (s : State) : Res :=
  dataOp h [.m k] a x 256 32 .read 2 s fun s off =>
    s.schedAux (s.acc + 2) phSample (some s.here) (.vload s.here off tag (s.mreg k) d)

/-- The poison mask of a carrier's data: all of it from a register of tag 15 (07 R160). -/
def State.carryPsn (s : State) (b : VReg) (m : Nat) : Nat := if s.vtag b = 15 then m else 0

def execVst (h : Hd) (k : MReg) (a : SReg) (b : VReg) (x : BitVec 48) (s : State) : Res :=
  dataOp h [.v b, .tag b, .m k] a x 256 32 .write 2 s fun s off =>
    let m := (s.mreg k).toNat
    s.storeAt (s.acc + 2) off 256 (s.vreg b).toNat m (s.carryPsn b m)

/-- The active segments of VLDX and VSTX with their addresses (07 R161). -/
def State.segments (s : State) (k : MReg) (a : SReg) (b : VReg) (x : BitVec 48) : List (Nat × Word) :=
  ((List.range 8).filter fun j => (s.mreg k).getLsbD (32 * j)).map fun j =>
    (j, s.ea a x + (BitVec.ofNat 32 (elem 4 j (s.vreg b))).signExtend 64)

/-- The first failing segment's trap (07 R155). -/
def State.segFault (s : State) (l : List (Nat × Word)) (k : Access) : Option TrapInfo :=
  l.findSome? fun e => s.accessFault e.2 32 32 k 3 e.1

/-- VLDX and VSTX at issue: B has tag 4 and is consumed; every active segment is checked. -/
def segOp (h : Hd) (srcs : List Src) (k : MReg) (a : SReg) (b : VReg) (x : BitVec 48) (acc : Access) (s : State)
    (f : State → List (Nat × Nat) → State) : Res :=
  vecOp h [{ field := 2, reg := b, ok := fun t => t = 4, req := 4 }] true (.s a :: .m k :: srcs) s fun s =>
    let l := s.segments k a b x
    match s.segFault l acc with
    | some t => s.raiseInfo t
    | none =>
      let segs := l.map fun e => (e.1, e.2.toNat)
      match l.find? fun e => s.watchHit e.2.toNat 32 (acc ≠ .read) with
      | some e => s.debugEvent 2 (e.2.setWidth 32) fun s => f s segs
      | none => f s segs

/-- The byte lanes of segments. -/
def segLanes (l : List (Nat × Nat)) : Mask := BitVec.ofNat 256 (l.foldl (fun m e => m ||| ones 32 * 2 ^ (32 * e.1)) 0)

namespace State

/-- Schedules the next segment of a VLDX, or lands what has been read (07 R156, R161). -/
def nextSeg (s : State) (org : Org) (segs : List (Nat × Nat)) (acc : Nat) (psn : Bool) (tag : Fin 9) (lanes : Mask) (d : VReg) : State :=
  match segs with
  | (j, _) :: _ => s.schedAux (org.issue + 2 + j) phSample (some org) (.vsegs org segs acc psn tag lanes d)
  | [] =>
    s.schedRow (org.issue + 16) phLand (some org)
      (.landing { org := org, dests := [.v d (BitVec.ofNat 2048 acc) lanes (if psn then 15 else BitVec.ofNat 4 tag.val)], flags := 0 })

end State

def execVldx (h : Hd) (tag : Fin 9) (k : MReg) (d : VReg) (a : SReg) (b : VReg) (x : BitVec 48) (s : State) : Res :=
  segOp h [] k a b x .read s fun s segs => s.nextSeg s.here segs 0 false tag (segLanes segs) d

def execVstx (h : Hd) (k : MReg) (a : SReg) (b c : VReg) (x : BitVec 48) (s : State) : Res :=
  segOp h [.v c, .tag c] k a b x .write s fun s segs =>
    segs.foldl (fun s e =>
      s.storeAt (s.acc + 2 + e.1) e.2 32 ((s.vreg c).toNat / 2 ^ (256 * e.1) % 2 ^ 256) (ones 32) (s.carryPsn c (ones 32))) s

/-! ## Atomics (07 R162) -/

/-- New value of an atomic of n bits, by the operation's number of 11 R237. -/
def atomNew (op : Fin 9) (n old b c : Nat) : Nat :=
  match op.val with
  | 0 => (old + b) % 2 ^ n
  | 1 => b
  | 2 => if old = c then b else old
  | 3 => if toSigned n b < toSigned n old then b else old
  | 4 => if toSigned n old < toSigned n b then b else old
  | 5 => min old b
  | 6 => max old b
  | 7 => old &&& b
  | _ => old ||| b

/-- An atomic of the workspace store: a commit point (01 R27). -/
def amoOp (h : Hd) (op : Fin 9) (dbl uns : Bool) (d a b : SReg) (c : Option SReg) (x : BitVec 48) (s : State) : Res :=
  let n := if dbl then 8 else 4
  dataOp h (.s b :: (c.map Src.s).toList) a x n n .both 1 s fun s off =>
    let cv : Word := match c with
      | some r => s.sreg r
      | none => 0
    (s.schedAux (s.acc + 2) phSample (some s.here) (.atomic s.here off n op (!dbl && !uns) (s.sreg b) cv d)).commit

def execAmoadd (h : Hd) (dbl : Bool) (d a b : SReg) (x : BitVec 48) (s : State) : Res := amoOp h 0 dbl false d a b none x s
def execAmoswp (h : Hd) (dbl : Bool) (d a b : SReg) (x : BitVec 48) (s : State) : Res := amoOp h 1 dbl false d a b none x s
def execAmocas (h : Hd) (dbl : Bool) (d a b c : SReg) (x : BitVec 48) (s : State) : Res := amoOp h 2 dbl false d a b (some c) x s
def execAmomin (h : Hd) (dbl uns : Bool) (d a b : SReg) (x : BitVec 48) (s : State) : Res :=
  amoOp h (if uns then 5 else 3) dbl uns d a b none x s
def execAmomax (h : Hd) (dbl uns : Bool) (d a b : SReg) (x : BitVec 48) (s : State) : Res :=
  amoOp h (if uns then 6 else 4) dbl uns d a b none x s
def execAmoand (h : Hd) (dbl : Bool) (d a b : SReg) (x : BitVec 48) (s : State) : Res := amoOp h 7 dbl false d a b none x s
def execAmoor (h : Hd) (dbl : Bool) (d a b : SReg) (x : BitVec 48) (s : State) : Res := amoOp h 8 dbl false d a b none x s

/-! ## At the data port -/

namespace State

/-- The bank collision of a berth-issue access: a trap whose trap cycle is the access cycle (06 R146); `later` for a read (13 R269). -/
def collide (s : State) (o : Org) (den : Nat × Nat) (later : Bool := true) : State :=
  s.takeTrap o.core o.berth s.acc
    { cause := 9, sub := 1, tinfo := BitVec.ofNat 32 (den.2 + 256 * den.1), tcoord := BitVec.ofNat 64 (s.ttcOf o.core), tipc := o.pc }
    (later := later)

/-- A read of n bytes at an offset for an instruction: a collision, a parity trap, or the repaired state and the data. A poisoned
unit among those that `psnSpan` names gives `onPsn` (07 R157). -/
def sampleWs (s : State) (o : Org) (off n : Nat) (k : State → Nat → State) : State :=
  match s.cur.denied with
  | some den => s.collide o den
  | none =>
    let key := wsKey o.core off
    match s.checkParity key n with
    | (s, some u) => s.lateFault o (parityTrap u o.pc)
    | (s, none) => k s (s.readAs clsT key n)

/-- LD at its sample cycle. -/
def loadEvent (s : State) (o : Org) (off n : Nat) (sg : Bool) (d : SReg) : State :=
  s.sampleWs o off n fun s v =>
    match s.psnFirst (wsKey o.core off) n with
    | some u => s.lateFault o (poisonTrap u o.pc)
    | none =>
      s.schedRow (o.issue + 16) phLand (some o) (.landing { org := o, dests := [.s d (extLoad n sg v)], flags := 0 })

/-- An atomic at its access cycle: the old value is read now, and the write takes effect in the same cycle (07 R156, R162). -/
def atomicEvent (s : State) (o : Org) (off n : Nat) (op : Fin 9) (sg : Bool) (b c : Word) (d : SReg) : State :=
  s.sampleWs o off n fun s v =>
    match s.psnFirst (wsKey o.core off) n with
    | some u => s.lateFault o (poisonTrap u o.pc)
    | none =>
      let new := atomNew op (8 * n) v (b.toNat % 2 ^ (8 * n)) (c.toNat % 2 ^ (8 * n))
      let s := s.schedRow s.acc phWrite (some o)
        (.storeEffect { org := some o, key := wsKey o.core off, len := n, data := new, mask := ones n, psn := 0, rank := 0 })
      s.schedRow (o.issue + 16) phLand (some o) (.landing { org := o, dests := [.s d (extLoad n sg v)], flags := 0 })

/-- VLD at its sample cycle (07 R157, R160): poison in an active element lands tag 15. -/
def vloadEvent (s : State) (o : Org) (off : Nat) (tag : Fin 9) (mask : Mask) (d : VReg) : State :=
  s.sampleWs o off 256 fun s v =>
    let t := BitVec.ofNat 4 tag.val
    let w := tagWidth t
    let psn := (List.range (256 / w)).any fun i => active mask w i && s.psnUnit (wsKey o.core off + w * i) w
    s.schedRow (o.issue + 16) phLand (some o)
      (.landing { org := o, dests := [.v d (BitVec.ofNat 2048 v) (lanesOf w (256 / w) (active mask w)) (if psn then 15 else t)], flags := 0 })

/-- One segment of VLDX at its sample cycle. -/
def vsegEvent (s : State) (o : Org) (segs : List (Nat × Nat)) (acc : Nat) (psn : Bool) (tag : Fin 9) (lanes : Mask) (d : VReg) : State :=
  match segs with
  | [] => s
  | (j, off) :: segs =>
    s.sampleWs o off 32 fun s v =>
      s.nextSeg o segs (acc + v * 2 ^ (256 * j)) (psn || s.psnUnit (wsKey o.core off) 32) tag lanes d

/-- Trap words of cause 0x09, SUB 0x06, for the lowest place lost (13 R270). -/
def lostInfo (s : State) (key pc : Nat) : TrapInfo :=
  { cause := 9, sub := 6, tinfo := BitVec.ofNat 32 (offOfKey key % 2 ^ 24 + 2 ^ 24),
    tcoord := BitVec.ofNat 64 (s.ttcOf (coreOfKey key) + key / 2 ^ 45 % 8 * 2 ^ 32), tipc := pc }

end State

/-- STORE_EFFECT (07 R156): a data-port write at its effect cycle. rank 0 is an atomic's write, whose access has been served;
1 a berth's store; 3 a mesh write or a drain's write into a workspace store (06 R146). -/
def execStoreEffect (w : Wr) (s : State) : Res :=
  match s.cur.denied with
  | some den =>
    .next (match w.org with
      | none => s
      | some o =>
        if w.rank ≤ 1 then s.collide o den false
        else s.queueFor o 9 3 (BitVec.ofNat 32 (den.2 + 256 * den.1)) (BitVec.ofNat 64 (s.ttcOf (coreOfKey w.key))))
  | none =>
    let s' := s.writeAt w.key w.len w.data (w.mask - s.lostBytes w.key w.len w.mask) w.psn
    .next (match s.lostPlace w.key w.len w.mask, w.org with
      | some k, some o =>
        let t := s.lostInfo k o.pc
        if w.rank ≤ 1 then s'.takeTrap o.core o.berth s.acc t else s'.queueTrap o.core o.berth o.wsp t
      | _, _ => s')

/-- LANDING (00 R9, 01 R24, R25, R28): a result reaches its registers, unless a trap or pre-emption has discarded it. The FST flags of a result to
m0 or s0, which no register takes, are set (05 R104; A54, DESIGN CHOICE). -/
def execLanding (l : Landing) (s : State) : Res :=
  if !(coreOk l.org.core && l.org.berth < 16) then .fault .noSuchUnit
  else if State.discarded (s.berth l.org.core l.org.berth) l.org.issue s.acc then .next s
  else .next ((l.dests.foldl (fun s d => s.landOne l.org d) s).landFlags l.org l.flags)

end Sys2Proof.Machine
end

