-- ==== Sys2Proof/Machine/System.lean ====
section
/-! DEFINITION. Context switch, core registers, trap instructions, HALT, FENCE, DBG, the rail and yield instructions, and the
events of a berth's turn other than an issue (06 R138, R147 to R151, 07 R163 to R177). -/

namespace Sys2Proof.Machine

namespace State

/-- A PC that RTE or XWSP resumes at (07 R167, R171). -/
def pcOk (t : Nat) : Bool := t < 2 ^ 15 && t % 8 ≤ 4

/-- PC and WPC take the resume PC, whose group is a waymark group (07 R167, R171). -/
def resumeAt (s : State) (pc : Nat) : State :=
  (s.modMe fun x => { x with pc := pc, branch := none, forceWm := true }).setWpc s.cur.core s.cur.berth pc (s.acc + 1)

/-- The TEPC word of the workspace at an offset, sampled at issue with its parity check (01 R22). -/
def readTepc (s : State) (wsp : Nat) (k : State → Nat → State) : State :=
  let key := wsKey s.cur.core wsp + 0x20
  match s.checkParity key 8 with
  | (s, some u) => s.raiseInfo (parityTrap u (s.cur.pc + s.cur.slot))
  | (s, none) =>
    let t := s.readAs clsT key 8
    if pcOk t then k s t else s.raise 2 6 (BitVec.ofNat 32 t)

end State

/-! ## XWSP (07 R171) -/

/-- A workspace that a berth leaves stays one (01 R31, A12). -/
def State.leaveSpace (s : State) (c wsp : Nat) : State := s.modCore c fun k => { k with spaces := setIns k.spaces wsp }

/-- XWSP at issue. The write of the old workspace's TEPC takes effect two cycles later. -/
def xwspOp (h : Hd) (d a : SReg) (task : Bool) (s : State) : Res :=
  issueOp h [.s a] s fun s =>
    let new := (s.sreg a).toNat
    if 2 ^ 19 ≤ new then s.raise 7 1 (BitVec.ofNat 32 new)
    else if new % 0x2000 ≠ 0 then s.raise 8 4 (BitVec.ofNat 32 new)
    else s.readTepc new fun s t =>
      let c := s.cur.core
      let o := s.here
      let s := s.schedAux (s.acc + 2) phRec (some o) (.tepc o (wsKey c s.cur.wsp + 0x20) (BitVec.ofNat 64 s.cur.next))
      let s := ((s.leaveSpace c s.cur.wsp).modMe fun x => { x with wsp := new }).hold (.space new)
      let s := if task then (s.modMe fun x => { x with mode := false, intrap := false }).hold (.handled false false) else s
      let o' := { o with wsp := new }
      (s.resumeAt t).schedRow (s.acc + 16) phLand (some o) (.landing { org := o', dests := [.s d (BitVec.ofNat 64 s.cur.wsp)], flags := 0 })

def execXwsp (h : Hd) (d a : SReg) (s : State) : Res := xwspOp h d a false s
def execXwspTask (h : Hd) (d a : SReg) (s : State) : Res := xwspOp h d a true s

/-- The write of TEPC by XWSP, over the register port. -/
def State.tepcEvent (s : State) (o : Org) (key : Nat) (v : Word) : State :=
  s.landWrite { o with issue := s.acc } key 8 v.toNat 255 0

/-! ## Core registers (07 R163 to R165) -/

/-- A register number of 07 R163: per berth, or per core; none when unassigned. -/
def regScope (r : Nat) : Option Bool :=
  if r ≤ 0x0A then some true else if 0x10 ≤ r && r ≤ 0x1E then some false else none

/-- Registers that MTC may write. -/
def regWritable (r : Nat) : Bool := [0x02, 0x03, 0x05, 0x06, 0x07, 0x08, 0x10, 0x14, 0x15, 0x1B, 0x1C].contains r

/-- Registers marked owner or trap, which R50 makes privileged for MTC: every writable one but UWORD. -/
def regPrivileged (r : Nat) : Bool := regWritable r && r ≠ 0x08

/-- Physical site of a core in its cluster (09 R184, R199). -/
def State.siteOf (s : State) (core : Nat) : Nat := if (s.cluster (clusterOf core)).outsite = core % 4 then 4 else core % 4

/-- TSTAT (07 R164). -/
def tstatWord (x : Berth) : Nat :=
  x.intrap.toNat + 2 * x.pmode.toNat + 4 * x.dbl.toNat + 8 * x.aovf.toNat + 16 * x.queue.length + 128 * x.pdef.toNat

/-- SLIPS: bit 0 for the foreground, bit n for island n, a journey's among them (06 R140). -/
def State.slipsWord (s : State) (c : Nat) : Nat :=
  let k := s.core c
  let set (b : Nat × Berth) : Option Nat :=
    if b.2.isl ≠ 0 && b.2.isl < 64 && ((s.island? c b.1).map fun i => i.slipped).getD false then some b.2.isl else none
  ((k.berths.filterMap set).eraseDups).foldl (fun m i => m + 2 ^ i) k.slipped.toNat

/-- A gated turn of the berth falls in this cycle, in which RUN reads 0b101 (06 R147). -/
def State.gatedTurn (s : State) (c b : Nat) : Bool :=
  let x := s.berth c b
  s.gateReq.contains (c, b) && (s.core c).yieldNow.getLsbD b && s.ttcOf c % 16 = b && (x.run = 1 || x.run = 4)

/-- The value that MFC samples (07 R163). -/
def State.regVal (s : State) (c r b : Nat) : Word :=
  let x := s.shown c b
  let k := s.core c
  let (p, l) := k.owner.getD (0, 0)
  match r with
  | 0x00 => BitVec.ofNat 64 x.pc
  | 0x01 => BitVec.ofNat 64 x.wpc
  | 0x02 => BitVec.ofNat 64 x.wsp
  | 0x03 => BitVec.ofNat 64 x.mode.toNat
  | 0x04 => if s.gatedTurn c b then 5 else x.run.setWidth 64
  | 0x05 => BitVec.ofNat 64 (tstatWord x)
  | 0x06 => x.win0
  | 0x07 => x.win1
  | 0x08 => x.uword
  | 0x09 => BitVec.ofNat 64 x.isl
  | 0x0A => BitVec.ofNat 64 x.witc
  | 0x10 => BitVec.ofNat 64 k.tvec
  | 0x11 => k.dtcause
  | 0x12 => k.dtipc
  | 0x13 => k.yieldm.setWidth 64
  | 0x14 => BitVec.ofNat 64 k.trtb
  | 0x15 => BitVec.ofNat 64 (k.owned.toNat + 2 ^ 32 * k.mxen.toNat)
  | 0x16 => BitVec.ofNat 64 (s.ttcOf c % 2 ^ 32)
  | 0x17 => BitVec.ofNat 64 s.acc
  | 0x18 => (s.scnAt c).setWidth 64
  | 0x19 => BitVec.ofNat 64 (s.lenOf c)
  | 0x1A => BitVec.ofNat 64 (s.slipsWord c)
  | 0x1B => k.dbgctl
  | 0x1C => k.dbgaddr
  | 0x1D => k.dbgmark
  | 0x1E => BitVec.ofNat 64 (l + 128 * p + 1024 * (tierOf c * 20 + c / 4 % 4 * 5 + s.siteOf c))
  | _ => 0

/-- A task-mode access of a register other than the berth's own UWORD (07 R165): TINFO holds MAJ and the register. -/
def State.regDenied (s : State) (r b : Nat) : Bool := !s.cur.mode && !(r = 8 && b = s.cur.berth)

def execMfc (h : Hd) (d : SReg) (reg : BitVec 8) (berth : BitVec 4) (s : State) : Res :=
  issueOp h [] s fun s =>
    if s.regDenied reg.toNat berth.toNat then s.raise 0x16 2 ((reg ++ 0x8E#8).setWidth 32)
    else s.landS (s.acc + 16) d (s.regVal s.cur.core reg.toNat berth.toNat)

def execMtc (h : Hd) (a : SReg) (reg : BitVec 8) (berth : BitVec 4) (s : State) : Res :=
  issueOp h [.s a] s fun s =>
    if s.regDenied reg.toNat berth.toNat then s.raise 0x16 2 ((reg ++ 0x8F#8).setWidth 32)
    else s.schedAux (s.acc + 16) phSample (some s.here) (.regWrite s.cur.core reg.toNat berth.toNat (s.sreg a))

/-- Fields of a window register (07 R154). A value of END above 0x8_0000 is kept as written, so that a task-mode access may run past the end of
the store, to bytes that nothing else uses (A58, DESIGN CHOICE). -/
def winMask : Word := 0xC00FFFE00007FFE0

/-- OWNED keeps the bits of valid rows that name the core (09 R190). -/
def State.ownedOk (s : State) (c : Nat) (v : BitVec 32) : BitVec 32 :=
  let rows := (s.cluster (clusterOf c)).owners
  BitVec.ofNat 32 ((List.range 32).foldl (fun m n =>
    match rows[n]? with
    | some r => if v.getLsbD n && r.valid && r.owner = c % 4 then m + 2 ^ n else m
    | none => m) 0)

/-- A field of a berth that MTC writes: what a fault still to be decided would take back has the value too (07 R157, R165). -/
def Berth.setBack (x : Berth) (f : Undo → Undo) : Berth := { x with undo := x.undo.map f }

/-- MTC's write at its effect cycle: RW fields, and W1C fields by ones (07 R165). A DEGRADED cluster's MXEN stays 0 (09 R200). An MTC of the
issuing berth's own MODE takes effect, as the table's RW has it (A58, DEDUCED). -/
def State.writeReg (s : State) (c r b : Nat) (v : Word) : State :=
  let n := v.toNat
  match r with
  | 0x02 =>
    let w := n % 2 ^ 19 / 0x2000 * 0x2000
    ((s.leaveSpace c (s.berth c b).wsp).modBerth c b fun x =>
      { x with wsp := w }.setBack fun u => { u with wsp := w }).enterWs c w
  | 0x03 => s.modBerth c b fun x => { x with mode := v.getLsbD 0 }.setBack fun u => { u with mode := v.getLsbD 0 }
  | 0x05 => s.modBerth c b fun x =>
      { x with intrap := v.getLsbD 0, pmode := v.getLsbD 1, dbl := x.dbl && !v.getLsbD 2, aovf := x.aovf && !v.getLsbD 3 }.setBack
        fun u => { u with intrap := v.getLsbD 0, pmode := v.getLsbD 1 }
  | 0x06 => s.modBerth c b fun x => { x with win0 := v &&& winMask }
  | 0x07 => s.modBerth c b fun x => { x with win1 := v &&& winMask }
  | 0x08 => s.modBerth c b fun x => { x with uword := v }
  | 0x10 => s.modCore c fun k => { k with tvec := n % 2 ^ 15 }
  | 0x14 => s.modCore c fun k => { k with trtb := n % 2 ^ 24 / 2 ^ 14 * 2 ^ 14 }
  | 0x15 => s.modCore c fun k =>
      { k with owned := s.ownedOk c (v.setWidth 32), mxen := v.getLsbD 32 && (s.cluster (clusterOf c)).health ≠ 2 }
  | 0x1B => s.modCore c fun k => { k with dbgctl := v &&& 0x1F }
  | 0x1C => s.modCore c fun k => { k with dbgaddr := v &&& 0x7FFFF }
  | _ => s

/-! ## TRAP, SVC, RTE, HALT (07 R167, R170, R174) -/

/-- TRAP and SVC: WPC takes the next group's PC, then the trap is taken (07 R170). -/
def callTrap (h : Hd) (cause : BitVec 8) (x : BitVec 32) (s : State) : Res :=
  issueOp h [] s fun s =>
    s.commit.hold (.trap { cause := cause, sub := 0, tinfo := x, tipc := s.cur.pc + s.cur.slot })

def execTrap (h : Hd) (x : BitVec 32) (s : State) : Res := callTrap h 0x17 x s
def execSvc (h : Hd) (x : BitVec 32) (s : State) : Res := callTrap h 0x18 x s

/-- RTE (07 R167); a slip's handling ends with ITC set back (06 R141), and a deferred pre-emption takes effect (R173). -/
def execRte (h : Hd) (s : State) : Res :=
  issueOp h [] s fun s => s.readTepc s.cur.wsp fun s t =>
    ((s.modMe fun x => { x with mode := x.pmode, intrap := false }).resumeAt t).hold (.handled true true)

/-- HALT (07 R174, 18 R330). -/
def execHalt (h : Hd) (s : State) : Res :=
  issueOp h [] s fun s =>
    (s.modMe fun x => { x with run := 2 }).hold .halt

/-! ## FENCE (07 R175) -/

/-- Writes of the FROM classes to the issuing core's store or room, made before issue, are returned to reads of the TO classes
from issue + 32 on. -/
def State.fenceDrain (s : State) (core issue : Nat) (fr dst : BitVec 7) : State :=
  let d := ((List.range 7).filter fun c => dst.getLsbD c).map fun c => (c, issue + 32)
  let f (u : Undrained) : Undrained :=
    if fr.getLsbD u.cls && u.eff < issue && (spaceOf u.key = .ws || spaceOf u.key = .room) && coreOfKey u.key = core then
      { u with drains := d ++ u.drains }
    else u
  { s with undrained := s.undrained.map f }

def execFence (h : Hd) (from_ to_ : BitVec 7) (s : State) : Res :=
  issueOp h [] s fun s =>
    (s.schedAux (s.acc + 31) phEnd (some s.here) (.fence s.here from_ to_)).waitFor (.cycle (s.acc + 32))

/-! ## DBG (07 R176, R177) -/

/-- DBG.brk: nothing while DBGCTL.EN is 0. In the lower slot of a pair it waits for the other word. -/
def execDbgBrk (h : Hd) (x : BitVec 32) (s : State) : Res :=
  issueOp h [] s fun s =>
    if !(s.core s.cur.core).dbgctl.getLsbD 0 then s
    else if s.words.isEmpty || s.cur.late.isSome then s.hold (.brk x)
    else s.schedAux s.acc phTurn (some s.here) (.settle s.here (.brk x))

def execDbgMark (h : Hd) (x : BitVec 32) (s : State) : Res :=
  issueOp h [] s fun s => s.hold (.mark x)

/-! ## Rail (06 R149, R150) -/

def execRailUp (h : Hd) (s : State) : Res :=
  issueOp h [] s fun s => s.hold (.rail true)

def execRailDn (h : Hd) (s : State) : Res :=
  issueOp h [] s fun s => s.hold (.rail false)

/-- The rail becomes dense at the end of the ramp that is still under way. -/
def execRailDenseReached (cl : Nat) (s : State) : Res :=
  if 24 ≤ cl then .fault .noSuchUnit
  else
    let k := s.cluster cl
    .next (if k.rail = (2, s.acc) then s.setCluster cl { k with rail := (1, s.acc) } else s)

def execRailNominalReached (cl : Nat) (s : State) : Res :=
  if 24 ≤ cl then .fault .noSuchUnit
  else
    let k := s.cluster cl
    .next (if k.rail = (3, s.acc) then s.setCluster cl { k with rail := (0, s.acc) } else s)

/-! ## YIELDM, PWRST, gated turns (06 R147, R148, R151) -/

/-- YIELDM assigns the register at issue (00 R8); the new mask takes effect for turns from issue + 16 on. -/
def execYieldm (h : Hd) (d a : SReg) (s : State) : Res :=
  issueOp h [.s a] s fun s =>
    let old := (s.core s.cur.core).yieldm
    let m := (List.range 16).foldl (fun m b => if (s.sreg a).getLsbD b && (s.berth s.cur.core b).isl ≠ 0 then m + 2 ^ b else m) 0
    let s := s.hold (.yieldm (BitVec.ofNat 16 m))
    let s := s.schedAux (s.acc + 15) phEnd (some s.here) (.yieldWrite s.cur.core (BitVec.ofNat 16 m))
    s.landS (s.acc + 16) d (old.setWidth 64)

/-- The power state word (06 R151). -/
def State.powerWord (s : State) (c b : Nat) : Word :=
  let k := s.cluster (clusterOf c)
  BitVec.ofNat 64 (s.freq.cur + 8 * s.freq.queue.isSome.toNat + 16 * k.rail.1 + 64 * (s.core c).rq.toNat
    + 128 * (s.rqAny (clusterOf c)).toNat + 2 ^ 16 * (s.core c).yieldm.toNat + 2 ^ 32 * (s.berth c b).gated
    + 2 ^ 48 * k.therm.alarm.toNat + 2 ^ 49 * s.freq.fhold.toNat)

def execPwrst (h : Hd) (d : SReg) (s : State) : Res :=
  issueOp h [] s fun s => s.landS (s.acc + 16) d (s.powerWord s.cur.core s.cur.berth)

/-- GATED_TURN: the power controller asks to gate the berth's turn of this cycle (06 R147). Whether the berth is yieldable is decided at the
turn (`isGated`), since the cycle may be an edge that changes YIELDM. -/
def execGatedTurn (b : BId) (s : State) : Res :=
  if !b.ok then .fault .noSuchUnit
  else
    .next { s with gateReq := (b.core, b.berth) :: s.gateReq }

/-! ## Stops and slips of a turn -/

/-- SCAN_OVERRUN (06 R138, R143): the slip of TTC = L at the berth's first turn at or after it. -/
def execScanOverrun (b : BId) (s : State) : Res :=
  if !b.ok then .fault .noSuchUnit
  else
    let l := s.lenOf b.core
    let t := s.ttcOf b.core
    let s := s.modBerth b.core b.berth fun x => { x with overDue := false }
    .next (s.takeTrap b.core b.berth s.acc
      { cause := 0xB, sub := 4, tinfo := BitVec.ofNat 32 (t - l), tcoord := State.slipCoord t l, tipc := (s.berth b.core b.berth).lastPc })

/-- A due request of the berth (07 R172). -/
def State.dueStop (s : State) (x : Berth) : Option StopReq := x.stops.find? fun r => r.q ≤ s.acc

/-- PREEMPTION_STOP (07 R172, R173, 18 R335): a berth already stopped or halted is not stopped again; one that handles a trap
takes PDEF; any other stops at this cycle. -/
def execPreemptionStop (b : BId) (sub : Nat) (s : State) : Res :=
  if !b.ok then .fault .noSuchUnit
  else
    let x := s.berth b.core b.berth
    let take (s : State) : State := s.modBerth b.core b.berth fun x => { x with stops := x.stops.filter fun r => s.acc < r.q }
    .next (if x.run = 0 || x.run = 2 then take s
      else if x.intrap || x.pdef then s.setBerth b.core b.berth { x with pdef := true }
      else (take s).preempt b.core b.berth (BitVec.ofNat 8 sub) s.acc)

/-- DEFERRED_PREEMPTION (07 R173): at the waymark group reached, WPC takes its PC and the stop is as R172 gives. -/
def execDeferredPreemption (b : BId) (s : State) : Res :=
  if !b.ok then .fault .noSuchUnit
  else
    let x := s.berth b.core b.berth
    .next (if x.pdef then (s.setWpc b.core b.berth x.pc s.acc).endDeferred b.core b.berth s.acc else s)

/-- ASYNC_TRAP_DELIVERY (01 R29, 07 R169): WPC takes the waymark group's PC and the oldest entry of the current workspace is
taken. -/
def execAsyncTrapDelivery (b : BId) (s : State) : Res :=
  if !b.ok then .fault .noSuchUnit
  else
    let x := s.berth b.core b.berth
    match x.queue.find? fun e => e.wsp = x.wsp with
    | none => .next s
    | some e =>
      if x.intrap then .next s
      else
        let s := s.setBerth b.core b.berth { x with queue := x.queue.erase e }
        .next ((s.setWpc b.core b.berth x.pc s.acc).takeTrap b.core b.berth s.acc e.info true)

/-- WAIT_END (04 R98 to R100, 07 R175): the wait is over and the berth runs; it issues in this turn. -/
def execWaitEnd (b : BId) (s : State) : Res :=
  if !b.ok then .fault .noSuchUnit
  else
    let x := s.berth b.core b.berth
    .next (if x.run = 4 then s.setBerth b.core b.berth { x with run := 1, wait := .none } else s)

/-- A stopped berth restarts at the TEPC of its workspace, with the MODE and INTRAP that TINFO records (07 R172). A TEPC that names no
slot is left to the fetch (02 R51, SUB 0x08). A unit read whose parity fails is a register-parity trap of the berth, taken in this cycle
in the mode it was stopped in (01 R20, R22, A18). -/
def State.restart (s : State) (c b : Nat) : State :=
  let x := s.berth c b
  let k := wsKey c x.wsp + 0x20
  let (s, bad) := s.checkParity k 16
  let pc := s.readAs clsT k 8 % 2 ^ 15
  let info := s.readAs clsT (k + 12) 4
  let s := s.setBerth c b { x with run := 1, wait := .none, branch := none, forceWm := true, pstop := false }
  match bad with
  | some u => s.takeTrap c b s.acc (parityTrap u x.lastPc)
  | none =>
    (s.modBerth c b fun x => { x with pc := pc, mode := info % 2 = 1, intrap := info / 2 % 2 = 1 }).setWpc c b pc s.acc

/-- BERTH_RELEASE: a berth that PREQ stopped restarts; one whose stop is still to come is not stopped (18 R335, R339). -/
def execBerthRelease (b : BId) (s : State) : Res :=
  if !b.ok then .fault .noSuchUnit
  else
    let x := s.berth b.core b.berth
    .next (if !x.pstop then s
      else
        let stops := x.stops.filter fun r => r.sub ≠ 2
        let s := s.modBerth b.core b.berth fun x => { x with pstop := false, stops := stops, pdef := x.pdef && !stops.isEmpty }
        if x.run = 0 then s.restart b.core b.berth else s)

/-! ## LINE_REFETCH_WRITE (02 R38) -/

/-- The code image in the room holds each core's lines; the refetched line is as plan load wrote it (A10). -/
def State.codeImage (s : State) (core line : Nat) : BitVec 512 :=
  match s.planOf core, (s.core core).owner with
  | some p, some (q, l) =>
    let var := if (s.part q).plvar = 0 then none else p.variants[(s.part q).plvar - 1]?
    let fromVar := var.bind fun v => v.lines.find? fun e => e.1 = l * 4096 + line
    match fromVar with
    | some e => e.2
    | none => match p.lines.find? fun e => e.1 = l * 4096 + line with
      | some e => e.2
      | none => BitVec.allOnes 512
  | _, _ => BitVec.allOnes 512

/-- A line whose copy in the room is uncorrectable: it stays out of use (02 R38), and the read is counted and logged (20 R355, R357). The
place of the copy and its syndrome are not stated (A15). -/
def State.noImage (s : State) (core line : Nat) : State :=
  let (addr, s) := s.freeWord
  let (syn, s) := s.freeWord
  let s := (s.modCore core fun k => { k with deadLines := setIns k.deadLines line }).modPosStat core fun p => { p with runc := satInc 8 p.runc }
  s.logEv 0 5 (tierOf core) (meshIdx core) 0 0 (addr.toNat % 2 ^ 48) (syn.toNat % 256)

def execLineRefetchWrite (core line : Nat) (s : State) : Res :=
  if !coreOk core then .fault .noSuchUnit
  else
    let k := s.core core
    let s := s.setCore core { k with refetch := setDel k.refetch line }
    .next (if k.badLines.contains line then s.noImage core line
      else s.writeAt (codeKey core (line * 64)) 64 (s.codeImage core line).toNat (ones 64) 0)

end Sys2Proof.Machine
end

