-- ==== Sys2Proof/Machine/Room.lean ====
section
/-! DEFINITION. Partitions and logical numbers (18 R341), place addresses (13 R265 to R267), room writes with the scan undo log
(20 R363) and SECDED, tensor records and stamps (10 R201 to R203, 16 R289), and packets in flight (11 R226). -/

namespace Sys2Proof.Machine

/-! ## Partitions -/

/-- The clusters of a partition: bit 4t + c. -/
def State.clmask (s : State) (p : Nat) : BitVec 24 := if (s.part p).row.valid then (s.part p).row.clmask else 0

/-- E96 tiers of the partition, in rising order: logical tier n is the n-th (18 R341). -/
def State.partTiers (s : State) (p : Nat) : List Nat :=
  (List.range 6).filter fun t => (s.clmask p).toNat / 2 ^ (4 * t) % 16 ≠ 0

def State.physTier (s : State) (p n : Nat) : Option Nat := (s.partTiers p)[n]?

/-- Logical tier of an E96 tier; 7 when the partition has none there. -/
def State.logTier (s : State) (p t : Nat) : Nat := ((s.partTiers p).findIdx? (· = t)).getD 7

/-- A core (E96 number) belongs to the partition. -/
def State.inPart (s : State) (p core : Nat) : Bool := (s.clmask p).getLsbD (core / 4)

/-- The partition of the core at hand. -/
def State.myPart (s : State) : Nat := s.partOf s.cur.core

/-- Logical core of the partition as an E96 core (00 R3, 18 R341). -/
def State.physCore (s : State) (p l : Nat) : Option Nat :=
  match s.physTier p (l / 16) with
  | some t => if s.inPart p (t * 16 + l % 16) then some (t * 16 + l % 16) else none
  | none => none

/-! ## Place addresses (13 R265 to R267) -/

/-- The key of a 48-bit place address of a partition; none when it names no place. -/
def State.placeKey (s : State) (p a : Nat) : Option Nat :=
  let sp := a / 2 ^ 45 % 8
  let lt := a / 2 ^ 42 % 8
  let cl := a / 2 ^ 40 % 4
  let po := a / 2 ^ 38 % 4
  let off := a % 2 ^ 36
  if a / 2 ^ 36 % 4 ≠ 0 then none
  else if sp = 5 then (if lt = 6 && cl = 0 && po = 0 && off < 2 ^ 25 then some (hallKey off) else none)
  else if sp = 4 && lt = 6 then (if cl = 0 && po = 0 && off < 2 ^ 22 then some (commonKey 6 off) else none)
  else match s.physTier p lt with
    | none => none
    | some t =>
      if sp = 4 then (if cl = 0 && po = 0 && off < 2 ^ 22 then some (commonKey t off) else none)
      else if !s.inPart p (t * 16 + cl * 4) then none
      else if sp = 0 then (if off < 2 ^ 19 then some (wsKey (t * 16 + cl * 4 + po) off) else none)
      else if sp = 1 then (if off < 2 ^ 18 then some (codeKey (t * 16 + cl * 4 + po) off) else none)
      else if sp = 2 then (if off < 2 ^ 24 then some (roomKey (t * 16 + cl * 4 + po) off) else none)
      else if sp = 3 then (if po = 0 && off < 2 ^ 23 then some (bsKey (t * 4 + cl) off) else none)
      else none

/-! ## Room writes (20 R357, R363) -/

namespace State

/-- The SECDED states of a line that are not good. -/
def lineEcc (s : State) (key : Nat) : List (Nat × Ecc) := s.ecc.filter fun e => key ≤ e.1 && e.1 < key + 64

/-- Notes a write to one line of a core's room in its undo log (20 R363). -/
def noteLine (s : State) (task : Option Task) (core line : Nat) : State :=
  let key := roomKey core (line * 64)
  let log := s.undoLogs.get [] core
  let log := log.map fun e => if e.line = line && task ≠ some e.task then { e with shared := true } else e
  match task with
  | none => { s with undoLogs := s.undoLogs.put core log }
  | some t =>
    if (log.any fun e => e.line = line && e.task = t) then { s with undoLogs := s.undoLogs.put core log }
    else if 4096 ≤ log.length then
      { s with undoLogs := s.undoLogs.put core log, undoOvf := if s.undoOvf.contains t then s.undoOvf else t :: s.undoOvf }
    else
      let e : UndoLine := { line := line, task := t, old := s.readRaw key 64, oldEcc := s.lineEcc key, shared := false }
      let s := { s with undoLogs := s.undoLogs.put core (log ++ [e]) }
      -- a write of an ended task that comes after TTC = L is rolled back too (20 R364)
      if s.ended.contains t && s.lenOf core ≤ s.ttcOf core && !s.agenda.any (fun v => v.act = .row (.rollback core)) then
        s.schedRow (s.acc + 1) phRec none (.rollback core)
      else s

/-- The lines that the masked bytes of a write touch. -/
def linesOf (off n mask : Nat) : List Nat :=
  ((List.range ((off + n + 63) / 64 - off / 64)).map (· + off / 64)).filter fun l => maskAt mask off (l * 64) 64 ≠ 0

def noteRoom (s : State) (task : Option Task) (key n mask : Nat) : State :=
  (linesOf (offOfKey key) n mask).foldl (fun s l => s.noteLine task (coreOfKey key) l) s

/-- A timed write into a room, attributed to a task or to none. -/
def writeRoom (s : State) (task : Option Task) (key n v mask psn : Nat) : State :=
  (s.noteRoom task key n mask).writeAt key n v mask psn

/-- The task of the berth that issued an instruction (20 R363). -/
def taskOfOrg (s : State) (o : Option Org) : Option Task := o.map fun o => s.taskOf o.core o.berth

/-- A write into any place by a timed path: the undo log holds for rooms only. -/
def writePlace (s : State) (task : Option Task) (key n v mask psn : Nat) : State :=
  if spaceOf key = .room then s.writeRoom task key n v mask psn else s.writeAt key n v mask psn

/-- Trap words of a bank collision (06 R146, 11 R232): bank and rank served, with TINFO [12] set for a room. A directed stack beat's has
TCOORD 0 (12 R264). -/
def bankInfo (s : State) (key : Nat) (den : Nat × Nat) (sub : BitVec 8) (pc : Nat) : TrapInfo :=
  { cause := 9, sub := sub, tinfo := BitVec.ofNat 32 (den.2 + 256 * den.1 + 4096 * (decide (spaceOf key = .room)).toNat),
    tcoord := if sub = 5 then 0 else BitVec.ofNat 64 (s.ttcOf (coreOfKey key)), tipc := pc }

/-- Queues a trap for an instruction when the effect has one. -/
def queueOrg (s : State) (o : Option Org) (t : TrapInfo) : State :=
  match o with
  | some o => s.queueTrap o.core o.berth o.wsp t
  | none => s

/-- A port write from outside the core at its effect cycle: not made when its bank serves another (`sub`), less the bytes that a
register or record port took in this cycle (13 R270); the sender learns of both by a queued trap. -/
def arrive (s : State) (o : Option Org) (task : Option Task) (key n v mask psn : Nat) (sub : BitVec 8) : State :=
  let pc := (o.map fun o => o.pc).getD 0
  match s.cur.denied with
  | some den => s.queueOrg o (s.bankInfo key den sub pc)
  | none =>
    let s' := s.writePlace task key n v (mask - s.lostBytes key n mask) psn
    match s.lostPlace key n mask with
    | some k => s'.queueOrg o (s.lostInfo k pc)
    | none => s'

end State

/-! ## Tensor records (10 R201, R202) -/

structure Rec where
  place : Nat
  fmt : Nat
  planes : Nat
  centre : Bool
  pcs : Bool
  pcb : Bool
  clamp : Nat
  rm : Nat
  rows : Nat
  cols : Nat
  stride : Nat
  scale : BitVec 32
  bias : BitVec 32
  lo : BitVec 32
  hi : BitVec 32
  min : BitVec 32
  max : BitVec 32
  stamp : BitVec 32
  limit : BitVec 32
  spol : Nat
  bpol : Nat
  fbh : Nat
  origin : Nat
  /-- Reserved fields are zero and no field has a reserved value. -/
  ok : Bool
  deriving DecidableEq, Repr

/-- The record in 64 bytes. -/
def Rec.ofBits (v : BitVec 512) : Rec :=
  let f (lo n : Nat) : Nat := (v.extractLsb' lo n).toNat
  { place := f 0 48, fmt := f 48 4, planes := f 52 4, centre := v.getLsbD 56, pcs := v.getLsbD 57, pcb := v.getLsbD 58,
    clamp := f 59 2, rm := f 61 3, rows := f 64 16, cols := f 80 16, stride := f 96 24,
    scale := v.extractLsb' 128 32, bias := v.extractLsb' 160 32, lo := v.extractLsb' 192 32, hi := v.extractLsb' 224 32,
    min := v.extractLsb' 256 32, max := v.extractLsb' 288 32, stamp := v.extractLsb' 320 32, limit := v.extractLsb' 352 32,
    spol := f 384 2, bpol := f 386 2, fbh := f 392 8, origin := f 448 24,
    ok := f 59 2 ≠ 3 && f 61 3 < 4 && f 120 8 = 0 && f 384 2 ≠ 3 && f 390 2 = 0 && f 400 48 = 0 && f 472 40 = 0
      && (if f 48 4 = 8 then f 52 4 = 2 || f 52 4 = 4 || f 52 4 = 8 else f 52 4 = 0) }

/-- The VOID stamp (16 R289). -/
def voidStamp : BitVec 32 := 0xFFFFFFFF

/-- A stamp is stale at a scan under a limit (10 R203, 16 R289). -/
def staleAt (stamp limit n : BitVec 32) : Bool :=
  stamp = voidStamp || (limit ≠ 0xFFFFFFFF && (limit.toNat : Int) < (n - stamp).toInt)

/-- The next SCN skips VOID (16 R289). -/
def scnNext (n : BitVec 32) : BitVec 32 := if n + 1 = voidStamp then 0 else n + 1

/-- The older of two stamps: VOID is older than every stamp (10 R204). -/
def olderStamp (x y : BitVec 32) : BitVec 32 :=
  if x = voidStamp || y = voidStamp then voidStamp else if (x - y).toInt < 0 then x else y

namespace State

def recOff (s : State) (core h : Nat) : Nat := (s.core core).trtb + 64 * h

/-- Record h as an instruction of class `cls` samples it. -/
def sampleRec (s : State) (cls core h : Nat) : Rec :=
  Rec.ofBits (BitVec.ofNat 512 (s.readAs cls (roomKey core (s.recOff core h)) 64))

/-! ## Record-port writes (11 R231) -/

/-- A record-port write of n bytes. -/
def recordPort (s : State) (task : Option Task) (key n v : Nat) : State :=
  (s.writeRoom task key n v (ones n) 0).notePort key (ones n)

/-- The record's stamp is void for the writes of this instruction: its task has ended with the record voided (20 R362), or its
foreground phase has ended as slipped (06 R140). -/
def stampVoided (s : State) (o : Org) (key : Nat) : Bool :=
  let t := s.taskOf o.core o.berth
  (s.ended.contains t && s.recNotes.contains (t, key)) ||
    ((s.berth o.core o.berth).isl = 0 && (s.berth o.core o.berth).journey.isNone
      && (s.core o.core).slipPhases.any fun e => e.1 ≤ o.issue && o.issue < e.2)

/-- Notes a record whose stamp a task writes in this scan (20 R362). -/
def noteRecord (s : State) (o : Org) (key : Nat) : State :=
  let t := s.taskOf o.core o.berth
  if s.recNotes.contains (t, key) then s else { s with recNotes := (t, key) :: s.recNotes }

/-- Notes a record that the foreground writes back in this phase (06 R140). -/
def notePhase (s : State) (o : Org) (key : Nat) : State :=
  let x := s.berth o.core o.berth
  if x.isl ≠ 0 || x.journey.isSome then s
  else s.modCore o.core fun k => { k with noted := if k.noted.contains key then k.noted else key :: k.noted }

/-- The stamp write of a record (10 R213, 16 R306). -/
def writeStamp (s : State) (o : Option Org) (attr : Bool) (core off : Nat) (v : BitVec 32) : State :=
  let key := roomKey core off
  match o with
  | none => s.recordPort none (key + 0x28) 4 v.toNat
  | some o =>
    let v := if s.stampVoided o key then voidStamp else v
    (s.noteRecord o key).recordPort (if attr then s.taskOfOrg (some o) else none) (key + 0x28) 4 v.toNat

/-- Sets a bit of a record's flag byte at 0x30: SFLAG is bit 4, BFLAG bit 5. -/
def setFlagBit (s : State) (task : Option Task) (core off bit : Nat) : State :=
  let key := roomKey core off + 0x30
  s.recordPort task key 1 (s.readRaw key 1 ||| 2 ^ bit)

end State

/-! ## Packets in flight (11 R219, R225, R226) -/

/-- A link by its E96 tier, mesh index and direction. -/
def linkId (tier m dir : Nat) : Nat := (tier * 16 + m) * 8 + dir

/-- The mesh index one hop away (11 R219); none outside the mesh. -/
def meshStep (m dir : Nat) : Option Nat :=
  match dir with
  | 1 => if 4 ≤ m then some (m - 4) else none
  | 2 => if m % 4 < 3 then some (m + 1) else none
  | 3 => if m < 12 then some (m + 4) else none
  | 4 => if 0 < m % 4 then some (m - 1) else none
  | _ => none

def oppDir (d : Nat) : Nat := if d = 1 then 3 else if d = 2 then 4 else if d = 3 then 1 else 2

/-- The mesh indices that a hop list visits, the start first. -/
def meshWalk (m : Nat) : List Nat → List Nat
  | [] => [m]
  | d :: ds => m :: meshWalk ((meshStep m d).getD m) ds

/-- Links of a forward packet with their first cycles (11 R225). -/
def fwdLinks (tier start : Nat) (hops : List Nat) (up : Bool) (e : Nat) : List (Nat × Nat) :=
  let pos := meshWalk start hops
  let h := hops.length
  ((List.range h).map fun k => (linkId tier (pos.getD k 0) (hops.getD k 0), e + 2 * (k + 1) + 2))
    ++ (if up then [(linkId tier (pos.getD h start) 5, e + 2 * h + 4)] else [])

/-- Links of a reply (11 R224, R225). -/
def backLinks (tier start : Nat) (hops : List Nat) (up : Bool) (e : Nat) : List (Nat × Nat) :=
  let pos := meshWalk start hops
  let h := hops.length
  (if up then [(linkId tier (pos.getD h start) 6, e + 2 * h + 12)] else [])
    ++ (List.range h).map fun k => (linkId tier (pos.getD (h - k) 0) (oppDir (hops.getD (h - 1 - k) 0)), e + 2 * h + 12 + 2 * (k + 1))

namespace State

/-- Puts a packet's effect on the agenda and its crossings on the links. -/
def injectAct (s : State) (at_ ph : Nat) (o : Org) (a : Act) (links : List (Nat × Nat)) (beats : Nat) : State :=
  let id := s.nextId
  let s := s.sched at_ ph (some o) a
  if links.isEmpty then s else { s with flights := s.flights ++ [{ ev := id, org := o, links := links, beats := beats }] }

def inject (s : State) (at_ ph : Nat) (o : Org) (i : Instr) (links : List (Nat × Nat)) (beats : Nat) : State :=
  s.injectAct at_ ph o (.row i) links beats

/-- Room-local place of a journey's save area on a core, by its active row (18 R326, R346). -/
def savePlace (s : State) (p j core : Nat) : Nat :=
  let t := s.part p
  let rows := if t.plvar = 0 then (t.plan.map fun q => q.journeys).getD [] else ((t.plan.bind fun q => q.variants[t.plvar - 1]?).map fun v => v.journeys).getD []
  roomKey core (((rows[j]?).map fun r => r.saveoff).getD 0)

/-- A journey's carry, save or restore has failed: it is logged once, and the journey starts fresh in the next scan (18 R328, 10 R419,
20 R375). The place logged is the save area's. -/
def failJourney (s : State) (p j core : Nat) : State :=
  let x := (s.part p).journeys.get {} j
  if x.failed then s
  else (s.modPart p fun t => { t with journeys := t.journeys.put j { x with failed := true } }).logEv 3 0x36 (tierOf core) (meshIdx core) 0 0
    (s.savePlace p j core % 2 ^ 48) j

/-- The sender of a carry beat, in the place of a berth's number (18 R328). -/
def carryOrg (core p j : Nat) (at_ : Nat) : Org := { core := core, berth := 16 + 16 * p + j, issue := at_, slot := 0, pc := 0, wsp := 0 }

/-- The links on which a flight has a beat in this cycle. -/
def crossing (s : State) (f : Flight) : List Nat :=
  (f.links.filter fun l => l.2 ≤ s.acc && s.acc < l.2 + f.beats).map fun l => l.1

/-- Drops the packets that meet on a link in this cycle, and queues one trap for each sending berth (11 R226). -/
def linkCollisions (s : State) : State :=
  if s.flights.isEmpty then s
  else
    let at_ := s.flights.map fun f => (f, s.crossing f)
    let clash (f : Flight) (l : Nat) : Bool := at_.any fun g => g.1.ev ≠ f.ev && g.2.contains l
    let hit := at_.filterMap fun e => (e.2.find? fun l => clash e.1 l).map fun l => (e.1, l)
    let evs := hit.map fun e => e.1.ev
    -- a flight is kept until its effect, at most 16 cycles after its last link
    let keep := s.flights.filter fun f => !evs.contains f.ev && f.links.any fun l => s.acc < l.2 + f.beats + 16
    let s := { s with flights := keep, agenda := s.agenda.filter fun e => !evs.contains e.id }
    (hit.foldl (fun (r : State × List (Nat × Nat)) e =>
      let b := (e.1.org.core, e.1.org.berth)
      if r.2.contains b then r
      else if 256 ≤ b.2 then
        (r.1.modPart (b.2 - 256) fun t => { t with pair := { t.pair with route := satInc 8 t.pair.route } }, b :: r.2)
      else if 16 ≤ b.2 then (r.1.failJourney ((b.2 - 16) / 16) ((b.2 - 16) % 16) b.1, b :: r.2)
      else
        (r.1.queueFor e.1.org 0xD 1 (BitVec.ofNat 32 (e.2 / 8 % 16 + 16 * (e.2 % 8))) (BitVec.ofNat 64 (r.1.ttcOf e.1.org.core)), b :: r.2))
      (s, [])).1

/-- The upset of a packet that reaches a core in this cycle (11 R227). -/
def flitUpset (s : State) (core : Nat) : Bool × Nat :=
  s.upsets.foldl (fun r u => match u with
    | .flits a c h m => if a = s.acc && c = core then (r.1 || h, r.2 ||| m) else r
    | _ => r) (false, 0)

/-- Bytes of the payload flits in a mask: 8 bytes each. -/
def flitBytes (mask n : Nat) : Nat := (List.range n).foldl (fun m i => if mask.testBit (i / 8) then m + 2 ^ i else m) 0

/-- The words of this cycle on which a bond lane of a core's room port fails (20 R358). -/
def laneUpset (s : State) (core lane : Nat) : Nat :=
  s.upsets.foldl (fun m u => match u with
    | .bond a c l w => if a = s.acc && c = core && l = lane then m ||| w else m
    | _ => m) 0

/-- Key of a lane's record in `Tier.bonds`. -/
def laneKey (core lane : Nat) : Nat := meshIdx core * 16 + lane

/-- A lane's run of words in error after n more words, with `bad` those in error; three in a row stay, for the swap at the edge. -/
def laneRun (run bad : Nat) : Nat → Nat
  | 0 => run
  | n + 1 => laneRun (if run = 3 then 3 else if bad % 2 = 1 then run + 1 else 0) (bad / 2) n

/-- n 64-bit words cross between a core and its room: each lane's errors are counted, and the words that a lane fails on are poisoned:
the state, and the poison mask by bytes. -/
def bondWords (s : State) (core n : Nat) : State × Nat :=
  if s.upsets.isEmpty && (s.tier (tierOf core)).bonds.isEmpty then (s, 0)
  else (List.range 8).foldl (fun (r : State × Nat) l =>
    let bad := r.1.laneUpset core l % 2 ^ n
    let run := (r.1.tier (tierOf core)).bonds.get 0 (laneKey core l)
    let k := ((List.range n).filter fun i => bad.testBit i).length
    let s := if k = 0 then r.1 else r.1.modPosStat core fun p => { p with bond := min 255 (p.bond + k) }
    let s := if k = 0 && run = 0 then s
      else s.modTier (tierOf core) fun t => { t with bonds := t.bonds.put (laneKey core l) (laneRun run bad n) }
    (s, r.2 ||| flitBytes bad (8 * n))) (s, 0)

/-- The bond words of n bytes at key, and the poison mask of those bytes. -/
def bondSpan (s : State) (core key n : Nat) : State × Nat :=
  let (s, m) := s.bondWords core ((key % 8 + n + 7) / 8)
  (s, m / 2 ^ (key % 8) % 2 ^ n)

/-- A packet injected before the edge at which another site took the core's position is dropped there and counted (11 R229). -/
def staleFor (s : State) (core inj : Nat) : Bool := (s.core core).mapAt.any fun e => inj < e
def countDrop (s : State) (core : Nat) : State := s.modPosStat core fun k => { k with mdrop := satInc 8 k.mdrop }

/-- Counts the correction that a read makes of words in error, and the true uncorrectable ones met (20 R357). -/
def countRead (s : State) (key n : Nat) : State :=
  if s.ecc.isEmpty then s
  else (unitsOf 8 key n).foldl (fun s u =>
    match s.ecc.get .good u with
    | .corr => s.countEcc u false
    | .unc => s.countEcc u true
    | _ => s) s

end State

end Sys2Proof.Machine
end

