-- ==== Sys2Proof/Decode.lean ====
section
/-! DEFINITION. The decoder of 02 R40 to R51 and the encoder, from the same encoding tables: 04 R83 to R101, 05 R107 to R134,
06 R148 to R151, 07 R157, 10 R205, 11 R233, 12 R253, 16 R303, 17 R313, R320, 18 R336, 23 R405. The checks that need the
berth's state (R50 checks f and g, and privilege) are made at the turn, in Machine/Turn.lean. -/

namespace Sys2Proof

/-- A refused word, by name (02 R51). Each carries what its TINFO shows. -/
inductive Reject where
  | unassigned (maj : BitVec 8)
  | unusedNotZero (maj : BitVec 8)
  | badVariant (maj f : BitVec 8)
  | badRounding (maj : BitVec 8) (m : BitVec 3)
  | fieldRange (maj : BitVec 8) (field : BitVec 2)
  | badSlot (maj : BitVec 8)
  deriving DecidableEq, Repr

/-- SUB of cause 0x01 (02 R51). -/
def Reject.sub : Reject → BitVec 8
  | .unassigned _ => 0
  | .unusedNotZero _ => 3
  | .badVariant .. => 4
  | .badRounding .. => 5
  | .fieldRange .. => 6
  | .badSlot _ => 7

/-- TINFO of cause 0x01 (02 R51). -/
def Reject.tinfo : Reject → BitVec 32
  | .unassigned m | .unusedNotZero m | .badSlot m => m.setWidth 32
  | .badVariant m f => (f ++ m).setWidth 32
  | .badRounding m r => (r ++ m).setWidth 32
  | .fieldRange m k => (k ++ m).setWidth 32

/-- The fields of a word in the frame of 02 R40 and R42. Format V's K and F are the top 3 and low 5 bits of `f`; J's LOFF and
TSLOT, and N's IPAR, hops and NDISP, are `x`. -/
structure Raw where
  maj : BitVec 8
  w : BitVec 1
  gn : BitVec 1
  gp : BitVec 3
  d : BitVec 6
  a : BitVec 6
  b : BitVec 6
  c : BitVec 6
  f : BitVec 8
  m : BitVec 3
  x : BitVec 48
  deriving DecidableEq, Repr

/-- Bit positions of 02 R40 and R42. -/
def Raw.ofWord (v : BitVec 96) : Raw :=
  { maj := v.extractLsb' 88 8, w := v.extractLsb' 87 1, gn := v.extractLsb' 86 1, gp := v.extractLsb' 83 3,
    d := v.extractLsb' 77 6, a := v.extractLsb' 71 6, b := v.extractLsb' 65 6, c := v.extractLsb' 59 6,
    f := v.extractLsb' 51 8, m := v.extractLsb' 48 3, x := v.extractLsb' 0 48 }

def Raw.toWord (r : Raw) : BitVec 96 :=
  r.maj ++ r.w ++ r.gn ++ r.gp ++ r.d ++ r.a ++ r.b ++ r.c ++ r.f ++ r.m ++ r.x

/-- Formats of 02 R42; `nop` is opcode 0x00 (R48). -/
inductive Fmt where
  | r | v | j | n | nop
  deriving DecidableEq, Repr

/-- Issue classes of 02 R35; `any` is NOP's and an unassigned opcode's. -/
inductive Cls where
  | s | o | any
  deriving DecidableEq, Repr

/-- Format of an opcode; none for an unassigned one (02 R47 to R49). -/
def fmtOf (maj : BitVec 8) : Option Fmt :=
  let n := maj.toNat
  if n = 0 then some .nop
  else if n = 0x34 || n = 0x36 || n = 0x39 || n = 0x3A then some .j
  else if n ≤ 0x3E then some .r
  else if n < 0x40 then none
  else if n ≤ 0x6C then some .v
  else if n < 0x80 then none
  else if n = 0x82 || n = 0x83 || n = 0x84 || n = 0x85 then some .v
  else if n ≤ 0x98 then some .r
  else if n < 0xA0 then none
  else if n = 0xA5 then some .n
  else if n ≤ 0xA9 then some .r
  else if n < 0xB0 then none
  else if n = 0xB2 || n = 0xB3 || n = 0xB4 || n = 0xB5 || n = 0xB8 then some .n
  else if n ≤ 0xB8 then some .r
  else if n < 0xC0 then none
  else if n ≤ 0xC9 then some .r
  else if n < 0xD0 then none
  else if n ≤ 0xDE then some .r
  else if n = 0xE0 then some .n
  else if n = 0xE1 || n = 0xE2 || n = 0xE3 then some .r
  else none

/-- Class of an opcode (02 R35, R48). -/
def clsOf (maj : BitVec 8) : Cls :=
  let n := maj.toNat
  if n = 0 then .any
  else match fmtOf maj with
    | none => .any
    | some _ => if n ≤ 0x3E || (0x8D ≤ n && n ≤ 0x98) then .s else .o

/-- What a 6-bit register field holds (02 R43): nothing, a scalar, a vector, a predicate or mask, a tile, or the part number
of 05 R128, whose upper bits are unused bits. -/
inductive FK where
  | z | s | v | p | t | q
  deriving DecidableEq, Repr

/-- What M holds (02 R44): nothing, a rounding mode, a mask or a shift, or a part with M[2] zero (12 R254). -/
inductive MK where
  | z | rnd | any | part
  deriving DecidableEq, Repr

/-- Which bits of X are used: the low `n`, or the low `n1` and `n2` bits from bit `lo` up; `none` is X unused. -/
inductive XK where
  | none | all | low (n : Nat) | split (n1 lo n2 : Nat)
  deriving DecidableEq, Repr

/-- How an opcode with its F uses the fields. `k` says whether a mask is taken in format V. `ok` is false for a value that
the description declares illegal with SUB 0x03. -/
structure Spec where
  d : FK := .z
  a : FK := .z
  b : FK := .z
  c : FK := .z
  k : Bool := false
  m : MK := .z
  x : XK := .none
  ok : Bool := true
  deriving DecidableEq, Repr

/-- `some` when F is assigned. -/
def Spec.whenF (p : Bool) (s : Spec) : Option Spec := if p then some s else none

/-- op2 of 04 R83, with the immediate's range. -/
def Spec.i (f : Nat) (x : XK) : Option Spec :=
  if f = 0 then some { d := .s, a := .s, b := .s }
  else if f = 1 then some { d := .s, a := .s, x := x }
  else none

/-- The two-operand lane instructions: F[1] chooses the broadcast form (05 R107). -/
def Spec.lane (f : Nat) (m : MK) (ok : Bool) : Option Spec :=
  Spec.whenF ok { d := .v, a := .v, b := if f / 2 % 2 = 1 then .s else .v, k := true, m := m }

/-- LDR, SBD and PIL destinations (11 R234). -/
def Spec.ldForm (f : Nat) (b : FK) : Option Spec :=
  if f ≤ 6 then some { d := .s, a := .s, b := b, x := .all }
  else if 0x10 ≤ f && f ≤ 0x18 then some { d := .v, a := .s, b := b, m := .any, x := .all }
  else none

/-- F and the fields of each R, V and N opcode (the tables named in the file's head). `f` is format V's 5-bit F or the 8-bit
F of the other formats. -/
def specOf (maj f : Nat) (x : BitVec 48) : Option Spec :=
  let xn := x.toNat
  match maj with
  | 0x00 => some {}
  | 0x01 | 0x03 | 0x04 | 0x05 | 0x06 | 0x07 | 0x08 | 0x09 | 0x0A | 0x23 | 0x24 =>
      Spec.whenF (f = 0) { d := .s, a := .s, b := .s }
  | 0x02 => Spec.whenF (f = 0) { d := .s, a := .s, x := .all }
  | 0x0B | 0x0C | 0x0D | 0x0E | 0x0F | 0x18 | 0x19 | 0x1A | 0x1B => Spec.i f .all
  | 0x10 | 0x11 | 0x12 | 0x13 => Spec.i f (.low 6)
  | 0x14 | 0x15 | 0x16 | 0x17 | 0x1C => Spec.whenF (f = 0) { d := .s, a := .s }
  | 0x1D => Spec.whenF (f = 0) { d := .s, x := .all }
  | 0x1E => Spec.whenF (f = 0) { d := .s, a := .s, x := .low 16 }
  | 0x1F | 0x20 => Spec.whenF (f = 0) { d := .s, a := .s, x := .low 6 }
  | 0x21 => Spec.whenF (f ≤ 1) { d := .s, a := .s, x := .low 12 }
  | 0x22 => Spec.whenF (f = 0) { d := .s, a := .s, x := .low 12 }
  | 0x25 => Spec.whenF (f = 0) { d := .s, a := .s, b := .s, m := .any, x := .all }
  | 0x26 => Spec.whenF (f ≤ 7) { d := .p, a := .s, b := .s, c := .p }
  | 0x27 => Spec.whenF (f ≤ 7) { d := .p, a := .s, c := .p, x := .all }
  | 0x28 => Spec.whenF (f ≤ 7) { d := .p, a := .p, b := .p }
  | 0x29 => Spec.whenF (f = 0) { d := .s, a := .s, b := .s, c := .p }
  | 0x2A | 0x2B | 0x2C | 0x2E => Spec.whenF (f = 0) { d := .s, a := .s, b := .s, m := .rnd }
  | 0x2D => Spec.whenF (f ≤ 3) { d := .s, a := .s, b := .s, c := .s, m := .rnd }
  | 0x2F => Spec.whenF (f = 0) { d := .s, a := .s, m := .rnd }
  | 0x30 | 0x31 => Spec.whenF (f = 0) { d := .s, a := .s, b := .s }
  | 0x32 => Spec.whenF (f ≤ 3) { d := .p, a := .s, b := .s, c := .p }
  | 0x33 => Spec.whenF (f ≤ 9) { d := .s, a := .s, m := .rnd }
  | 0x35 | 0x38 => Spec.whenF (f = 0) { a := .s }
  | 0x37 => Spec.whenF (f = 0) { d := .s, a := .s }
  | 0x34 => some { x := .all }
  | 0x36 => some { d := .s, x := .all }
  | 0x39 | 0x3A => some { a := .s, x := .all }
  | 0x3B => Spec.whenF (f ≤ 1) { a := .s, x := .low 32 }
  | 0x3C => Spec.whenF (f = 0) { a := .s, x := .low 32 }
  | 0x3D => if f = 0 then some {} else Spec.whenF (f = 1) { a := .s }
  | 0x3E => Spec.whenF (f ≤ 7) { d := .s }
  | 0x40 | 0x41 | 0x42 => Spec.lane f .rnd (f ≤ 3)
  | 0x43 | 0x44 => Spec.lane f .rnd (f = 0 || f = 2)
  | 0x45 | 0x46 => Spec.lane f .z (f = 0 || f = 2)
  | 0x47 | 0x48 => Spec.whenF (f ≤ 1) { d := .v, a := .v, k := true }
  | 0x49 | 0x4A | 0x4B | 0x4C => Spec.whenF (f = 0) { d := .v, a := .v, k := true }
  | 0x4D => Spec.whenF (f = 0) { d := .v, a := .v, b := .v, k := true, m := .rnd }
  | 0x4E => Spec.whenF (f = 0) { d := .v, a := .v, k := true, m := .rnd }
  | 0x4F => Spec.whenF (f < 16 && f % 8 ≠ 7) { d := .p, a := .v, b := if f < 8 then .v else .s, k := true }
  | 0x50 => Spec.whenF (f = 0) { d := .v, a := .v, b := .v, c := .p, k := true }
  | 0x51 | 0x52 | 0x53 => Spec.lane f .z (f = 0 || f = 2)
  | 0x54 => Spec.whenF (f = 0) { d := .v, a := .v, k := true }
  | 0x55 | 0x56 | 0x57 =>
      if f = 0 then some { d := .v, a := .v, b := .v, k := true }
      else if f = 1 then some { d := .v, a := .v, k := true, x := .low 8 }
      else Spec.whenF (f = 2) { d := .v, a := .v, b := .s, k := true }
  | 0x58 => Spec.lane f .z (f ≤ 3)
  | 0x59 | 0x5A => Spec.whenF (f = 0) { d := .v, a := .v, k := true }
  | 0x5B => Spec.whenF (f = 0) { d := .v, a := .v, b := .v, k := true }
  | 0x5C => Spec.whenF (f ≤ 4) { d := .v, a := .v, b := if f = 4 then .z else .v, k := true }
  | 0x5D =>
      if f ≤ 1 then some { d := .v, a := .v, b := .v, k := true, x := .low 9 }
      else Spec.whenF (f ≤ 3) { d := .v, a := .v, b := .v, c := .s, k := true }
  | 0x5E =>
      if f ≤ 8 then some { d := .v, a := .s, k := true }
      else Spec.whenF (f = 0x10) { d := .v, a := .v, k := true, x := .low 8 }
  | 0x5F => Spec.whenF (f ≤ 1) { d := .s, a := .v, b := .s, x := .low 16 }
  | 0x60 => Spec.whenF (f = 0) { d := .v, a := .s, b := .s, x := .low 16 }
  | 0x61 => Spec.whenF (f ≤ 5) { d := .s, a := .v, k := true, m := .rnd }
  | 0x62 => Spec.whenF (f ≤ 2) { d := .v, a := .v, k := true, m := .rnd }
  | 0x63 => Spec.whenF (1 ≤ f && f ≤ 7) { d := .v, a := .v, c := .q, k := true, m := .rnd }
  | 0x64 => Spec.whenF (f ≤ 8) { d := .v, a := .v }
  | 0x65 => Spec.whenF (f ≤ 1) { d := .v, a := .v, b := .s, c := .q, k := true, m := .rnd }
  | 0x66 => Spec.whenF (f ≤ 2)
      { d := .v, a := .v, b := .s, c := .q, k := true, m := .rnd, x := .low 5,
        ok := xn % 16 = 0 || xn % 16 = 2 || xn % 16 = 4 || xn % 16 = 8 }
  | 0x67 =>
      if f = 0 then some { d := .v, a := .v }
      else Spec.whenF (f = 1) { d := .v, a := .v, x := .low 4, ok := xn % 16 = 2 || xn % 16 = 4 || xn % 16 = 8 }
  | 0x68 => Spec.whenF (f ≤ 2) { d := if f = 0 then .p else if f = 1 then .v else .z, a := .v, b := .s, c := .s, k := true }
  | 0x69 => Spec.whenF (f ≤ 1) { d := .v, a := .v, b := .v, k := true }
  | 0x6A => Spec.whenF (f ≤ 7) { d := .p, a := .p, b := .p }
  | 0x6B => Spec.whenF (f = 0) { d := .s, a := .p, k := true }
  | 0x6C => Spec.whenF (f ≤ 1) { d := .s, a := .p, k := true }
  | 0x80 => Spec.whenF (f ≤ 6) { d := .s, a := .s, x := .all }
  | 0x81 => Spec.whenF (f ≤ 3) { a := .s, b := .s, x := .all }
  | 0x82 => Spec.whenF (f ≤ 8) { d := .v, a := .s, k := true, x := .all }
  | 0x83 => Spec.whenF (f = 0) { a := .s, b := .v, k := true, x := .all }
  | 0x84 => Spec.whenF (f ≤ 8) { d := .v, a := .s, b := .v, k := true, x := .all }
  | 0x85 => Spec.whenF (f = 0) { a := .s, b := .v, c := .v, k := true, x := .all }
  | 0x86 | 0x87 | 0x8B | 0x8C => Spec.whenF (f ≤ 1) { d := .s, a := .s, b := .s, x := .all }
  | 0x88 => Spec.whenF (f ≤ 1) { d := .s, a := .s, b := .s, c := .s, x := .all }
  | 0x89 | 0x8A => Spec.whenF (f ≤ 3) { d := .s, a := .s, b := .s, x := .all }
  | 0x8D => Spec.whenF (f ≤ 1) { d := .s, a := .s }
  | 0x8E => Spec.whenF (f = 0) { d := .s, x := .low 12 }
  | 0x8F => Spec.whenF (f = 0) { a := .s, x := .low 12 }
  | 0x90 | 0x92 => Spec.whenF (f = 0) { x := .low 32 }
  | 0x91 | 0x93 => Spec.whenF (f = 0) {}
  | 0x94 => Spec.whenF (f = 0) { x := .split 7 8 7, ok := xn % 128 ≠ 0 && xn / 256 % 128 ≠ 0 }
  | 0x95 => Spec.whenF (f ≤ 1) { x := .low 32 }
  | 0x96 => Spec.whenF (f ≤ 1) {}
  | 0x97 => Spec.whenF (f = 0) { d := .s, a := .s }
  | 0x98 => Spec.whenF (f = 0) { d := .s }
  | 0xA0 | 0xA1 => Spec.whenF (f = 0) { x := .low 8 }
  | 0xA2 => Spec.whenF (mmacModeOk (BitVec.ofNat 8 f)) { d := .t, a := .s, x := .low 15 }
  | 0xA3 => Spec.whenF (f ≤ 1) { d := .t }
  | 0xA4 => Spec.whenF (f ≤ 1) { d := .t, b := .v }
  | 0xA5 => Spec.whenF (f ≤ 1) { a := .t, b := .s, c := .s, x := .all }
  | 0xA6 => Spec.whenF (f = 0) { a := .t, b := .s }
  | 0xA7 => Spec.whenF (f = 0) { d := .t, b := .s }
  | 0xA8 => Spec.whenF (f ≤ 2) { d := .s, a := .t }
  | 0xA9 => if f = 0 then some { d := .s, a := .t } else Spec.whenF (f = 1) { d := .s }
  | 0xB0 | 0xC2 => Spec.ldForm f .z
  | 0xB1 =>
      if f ≤ 3 then some { a := .s, b := .s, x := .all }
      else Spec.whenF (f = 0x10) { a := .s, b := .v, m := .any, x := .all }
  | 0xB2 =>
      if f = 0 then some { a := .s, b := .v, m := .any, x := .all }
      else Spec.whenF (f = 1) { a := .s, b := .s, x := .all }
  | 0xB3 =>
      if f ≤ 8 then some { d := .v, a := .s, x := .all } else Spec.whenF (f = 0x10) { d := .s, a := .s, x := .all }
  | 0xB4 | 0xC1 => Spec.whenF (f ≤ 0x11) { d := .s, a := .s, b := .s, c := if f / 2 = 2 then .s else .z, x := .all }
  | 0xB5 => Spec.whenF (f = 0) { b := .s, x := .all, ok := xn % 256 = 0 }
  | 0xB6 => Spec.whenF (f ≤ 1) { d := .s, a := .s, b := .s, x := .low 32 }
  | 0xB7 => Spec.whenF (f = 0) { d := .s, a := .s, x := .low 5 }
  | 0xB8 => Spec.whenF (f ≤ 2) { d := .s, x := .all, ok := xn % 256 = 0 }
  | 0xC0 => Spec.whenF (f ≤ 3)
      { a := .s, b := if f % 2 = 0 then .s else .v, c := if f < 2 then .z else .s,
        m := if f % 2 = 0 then .z else .part, x := .all }
  | 0xC3 => Spec.whenF (f = 0) { x := .low 3 }
  | 0xC4 => Spec.whenF (f ≤ 2) { d := .s }
  | 0xC5 => Spec.whenF (f ≤ 1) { b := .v }
  | 0xC6 => Spec.whenF (f ≤ 1) { d := .v }
  | 0xC7 => Spec.whenF (f ≤ 1) { d := .s }
  | 0xC8 => Spec.whenF (f = 0) { d := .s, a := .s, b := .s }
  | 0xC9 => Spec.whenF (f = 0) { d := .s, a := .s }
  | 0xD0 => Spec.ldForm f .s
  | 0xD1 => Spec.whenF (f ≤ 1)
      { a := .s, b := if f = 0 then .s else .v, c := .s, m := if f = 0 then .z else .part, x := .all }
  | 0xD2 => if f = 0 then some { b := .s, x := .low 8 } else Spec.whenF (f = 1) { b := .s, c := .s }
  | 0xD3 => Spec.whenF (f ≤ 1) { d := .s, x := .low 8 }
  | 0xD4 => Spec.whenF (f ≤ 3) { d := .s }
  | 0xD5 => if f = 0 then some { d := .s, x := .low 2 } else Spec.whenF (f = 1) { d := .s }
  | 0xD6 => Spec.whenF (f ≤ 3) { d := .s, a := .s, b := .s, c := .s, x := .low 14 }
  | 0xD7 => Spec.whenF (f = 0) { d := .s, x := .split 2 8 6 }
  | 0xD8 => Spec.whenF (f = 0) { d := .v, x := .low 2 }
  | 0xD9 => if f = 0 then some { a := .s, b := .s, x := .low 10 } else Spec.whenF (f = 1) { a := .s, b := .s }
  | 0xDA =>
      if f = 0 then some { a := .s } else if f = 1 then some { x := .low 10 } else Spec.whenF (f = 2) {}
  | 0xDB => Spec.whenF (f = 0) { d := .s }
  | 0xDC => Spec.whenF (f = 0) {}
  | 0xDD => Spec.whenF (f ≤ 2) { d := .s }
  | 0xDE => Spec.whenF (f ≤ 1) { d := .s, a := .s, b := .s }
  | 0xE0 => Spec.whenF (f ≤ 3)
      { a := .s, b := if f % 2 = 0 then .s else .v, c := .s, m := if f % 2 = 0 then .z else .part, x := .all }
  | 0xE1 => if f = 0 then some { a := .s, b := .s, x := .all } else Spec.whenF (f = 1) { d := .s }
  | 0xE2 => Spec.whenF (f = 0) { d := .s }
  | 0xE3 => Spec.whenF (f ≤ 1) { d := .s }
  | _ => none

/-- Unused bits of a register field are zero (02 R44, SUB 0x03). -/
def FK.unusedOk (k : FK) (v : BitVec 6) : Bool :=
  match k with
  | .z => v = 0
  | .q => v.toNat < 4
  | _ => true

/-- Limits of a register field (02 R43, SUB 0x06). -/
def FK.rangeOk (k : FK) (v : BitVec 6) : Bool :=
  match k with
  | .v => v.toNat < 16
  | .p => v.toNat < 8
  | .t => v.toNat < 4
  | _ => true

def MK.unusedOk (k : MK) (m : BitVec 3) : Bool :=
  match k with
  | .z => m = 0
  | .part => m.toNat < 4
  | _ => true

def XK.ok (k : XK) (x : BitVec 48) : Bool :=
  match k with
  | .none => x = 0
  | .all => true
  | .low n => x.toNat < 2 ^ n
  | .split n1 lo n2 => x.toNat % 2 ^ lo < 2 ^ n1 && x.toNat / 2 ^ lo < 2 ^ n2

/-- F as the format gives it (02 R42). -/
def Raw.fOf (r : Raw) (fm : Fmt) : Nat :=
  match fm with
  | .v => r.f.toNat % 32
  | .r | .n => r.f.toNat
  | .j | .nop => 0

/-- Check c of 02 R50: every unused field, bit and value is as required. -/
def Raw.unusedOk (r : Raw) (fm : Fmt) (s : Spec) : Bool :=
  s.d.unusedOk r.d && s.a.unusedOk r.a && s.b.unusedOk r.b && s.c.unusedOk r.c && s.m.unusedOk r.m && s.x.ok r.x && s.ok &&
  match fm with
  | .v => s.k || r.f.toNat / 32 = 0
  | .j | .nop => r.f = 0
  | .r | .n => true

/-- Checks a to e of 02 R50, in their order; none when all pass. -/
def Raw.check (r : Raw) : Option Reject :=
  match fmtOf r.maj with
  | none => some (.unassigned r.maj)
  | some fm =>
    match specOf r.maj.toNat (r.fOf fm) r.x with
    | none => some (.badVariant r.maj (BitVec.ofNat 8 (r.fOf fm)))
    | some s =>
      if s.m = .rnd && (4 ≤ r.m.toNat && r.m.toNat ≤ 6) then some (.badRounding r.maj r.m)
      else if !r.unusedOk fm s then some (.unusedNotZero r.maj)
      else if !s.d.rangeOk r.d then some (.fieldRange r.maj 0)
      else if !s.a.rangeOk r.a then some (.fieldRange r.maj 1)
      else if !s.b.rangeOk r.b then some (.fieldRange r.maj 2)
      else if !s.c.rangeOk r.c then some (.fieldRange r.maj 3)
      else if fm = .j && 5 ≤ r.x.toNat % 8 then some (.badSlot r.maj)
      else none

def Rnd.ofM (m : BitVec 3) : Rnd :=
  match m.toNat with
  | 0 => .rne
  | 1 => .rtz
  | 2 => .rup
  | 3 => .rdn
  | _ => .dyn

def Rnd.toM : Rnd → BitVec 3
  | .rne => 0
  | .rtz => 1
  | .rup => 2
  | .rdn => 3
  | .dyn => 7

namespace Raw

def h (r : Raw) : Hd := ⟨r.w = 1, r.gn = 1, r.gp⟩
def dv (r : Raw) : VReg := r.d.setWidth 4
def av (r : Raw) : VReg := r.a.setWidth 4
def bv (r : Raw) : VReg := r.b.setWidth 4
def cv (r : Raw) : VReg := r.c.setWidth 4
def dp (r : Raw) : BitVec 3 := r.d.setWidth 3
def ap (r : Raw) : BitVec 3 := r.a.setWidth 3
def bp (r : Raw) : BitVec 3 := r.b.setWidth 3
def cp (r : Raw) : BitVec 3 := r.c.setWidth 3
def dt (r : Raw) : TileNo := r.d.setWidth 2
def at_ (r : Raw) : TileNo := r.a.setWidth 2
def cq (r : Raw) : BitVec 2 := r.c.setWidth 2
/-- K of format V. -/
def k (r : Raw) : MReg := r.f.extractLsb' 5 3
/-- F of format V. -/
def fv (r : Raw) : Nat := r.f.toNat % 32
/-- F of formats R and N. -/
def fr (r : Raw) : Nat := r.f.toNat
def rm (r : Raw) : Rnd := Rnd.ofM r.m
def op2 (r : Raw) : Op2 := if r.fr = 0 then .reg r.b else .imm r.x
def lane (r : Raw) : VOp2 := if r.fv / 2 % 2 = 1 then .bs r.b else .vec r.bv
def sat (r : Raw) : Bool := r.fv % 2 = 1
def loff (r : Raw) : BitVec 45 := r.x.extractLsb' 3 45
def ts (r : Raw) : Fin 5 := Fin.ofNat 5 (r.x.toNat % 8)
def it (r : Raw) : Itin := ⟨r.x.extractLsb' 47 1 = 1, r.x.extractLsb' 8 39⟩
def nd (r : Raw) : BitVec 8 := r.x.setWidth 8
def hn (r : Raw) : Handle := r.x.setWidth 8
def xlo (r : Raw) (n : Nat) : BitVec n := r.x.setWidth n
def dat (r : Raw) : BeatData := if r.fr % 2 = 0 then .d r.b else .v r.bv (r.m.setWidth 2)
def ld (r : Raw) : LdForm := if r.fr ≤ 6 then .scalar (Fin.ofNat 7 r.fr) r.d else .vec (Fin.ofNat 9 (r.fr - 16)) r.dv r.m
def shAmt (r : Raw) : ShAmt := if r.fv = 0 then .vec r.bv else if r.fv = 1 then .imm (r.xlo 8) else .bs r.b
def dbl (r : Raw) : Bool := r.fr % 2 = 1
def uns (r : Raw) : Bool := 2 ≤ r.fr

end Raw

/-- The instruction of a word whose checks a to e of 02 R50 have passed. -/
def Raw.build (r : Raw) : Option Instr :=
  match r.maj.toNat with
  | 0x00 => some (.nop r.h)
  | 0x01 => some (.add r.h r.d r.a r.b)
  | 0x02 => some (.addi r.h r.d r.a r.x)
  | 0x03 => some (.sub r.h r.d r.a r.b)
  | 0x04 => some (.mul r.h r.d r.a r.b)
  | 0x05 => some (.mulh r.h r.d r.a r.b)
  | 0x06 => some (.mulhu r.h r.d r.a r.b)
  | 0x07 => some (.div r.h r.d r.a r.b)
  | 0x08 => some (.divu r.h r.d r.a r.b)
  | 0x09 => some (.rem r.h r.d r.a r.b)
  | 0x0A => some (.remu r.h r.d r.a r.b)
  | 0x0B => some (.and r.h r.d r.a r.op2)
  | 0x0C => some (.or r.h r.d r.a r.op2)
  | 0x0D => some (.xor r.h r.d r.a r.op2)
  | 0x0E => some (.andn r.h r.d r.a r.op2)
  | 0x0F => some (.orn r.h r.d r.a r.op2)
  | 0x10 => some (.shl r.h r.d r.a r.op2)
  | 0x11 => some (.shr r.h r.d r.a r.op2)
  | 0x12 => some (.sar r.h r.d r.a r.op2)
  | 0x13 => some (.rol r.h r.d r.a r.op2)
  | 0x14 => some (.clz r.h r.d r.a)
  | 0x15 => some (.ctz r.h r.d r.a)
  | 0x16 => some (.popc r.h r.d r.a)
  | 0x17 => some (.brev r.h r.d r.a)
  | 0x18 => some (.min r.h r.d r.a r.op2)
  | 0x19 => some (.max r.h r.d r.a r.op2)
  | 0x1A => some (.minu r.h r.d r.a r.op2)
  | 0x1B => some (.maxu r.h r.d r.a r.op2)
  | 0x1C => some (.abs r.h r.d r.a)
  | 0x1D => some (.movi r.h r.d r.x)
  | 0x1E => some (.movhi r.h r.d r.a (r.xlo 16))
  | 0x1F => some (.sext r.h r.d r.a (r.xlo 6))
  | 0x20 => some (.zext r.h r.d r.a (r.xlo 6))
  | 0x21 => some (.extb r.h (r.fr = 1) r.d r.a (r.xlo 6) (r.x.extractLsb' 6 6))
  | 0x22 => some (.insb r.h r.d r.a (r.xlo 6) (r.x.extractLsb' 6 6))
  | 0x23 => some (.clmul r.h r.d r.a r.b)
  | 0x24 => some (.clmulh r.h r.d r.a r.b)
  | 0x25 => some (.lea r.h r.d r.a r.b r.m r.x)
  | 0x26 => some (.cmp r.h (r.f.setWidth 3) r.dp r.cp r.a r.b)
  | 0x27 => some (.cmpi r.h (r.f.setWidth 3) r.dp r.cp r.a r.x)
  | 0x28 => some (.plog r.h (r.f.setWidth 3) r.dp r.ap r.bp)
  | 0x29 => some (.sel r.h r.d r.a r.b r.cp)
  | 0x2A => some (.fadd r.h r.rm r.d r.a r.b)
  | 0x2B => some (.fsub r.h r.rm r.d r.a r.b)
  | 0x2C => some (.fmul r.h r.rm r.d r.a r.b)
  | 0x2D => some (.ffma r.h (r.f.setWidth 2) r.rm r.d r.a r.b r.c)
  | 0x2E => some (.fdiv r.h r.rm r.d r.a r.b)
  | 0x2F => some (.fsqrt r.h r.rm r.d r.a)
  | 0x30 => some (.fmin r.h r.d r.a r.b)
  | 0x31 => some (.fmax r.h r.d r.a r.b)
  | 0x32 => some (.fcmp r.h (r.f.setWidth 2) r.dp r.cp r.a r.b)
  | 0x33 => some (.fcvt r.h (Fin.ofNat 10 r.fr) r.rm r.d r.a)
  | 0x34 => some (.br r.h r.loff r.ts)
  | 0x35 => some (.jmp r.h r.a)
  | 0x36 => some (.call r.h r.d r.loff r.ts)
  | 0x37 => some (.callr r.h r.d r.a)
  | 0x38 => some (.ret r.h r.a)
  | 0x39 => some (.loop r.h r.a r.loff r.ts)
  | 0x3A => some (.brx r.h r.a r.loff r.ts)
  | 0x3B => some (if r.fr = 0 then .waitc r.h r.a (r.xlo 32) else .waitcItc r.h r.a (r.xlo 32))
  | 0x3C => some (.waitr r.h r.a (r.xlo 32))
  | 0x3D => some (if r.fr = 0 then .resync r.h else .resyncTo r.h r.a)
  | 0x3E => some (.rdtt r.h (r.f.setWidth 3) r.d)
  | 0x40 => some (.vadd r.h r.sat r.rm r.k r.dv r.av r.lane)
  | 0x41 => some (.vsub r.h r.sat r.rm r.k r.dv r.av r.lane)
  | 0x42 => some (.vmul r.h r.sat r.rm r.k r.dv r.av r.lane)
  | 0x43 => some (.vfma r.h r.rm r.k r.dv r.av r.lane)
  | 0x44 => some (.vfms r.h r.rm r.k r.dv r.av r.lane)
  | 0x45 => some (.vmin r.h r.k r.dv r.av r.lane)
  | 0x46 => some (.vmax r.h r.k r.dv r.av r.lane)
  | 0x47 => some (.vabs r.h r.sat r.k r.dv r.av)
  | 0x48 => some (.vneg r.h r.sat r.k r.dv r.av)
  | 0x49 => some (.vrcp r.h r.k r.dv r.av)
  | 0x4A => some (.vrsq r.h r.k r.dv r.av)
  | 0x4B => some (.vexp2 r.h r.k r.dv r.av)
  | 0x4C => some (.vlog2 r.h r.k r.dv r.av)
  | 0x4D => some (.vdiv r.h r.rm r.k r.dv r.av r.bv)
  | 0x4E => some (.vsqrt r.h r.rm r.k r.dv r.av)
  | 0x4F => some (.vcmp r.h (Fin.ofNat 7 (r.fv % 8)) r.k r.dp r.av (if r.fv < 8 then .vec r.bv else .bs r.b))
  | 0x50 => some (.vsel r.h r.k r.dv r.av r.bv r.cp)
  | 0x51 => some (.vand r.h r.k r.dv r.av r.lane)
  | 0x52 => some (.vor r.h r.k r.dv r.av r.lane)
  | 0x53 => some (.vxor r.h r.k r.dv r.av r.lane)
  | 0x54 => some (.vnot r.h r.k r.dv r.av)
  | 0x55 => some (.vshl r.h r.k r.dv r.av r.shAmt)
  | 0x56 => some (.vshr r.h r.k r.dv r.av r.shAmt)
  | 0x57 => some (.vsar r.h r.k r.dv r.av r.shAmt)
  | 0x58 => some (.vclmul r.h r.sat r.k r.dv r.av r.lane)
  | 0x59 => some (.vpopc r.h r.k r.dv r.av)
  | 0x5A => some (.vclz r.h r.k r.dv r.av)
  | 0x5B => some (.vperm r.h r.k r.dv r.av r.bv)
  | 0x5C => some (.vshuf r.h (Fin.ofNat 5 r.fv) r.k r.dv r.av r.bv)
  | 0x5D => some (.vslide r.h (r.fv % 2 = 1) r.k r.dv r.av r.bv (if r.fv < 2 then .imm (r.xlo 9) else .reg r.c))
  | 0x5E => some (.vbcast r.h r.k r.dv (if r.fv ≤ 8 then .scalar (Fin.ofNat 9 r.fv) r.a else .elem r.av (r.xlo 8)))
  | 0x5F => some (.vextr r.h r.sat r.d r.av r.b (r.xlo 16))
  | 0x60 => some (.vins r.h r.dv r.a r.b (r.xlo 16))
  | 0x61 => some (.vred r.h (Fin.ofNat 6 r.fv) r.rm r.k r.d r.av)
  | 0x62 => some (.vscan r.h (Fin.ofNat 3 r.fv) r.rm r.k r.dv r.av)
  | 0x63 => some (.vcvt r.h (Fin.ofNat 7 (r.fv - 1)) r.rm r.k r.cq r.dv r.av)
  | 0x64 => some (.vtag r.h (Fin.ofNat 9 r.fv) r.dv r.av)
  | 0x65 => some (.vqnt r.h r.sat r.rm r.k r.cq r.dv r.av r.b)
  | 0x66 => some (.vdqnt r.h (Fin.ofNat 3 r.fv) r.rm r.k r.cq r.dv r.av r.b (r.xlo 4) (r.x.extractLsb' 4 1 = 1))
  | 0x67 => some (.vplane r.h (if r.fv = 0 then .pack else .unpack (r.xlo 4)) r.dv r.av)
  | 0x68 => some (.vbnd r.h (if r.fv = 0 then .flag r.dp else if r.fv = 1 then .clamp r.dv else .trap) r.k r.av r.b r.c)
  | 0x69 => some (.vdot4 r.h r.sat r.k r.dv r.av r.bv)
  | 0x6A => some (.vmlog r.h (r.f.setWidth 3) r.dp r.ap r.bp)
  | 0x6B => some (.vmpop r.h r.k r.d r.ap)
  | 0x6C => some (.vmfirst r.h r.sat r.k r.d r.ap)
  | 0x80 => some (.ld r.h (Fin.ofNat 7 r.fr) r.d r.a r.x)
  | 0x81 => some (.st r.h (Fin.ofNat 4 r.fr) r.a r.b r.x)
  | 0x82 => some (.vld r.h (Fin.ofNat 9 r.fv) r.k r.dv r.a r.x)
  | 0x83 => some (.vst r.h r.k r.a r.bv r.x)
  | 0x84 => some (.vldx r.h (Fin.ofNat 9 r.fv) r.k r.dv r.a r.bv r.x)
  | 0x85 => some (.vstx r.h r.k r.a r.bv r.cv r.x)
  | 0x86 => some (.amoadd r.h r.dbl r.d r.a r.b r.x)
  | 0x87 => some (.amoswp r.h r.dbl r.d r.a r.b r.x)
  | 0x88 => some (.amocas r.h r.dbl r.d r.a r.b r.c r.x)
  | 0x89 => some (.amomin r.h r.dbl r.uns r.d r.a r.b r.x)
  | 0x8A => some (.amomax r.h r.dbl r.uns r.d r.a r.b r.x)
  | 0x8B => some (.amoand r.h r.dbl r.d r.a r.b r.x)
  | 0x8C => some (.amoor r.h r.dbl r.d r.a r.b r.x)
  | 0x8D => some (if r.fr = 0 then .xwsp r.h r.d r.a else .xwspTask r.h r.d r.a)
  | 0x8E => some (.mfc r.h r.d (r.xlo 8) (r.x.extractLsb' 8 4))
  | 0x8F => some (.mtc r.h r.a (r.xlo 8) (r.x.extractLsb' 8 4))
  | 0x90 => some (.trap r.h (r.xlo 32))
  | 0x91 => some (.rte r.h)
  | 0x92 => some (.svc r.h (r.xlo 32))
  | 0x93 => some (.halt r.h)
  | 0x94 => some (.fence r.h (r.xlo 7) (r.x.extractLsb' 8 7))
  | 0x95 => some (if r.fr = 0 then .dbgBrk r.h (r.xlo 32) else .dbgMark r.h (r.xlo 32))
  | 0x96 => some (if r.fr = 0 then .railUp r.h else .railDn r.h)
  | 0x97 => some (.yieldm r.h r.d r.a)
  | 0x98 => some (.pwrst r.h r.d)
  | 0xA0 => some (.mbld r.h r.hn)
  | 0xA1 => some (.mbsel r.h r.hn)
  | 0xA2 => some (.mmac r.h r.f r.dt r.a r.hn (r.x.extractLsb' 8 7))
  | 0xA3 => some (.mzero r.h (r.fr = 1) r.dt)
  | 0xA4 => some (.mbias r.h (r.fr = 1) r.dt r.bv)
  | 0xA5 => some (if r.fr = 0 then .mdrain r.h r.at_ r.b r.c r.it r.nd else .mdrainWake r.h r.at_ r.b r.c r.it r.nd)
  | 0xA6 => some (.msave r.h r.at_ r.b)
  | 0xA7 => some (.mrestore r.h r.dt r.b)
  | 0xA8 => some (.mchk r.h (Fin.ofNat 3 r.fr) r.d r.at_)
  | 0xA9 => some (.mstat r.h r.d (if r.fr = 0 then .tile r.at_ else .eng))
  | 0xB0 => some (.ldr r.h r.ld r.a r.x)
  | 0xB1 => some (.str r.h (if r.fr ≤ 3 then .scalar (Fin.ofNat 4 r.fr) r.b else .vec r.bv r.m) r.a r.x)
  | 0xB2 => some (.send r.h (if r.fr = 0 then .v r.bv r.m else .d r.b) r.a r.it r.nd)
  | 0xB3 => some (.rld r.h (if r.fr ≤ 8 then .v (Fin.ofNat 9 r.fr) r.dv else .d r.d) r.a r.it r.nd)
  | 0xB4 => some (.ramo r.h (Fin.ofNat 9 (r.fr / 2)) r.dbl r.d r.a r.b r.c r.it r.nd)
  | 0xB5 => some (.wake r.h r.b r.it)
  | 0xB6 => some (.waitw r.h (r.fr = 1) r.d r.a r.b (r.xlo 32))
  | 0xB7 => some (.mapr r.h r.d r.a (r.xlo 5))
  | 0xB8 => some (.itchk r.h (Fin.ofNat 3 r.fr) r.d r.it)
  | 0xC0 => some (.sbw r.h (if r.fr < 2 then none else some r.c) r.dat r.a r.x)
  | 0xC1 => some (.sbamo r.h (Fin.ofNat 9 (r.fr / 2)) r.dbl r.d r.a r.b r.c r.x)
  | 0xC2 => some (.sbd r.h r.ld r.a r.x)
  | 0xC3 => some (.sbmap r.h (r.xlo 3))
  | 0xC4 => some (.sbseq r.h (Fin.ofNat 3 r.fr) r.d)
  | 0xC5 => some (.stairw r.h r.dbl r.bv)
  | 0xC6 => some (.stairr r.h r.dbl r.dv)
  | 0xC7 => some (.stairf r.h r.dbl r.d)
  | 0xC8 => some (.tgate r.h r.d r.a r.b)
  | 0xC9 => some (.twake r.h r.d r.a)
  | 0xD0 => some (.pil r.h r.ld r.a r.b r.x)
  | 0xD1 => some (.pos r.h r.dat r.a r.c r.x)
  | 0xD2 => some (if r.fr = 0 then .stampH r.h r.b r.hn else .stampO r.h r.b r.c)
  | 0xD3 => some (.stale r.h r.dbl r.d r.hn)
  | 0xD4 => some (.scnr r.h (r.f.setWidth 2) r.d)
  | 0xD5 => some (.ingst r.h r.d (if r.fr = 0 then .rx (r.xlo 2) else .drop))
  | 0xD6 => some (.cpy r.h (r.f.setWidth 2) r.d r.a r.b r.c r.hn (r.x.extractLsb' 8 6))
  | 0xD7 => some (.rcptw r.h r.d (r.xlo 2) (r.x.extractLsb' 8 6))
  | 0xD8 => some (.rcptr r.h r.dv (r.xlo 2))
  | 0xD9 => some (if r.fr = 0 then .tlbwW r.h r.a r.b (r.xlo 10) else .tlbwRes r.h r.a r.b)
  | 0xDA => some (.tlbi r.h (if r.fr = 0 then .va r.a else if r.fr = 1 then .idx (r.xlo 10) else .all))
  | 0xDB => some (.xlget r.h r.d)
  | 0xDC => some (.jyld r.h)
  | 0xDD => some (.jbud r.h (Fin.ofNat 3 r.fr) r.d)
  | 0xDE => some (if r.fr = 0 then .preqStop r.h r.d r.a r.b else .preqRel r.h r.d r.a r.b)
  | 0xE0 => some (.psend r.h (2 ≤ r.fr) r.dat r.a r.c r.it r.nd)
  | 0xE1 => some (if r.fr = 0 then .pdigAdd r.h r.a r.b r.x else .pdigRd r.h r.d)
  | 0xE2 => some (.prole r.h r.d)
  | 0xE3 => some (if r.fr = 0 then .ptakeTake r.h r.d else .ptakeResign r.h r.d)
  | _ => none

/-- The decoder: total on the 96 bits of a slot, refusing by name (02 R50 step 6, checks a to e). -/
def decodeWord (v : BitVec 96) : Except Reject Instr :=
  let r := Raw.ofWord v
  match r.check with
  | some e => .error e
  | none =>
    match r.build with
    | some i => .ok i
    | none => .error (.unassigned r.maj)

/-- A word's raw fields from its parts; fields not given are zero. -/
def mkRaw (maj : BitVec 8) (h : Hd) (d a b c : BitVec 6 := 0) (f : BitVec 8 := 0) (m : BitVec 3 := 0)
    (x : BitVec 48 := 0) : Raw :=
  { maj := maj, w := BitVec.ofBool h.w, gn := BitVec.ofBool h.gn, gp := h.gp, d := d, a := a, b := b, c := c, f := f, m := m,
    x := x }

/-- K and F of format V in one byte. -/
def vf (k : MReg) (f : BitVec 5) : BitVec 8 := k ++ f

def bit8 (b : Bool) (n : Nat) : BitVec 8 := if b then BitVec.ofNat 8 (2 ^ n) else 0
def bit5 (b : Bool) (n : Nat) : BitVec 5 := if b then BitVec.ofNat 5 (2 ^ n) else 0

def Op2.b : Op2 → BitVec 6
  | .reg b => b
  | .imm _ => 0
def Op2.x : Op2 → BitVec 48
  | .reg _ => 0
  | .imm x => x
def Op2.f : Op2 → BitVec 8
  | .reg _ => 0
  | .imm _ => 1
def VOp2.b : VOp2 → BitVec 6
  | .vec b => b.setWidth 6
  | .bs b => b
def VOp2.isBs : VOp2 → Bool
  | .vec _ => false
  | .bs _ => true
def ShAmt.b : ShAmt → BitVec 6
  | .vec b => b.setWidth 6
  | .imm _ => 0
  | .bs b => b
def ShAmt.x : ShAmt → BitVec 48
  | .imm x => x.setWidth 48
  | _ => 0
def ShAmt.f : ShAmt → BitVec 5
  | .vec _ => 0
  | .imm _ => 1
  | .bs _ => 2
def LdForm.d : LdForm → BitVec 6
  | .scalar _ d => d
  | .vec _ d _ => d.setWidth 6
def LdForm.f : LdForm → BitVec 8
  | .scalar sz _ => BitVec.ofNat 8 sz
  | .vec t _ _ => BitVec.ofNat 8 (16 + t)
def LdForm.m : LdForm → BitVec 3
  | .scalar .. => 0
  | .vec _ _ m => m
def BeatData.b : BeatData → BitVec 6
  | .d b => b
  | .v b _ => b.setWidth 6
def BeatData.m : BeatData → BitVec 3
  | .d _ => 0
  | .v _ q => q.setWidth 3
def BeatData.isV : BeatData → Bool
  | .d _ => false
  | .v .. => true

/-- X of format N (02 R46). -/
def itinX (it : Itin) (nd : BitVec 8) : BitVec 48 := BitVec.ofBool it.ipar ++ it.hops ++ nd

/-- X of format J (02 R45). -/
def jX (loff : BitVec 45) (ts : Fin 5) : BitVec 48 := loff ++ BitVec.ofNat 3 ts

/-- F of RAMO and SBAMO (11 R237). -/
def ramoF (op : Fin 9) (dbl : Bool) : BitVec 8 := BitVec.ofNat 8 (2 * op + dbl.toNat)

/-- The raw fields of an instruction; none for an event row, which has no word. -/
def rawOf : Instr → Option Raw
  | .nop h => some (mkRaw 0x00 h)
  | .add h d a b => some (mkRaw 0x01 h d a b)
  | .addi h d a x => some (mkRaw 0x02 h d a (x := x))
  | .sub h d a b => some (mkRaw 0x03 h d a b)
  | .mul h d a b => some (mkRaw 0x04 h d a b)
  | .mulh h d a b => some (mkRaw 0x05 h d a b)
  | .mulhu h d a b => some (mkRaw 0x06 h d a b)
  | .div h d a b => some (mkRaw 0x07 h d a b)
  | .divu h d a b => some (mkRaw 0x08 h d a b)
  | .rem h d a b => some (mkRaw 0x09 h d a b)
  | .remu h d a b => some (mkRaw 0x0A h d a b)
  | .and h d a o => some (mkRaw 0x0B h d a o.b (f := o.f) (x := o.x))
  | .or h d a o => some (mkRaw 0x0C h d a o.b (f := o.f) (x := o.x))
  | .xor h d a o => some (mkRaw 0x0D h d a o.b (f := o.f) (x := o.x))
  | .andn h d a o => some (mkRaw 0x0E h d a o.b (f := o.f) (x := o.x))
  | .orn h d a o => some (mkRaw 0x0F h d a o.b (f := o.f) (x := o.x))
  | .shl h d a o => some (mkRaw 0x10 h d a o.b (f := o.f) (x := o.x))
  | .shr h d a o => some (mkRaw 0x11 h d a o.b (f := o.f) (x := o.x))
  | .sar h d a o => some (mkRaw 0x12 h d a o.b (f := o.f) (x := o.x))
  | .rol h d a o => some (mkRaw 0x13 h d a o.b (f := o.f) (x := o.x))
  | .clz h d a => some (mkRaw 0x14 h d a)
  | .ctz h d a => some (mkRaw 0x15 h d a)
  | .popc h d a => some (mkRaw 0x16 h d a)
  | .brev h d a => some (mkRaw 0x17 h d a)
  | .min h d a o => some (mkRaw 0x18 h d a o.b (f := o.f) (x := o.x))
  | .max h d a o => some (mkRaw 0x19 h d a o.b (f := o.f) (x := o.x))
  | .minu h d a o => some (mkRaw 0x1A h d a o.b (f := o.f) (x := o.x))
  | .maxu h d a o => some (mkRaw 0x1B h d a o.b (f := o.f) (x := o.x))
  | .abs h d a => some (mkRaw 0x1C h d a)
  | .movi h d x => some (mkRaw 0x1D h d (x := x))
  | .movhi h d a x => some (mkRaw 0x1E h d a (x := x.setWidth 48))
  | .sext h d a w1 => some (mkRaw 0x1F h d a (x := w1.setWidth 48))
  | .zext h d a w1 => some (mkRaw 0x20 h d a (x := w1.setWidth 48))
  | .extb h sg d a ps l => some (mkRaw 0x21 h d a (f := bit8 sg 0) (x := (l ++ ps).setWidth 48))
  | .insb h d a ps l => some (mkRaw 0x22 h d a (x := (l ++ ps).setWidth 48))
  | .clmul h d a b => some (mkRaw 0x23 h d a b)
  | .clmulh h d a b => some (mkRaw 0x24 h d a b)
  | .lea h d a b sh x => some (mkRaw 0x25 h d a b (m := sh) (x := x))
  | .cmp h cond d c a b => some (mkRaw 0x26 h (d.setWidth 6) a b (c.setWidth 6) (f := cond.setWidth 8))
  | .cmpi h cond d c a x => some (mkRaw 0x27 h (d.setWidth 6) a 0 (c.setWidth 6) (f := cond.setWidth 8) (x := x))
  | .plog h op d a b => some (mkRaw 0x28 h (d.setWidth 6) (a.setWidth 6) (b.setWidth 6) (f := op.setWidth 8))
  | .sel h d a b c => some (mkRaw 0x29 h d a b (c.setWidth 6))
  | .fadd h rm d a b => some (mkRaw 0x2A h d a b (m := rm.toM))
  | .fsub h rm d a b => some (mkRaw 0x2B h d a b (m := rm.toM))
  | .fmul h rm d a b => some (mkRaw 0x2C h d a b (m := rm.toM))
  | .ffma h form rm d a b c => some (mkRaw 0x2D h d a b c (f := form.setWidth 8) (m := rm.toM))
  | .fdiv h rm d a b => some (mkRaw 0x2E h d a b (m := rm.toM))
  | .fsqrt h rm d a => some (mkRaw 0x2F h d a (m := rm.toM))
  | .fmin h d a b => some (mkRaw 0x30 h d a b)
  | .fmax h d a b => some (mkRaw 0x31 h d a b)
  | .fcmp h cond d c a b => some (mkRaw 0x32 h (d.setWidth 6) a b (c.setWidth 6) (f := cond.setWidth 8))
  | .fcvt h kd rm d a => some (mkRaw 0x33 h d a (f := BitVec.ofNat 8 kd) (m := rm.toM))
  | .br h l t => some (mkRaw 0x34 h (x := jX l t))
  | .jmp h a => some (mkRaw 0x35 h 0 a)
  | .call h d l t => some (mkRaw 0x36 h d (x := jX l t))
  | .callr h d a => some (mkRaw 0x37 h d a)
  | .ret h a => some (mkRaw 0x38 h 0 a)
  | .loop h a l t => some (mkRaw 0x39 h 0 a (x := jX l t))
  | .brx h a l t => some (mkRaw 0x3A h 0 a (x := jX l t))
  | .waitc h a x => some (mkRaw 0x3B h 0 a (x := x.setWidth 48))
  | .waitcItc h a x => some (mkRaw 0x3B h 0 a (f := 1) (x := x.setWidth 48))
  | .waitr h a x => some (mkRaw 0x3C h 0 a (x := x.setWidth 48))
  | .resync h => some (mkRaw 0x3D h)
  | .resyncTo h a => some (mkRaw 0x3D h 0 a (f := 1))
  | .rdtt h sel d => some (mkRaw 0x3E h d (f := sel.setWidth 8))
  | .vadd h sat rm k d a o => some (mkRaw 0x40 h (d.setWidth 6) (a.setWidth 6) o.b (f := vf k (bit5 sat 0 ||| bit5 o.isBs 1)) (m := rm.toM))
  | .vsub h sat rm k d a o => some (mkRaw 0x41 h (d.setWidth 6) (a.setWidth 6) o.b (f := vf k (bit5 sat 0 ||| bit5 o.isBs 1)) (m := rm.toM))
  | .vmul h sat rm k d a o => some (mkRaw 0x42 h (d.setWidth 6) (a.setWidth 6) o.b (f := vf k (bit5 sat 0 ||| bit5 o.isBs 1)) (m := rm.toM))
  | .vfma h rm k d a o => some (mkRaw 0x43 h (d.setWidth 6) (a.setWidth 6) o.b (f := vf k (bit5 o.isBs 1)) (m := rm.toM))
  | .vfms h rm k d a o => some (mkRaw 0x44 h (d.setWidth 6) (a.setWidth 6) o.b (f := vf k (bit5 o.isBs 1)) (m := rm.toM))
  | .vmin h k d a o => some (mkRaw 0x45 h (d.setWidth 6) (a.setWidth 6) o.b (f := vf k (bit5 o.isBs 1)))
  | .vmax h k d a o => some (mkRaw 0x46 h (d.setWidth 6) (a.setWidth 6) o.b (f := vf k (bit5 o.isBs 1)))
  | .vabs h sat k d a => some (mkRaw 0x47 h (d.setWidth 6) (a.setWidth 6) (f := vf k (bit5 sat 0)))
  | .vneg h sat k d a => some (mkRaw 0x48 h (d.setWidth 6) (a.setWidth 6) (f := vf k (bit5 sat 0)))
  | .vrcp h k d a => some (mkRaw 0x49 h (d.setWidth 6) (a.setWidth 6) (f := vf k 0))
  | .vrsq h k d a => some (mkRaw 0x4A h (d.setWidth 6) (a.setWidth 6) (f := vf k 0))
  | .vexp2 h k d a => some (mkRaw 0x4B h (d.setWidth 6) (a.setWidth 6) (f := vf k 0))
  | .vlog2 h k d a => some (mkRaw 0x4C h (d.setWidth 6) (a.setWidth 6) (f := vf k 0))
  | .vdiv h rm k d a b => some (mkRaw 0x4D h (d.setWidth 6) (a.setWidth 6) (b.setWidth 6) (f := vf k 0) (m := rm.toM))
  | .vsqrt h rm k d a => some (mkRaw 0x4E h (d.setWidth 6) (a.setWidth 6) (f := vf k 0) (m := rm.toM))
  | .vcmp h cond k d a o => some (mkRaw 0x4F h (d.setWidth 6) (a.setWidth 6) o.b (f := vf k (BitVec.ofNat 5 cond ||| bit5 o.isBs 3)))
  | .vsel h k d a b c => some (mkRaw 0x50 h (d.setWidth 6) (a.setWidth 6) (b.setWidth 6) (c.setWidth 6) (f := vf k 0))
  | .vand h k d a o => some (mkRaw 0x51 h (d.setWidth 6) (a.setWidth 6) o.b (f := vf k (bit5 o.isBs 1)))
  | .vor h k d a o => some (mkRaw 0x52 h (d.setWidth 6) (a.setWidth 6) o.b (f := vf k (bit5 o.isBs 1)))
  | .vxor h k d a o => some (mkRaw 0x53 h (d.setWidth 6) (a.setWidth 6) o.b (f := vf k (bit5 o.isBs 1)))
  | .vnot h k d a => some (mkRaw 0x54 h (d.setWidth 6) (a.setWidth 6) (f := vf k 0))
  | .vshl h k d a n => some (mkRaw 0x55 h (d.setWidth 6) (a.setWidth 6) n.b (f := vf k n.f) (x := n.x))
  | .vshr h k d a n => some (mkRaw 0x56 h (d.setWidth 6) (a.setWidth 6) n.b (f := vf k n.f) (x := n.x))
  | .vsar h k d a n => some (mkRaw 0x57 h (d.setWidth 6) (a.setWidth 6) n.b (f := vf k n.f) (x := n.x))
  | .vclmul h hi k d a o => some (mkRaw 0x58 h (d.setWidth 6) (a.setWidth 6) o.b (f := vf k (bit5 hi 0 ||| bit5 o.isBs 1)))
  | .vpopc h k d a => some (mkRaw 0x59 h (d.setWidth 6) (a.setWidth 6) (f := vf k 0))
  | .vclz h k d a => some (mkRaw 0x5A h (d.setWidth 6) (a.setWidth 6) (f := vf k 0))
  | .vperm h k d a b => some (mkRaw 0x5B h (d.setWidth 6) (a.setWidth 6) (b.setWidth 6) (f := vf k 0))
  | .vshuf h p k d a b => some (mkRaw 0x5C h (d.setWidth 6) (a.setWidth 6) (b.setWidth 6) (f := vf k (BitVec.ofNat 5 p)))
  | .vslide h up k d a b n =>
      match n with
      | .imm x => some (mkRaw 0x5D h (d.setWidth 6) (a.setWidth 6) (b.setWidth 6) (f := vf k (bit5 up 0)) (x := x.setWidth 48))
      | .reg c => some (mkRaw 0x5D h (d.setWidth 6) (a.setWidth 6) (b.setWidth 6) c (f := vf k (2 ||| bit5 up 0)))
  | .vbcast h k d src =>
      match src with
      | .scalar t a => some (mkRaw 0x5E h (d.setWidth 6) a (f := vf k (BitVec.ofNat 5 t)))
      | .elem a x => some (mkRaw 0x5E h (d.setWidth 6) (a.setWidth 6) (f := vf k 16) (x := x.setWidth 48))
  | .vextr h sg d a b x => some (mkRaw 0x5F h d (a.setWidth 6) b (f := vf 0 (bit5 sg 0)) (x := x.setWidth 48))
  | .vins h d a b x => some (mkRaw 0x60 h (d.setWidth 6) a b (f := vf 0 0) (x := x.setWidth 48))
  | .vred h op rm k d a => some (mkRaw 0x61 h d (a.setWidth 6) (f := vf k (BitVec.ofNat 5 op)) (m := rm.toM))
  | .vscan h op rm k d a => some (mkRaw 0x62 h (d.setWidth 6) (a.setWidth 6) (f := vf k (BitVec.ofNat 5 op)) (m := rm.toM))
  | .vcvt h t rm k q d a => some (mkRaw 0x63 h (d.setWidth 6) (a.setWidth 6) 0 (q.setWidth 6) (f := vf k (BitVec.ofNat 5 (t + 1))) (m := rm.toM))
  | .vtag h t d a => some (mkRaw 0x64 h (d.setWidth 6) (a.setWidth 6) (f := vf 0 (BitVec.ofNat 5 t)))
  | .vqnt h u rm k q d a b => some (mkRaw 0x65 h (d.setWidth 6) (a.setWidth 6) b (q.setWidth 6) (f := vf k (bit5 u 0)) (m := rm.toM))
  | .vdqnt h t rm k q d a b n cc =>
      some (mkRaw 0x66 h (d.setWidth 6) (a.setWidth 6) b (q.setWidth 6) (f := vf k (BitVec.ofNat 5 t)) (m := rm.toM) (x := (BitVec.ofBool cc ++ n).setWidth 48))
  | .vplane h fm d a =>
      match fm with
      | .pack => some (mkRaw 0x67 h (d.setWidth 6) (a.setWidth 6) (f := vf 0 0))
      | .unpack n => some (mkRaw 0x67 h (d.setWidth 6) (a.setWidth 6) (f := vf 0 1) (x := n.setWidth 48))
  | .vbnd h fm k a b c =>
      match fm with
      | .flag d => some (mkRaw 0x68 h (d.setWidth 6) (a.setWidth 6) b c (f := vf k 0))
      | .clamp d => some (mkRaw 0x68 h (d.setWidth 6) (a.setWidth 6) b c (f := vf k 1))
      | .trap => some (mkRaw 0x68 h 0 (a.setWidth 6) b c (f := vf k 2))
  | .vdot4 h sat k d a b => some (mkRaw 0x69 h (d.setWidth 6) (a.setWidth 6) (b.setWidth 6) (f := vf k (bit5 sat 0)))
  | .vmlog h op d a b => some (mkRaw 0x6A h (d.setWidth 6) (a.setWidth 6) (b.setWidth 6) (f := vf 0 (op.setWidth 5)))
  | .vmpop h k d a => some (mkRaw 0x6B h d (a.setWidth 6) (f := vf k 0))
  | .vmfirst h l k d a => some (mkRaw 0x6C h d (a.setWidth 6) (f := vf k (bit5 l 0)))
  | .ld h sz d a x => some (mkRaw 0x80 h d a (f := BitVec.ofNat 8 sz) (x := x))
  | .st h sz a b x => some (mkRaw 0x81 h 0 a b (f := BitVec.ofNat 8 sz) (x := x))
  | .vld h t k d a x => some (mkRaw 0x82 h (d.setWidth 6) a (f := vf k (BitVec.ofNat 5 t)) (x := x))
  | .vst h k a b x => some (mkRaw 0x83 h 0 a (b.setWidth 6) (f := vf k 0) (x := x))
  | .vldx h t k d a b x => some (mkRaw 0x84 h (d.setWidth 6) a (b.setWidth 6) (f := vf k (BitVec.ofNat 5 t)) (x := x))
  | .vstx h k a b c x => some (mkRaw 0x85 h 0 a (b.setWidth 6) (c.setWidth 6) (f := vf k 0) (x := x))
  | .amoadd h dbl d a b x => some (mkRaw 0x86 h d a b (f := bit8 dbl 0) (x := x))
  | .amoswp h dbl d a b x => some (mkRaw 0x87 h d a b (f := bit8 dbl 0) (x := x))
  | .amocas h dbl d a b c x => some (mkRaw 0x88 h d a b c (f := bit8 dbl 0) (x := x))
  | .amomin h dbl u d a b x => some (mkRaw 0x89 h d a b (f := bit8 dbl 0 ||| bit8 u 1) (x := x))
  | .amomax h dbl u d a b x => some (mkRaw 0x8A h d a b (f := bit8 dbl 0 ||| bit8 u 1) (x := x))
  | .amoand h dbl d a b x => some (mkRaw 0x8B h d a b (f := bit8 dbl 0) (x := x))
  | .amoor h dbl d a b x => some (mkRaw 0x8C h d a b (f := bit8 dbl 0) (x := x))
  | .xwsp h d a => some (mkRaw 0x8D h d a)
  | .xwspTask h d a => some (mkRaw 0x8D h d a (f := 1))
  | .mfc h d r b => some (mkRaw 0x8E h d (x := (b ++ r).setWidth 48))
  | .mtc h a r b => some (mkRaw 0x8F h 0 a (x := (b ++ r).setWidth 48))
  | .trap h x => some (mkRaw 0x90 h (x := x.setWidth 48))
  | .rte h => some (mkRaw 0x91 h)
  | .svc h x => some (mkRaw 0x92 h (x := x.setWidth 48))
  | .halt h => some (mkRaw 0x93 h)
  | .fence h fr dst => some (mkRaw 0x94 h (x := (dst ++ (0 : BitVec 1) ++ fr).setWidth 48))
  | .dbgBrk h x => some (mkRaw 0x95 h (x := x.setWidth 48))
  | .dbgMark h x => some (mkRaw 0x95 h (f := 1) (x := x.setWidth 48))
  | .railUp h => some (mkRaw 0x96 h)
  | .railDn h => some (mkRaw 0x96 h (f := 1))
  | .yieldm h d a => some (mkRaw 0x97 h d a)
  | .pwrst h d => some (mkRaw 0x98 h d)
  | .mbld h n => some (mkRaw 0xA0 h (x := n.setWidth 48))
  | .mbsel h n => some (mkRaw 0xA1 h (x := n.setWidth 48))
  | .mmac h mode t a n ks => some (mkRaw 0xA2 h (t.setWidth 6) a (f := mode) (x := (ks ++ n).setWidth 48))
  | .mzero h f32 d => some (mkRaw 0xA3 h (d.setWidth 6) (f := bit8 f32 0))
  | .mbias h row d b => some (mkRaw 0xA4 h (d.setWidth 6) 0 (b.setWidth 6) (f := bit8 row 0))
  | .mdrain h a b c it nd => some (mkRaw 0xA5 h 0 (a.setWidth 6) b c (x := itinX it nd))
  | .mdrainWake h a b c it nd => some (mkRaw 0xA5 h 0 (a.setWidth 6) b c (f := 1) (x := itinX it nd))
  | .msave h a b => some (mkRaw 0xA6 h 0 (a.setWidth 6) b)
  | .mrestore h d b => some (mkRaw 0xA7 h (d.setWidth 6) 0 b)
  | .mchk h sel d a => some (mkRaw 0xA8 h d (a.setWidth 6) (f := BitVec.ofNat 8 sel))
  | .mstat h d fm =>
      match fm with
      | .tile a => some (mkRaw 0xA9 h d (a.setWidth 6))
      | .eng => some (mkRaw 0xA9 h d (f := 1))
  | .ldr h fm a x => some (mkRaw 0xB0 h fm.d a (f := fm.f) (m := fm.m) (x := x))
  | .str h fm a x =>
      match fm with
      | .scalar sz b => some (mkRaw 0xB1 h 0 a b (f := BitVec.ofNat 8 sz) (x := x))
      | .vec b m => some (mkRaw 0xB1 h 0 a (b.setWidth 6) (f := 16) (m := m) (x := x))
  | .send h fm a it nd =>
      match fm with
      | .v b m => some (mkRaw 0xB2 h 0 a (b.setWidth 6) (m := m) (x := itinX it nd))
      | .d b => some (mkRaw 0xB2 h 0 a b (f := 1) (x := itinX it nd))
  | .rld h fm a it nd =>
      match fm with
      | .v t d => some (mkRaw 0xB3 h (d.setWidth 6) a (f := BitVec.ofNat 8 t) (x := itinX it nd))
      | .d d => some (mkRaw 0xB3 h d a (f := 16) (x := itinX it nd))
  | .ramo h op dbl d a b c it nd => some (mkRaw 0xB4 h d a b c (f := ramoF op dbl) (x := itinX it nd))
  | .wake h b it => some (mkRaw 0xB5 h 0 0 b (x := itinX it 0))
  | .waitw h itc d a b x => some (mkRaw 0xB6 h d a b (f := bit8 itc 0) (x := x.setWidth 48))
  | .mapr h d a x => some (mkRaw 0xB7 h d a (x := x.setWidth 48))
  | .itchk h f d it => some (mkRaw 0xB8 h d (f := BitVec.ofNat 8 f) (x := itinX it 0))
  | .sbw h dir dat a x => some (mkRaw 0xC0 h 0 a dat.b (dir.getD 0) (f := bit8 dat.isV 0 ||| bit8 dir.isSome 1) (m := dat.m) (x := x))
  | .sbamo h op dbl d a b c x => some (mkRaw 0xC1 h d a b c (f := ramoF op dbl) (x := x))
  | .sbd h fm a x => some (mkRaw 0xC2 h fm.d a (f := fm.f) (m := fm.m) (x := x))
  | .sbmap h n => some (mkRaw 0xC3 h (x := n.setWidth 48))
  | .sbseq h f d => some (mkRaw 0xC4 h d (f := BitVec.ofNat 8 f))
  | .stairw h dn b => some (mkRaw 0xC5 h 0 0 (b.setWidth 6) (f := bit8 dn 0))
  | .stairr h dn d => some (mkRaw 0xC6 h (d.setWidth 6) (f := bit8 dn 0))
  | .stairf h dn d => some (mkRaw 0xC7 h d (f := bit8 dn 0))
  | .tgate h d a b => some (mkRaw 0xC8 h d a b)
  | .twake h d a => some (mkRaw 0xC9 h d a)
  | .pil h fm a b x => some (mkRaw 0xD0 h fm.d a b (f := fm.f) (m := fm.m) (x := x))
  | .pos h dat a c x => some (mkRaw 0xD1 h 0 a dat.b c (f := bit8 dat.isV 0) (m := dat.m) (x := x))
  | .stampH h b n => some (mkRaw 0xD2 h 0 0 b (x := n.setWidth 48))
  | .stampO h b c => some (mkRaw 0xD2 h 0 0 b c (f := 1))
  | .stale h q d n => some (mkRaw 0xD3 h d (f := bit8 q 0) (x := n.setWidth 48))
  | .scnr h f d => some (mkRaw 0xD4 h d (f := f.setWidth 8))
  | .ingst h d fm =>
      match fm with
      | .rx w => some (mkRaw 0xD5 h d (x := w.setWidth 48))
      | .drop => some (mkRaw 0xD5 h d (f := 1))
  | .cpy h dir d a b c n win => some (mkRaw 0xD6 h d a b c (f := dir.setWidth 8) (x := (win ++ n).setWidth 48))
  | .rcptw h d ring win => some (mkRaw 0xD7 h d (x := (win ++ (0 : BitVec 6) ++ ring).setWidth 48))
  | .rcptr h d ring => some (mkRaw 0xD8 h (d.setWidth 6) (x := ring.setWidth 48))
  | .tlbwW h a b n => some (mkRaw 0xD9 h 0 a b (x := n.setWidth 48))
  | .tlbwRes h a b => some (mkRaw 0xD9 h 0 a b (f := 1))
  | .tlbi h fm =>
      match fm with
      | .va a => some (mkRaw 0xDA h 0 a)
      | .idx n => some (mkRaw 0xDA h (f := 1) (x := n.setWidth 48))
      | .all => some (mkRaw 0xDA h (f := 2))
  | .xlget h d => some (mkRaw 0xDB h d)
  | .jyld h => some (mkRaw 0xDC h)
  | .jbud h f d => some (mkRaw 0xDD h d (f := BitVec.ofNat 8 f))
  | .preqStop h d a b => some (mkRaw 0xDE h d a b)
  | .preqRel h d a b => some (mkRaw 0xDE h d a b (f := 1))
  | .psend h wk dat a c it nd => some (mkRaw 0xE0 h 0 a dat.b c (f := bit8 dat.isV 0 ||| bit8 wk 1) (m := dat.m) (x := itinX it nd))
  | .pdigAdd h a b x => some (mkRaw 0xE1 h 0 a b (x := x))
  | .pdigRd h d => some (mkRaw 0xE1 h d (f := 1))
  | .prole h d => some (mkRaw 0xE2 h d)
  | .ptakeTake h d => some (mkRaw 0xE3 h d)
  | .ptakeResign h d => some (mkRaw 0xE3 h d (f := 1))
  | _ => none

/-- The encoder: the word of a well-formed instruction; none for an event row and for operands that no word encodes. -/
def encode (i : Instr) : Option (BitVec 96) := if i.wordOk then (rawOf i).map Raw.toWord else none

/-- The head (W and guard) of an instruction word; none for an event row. -/
def Instr.head? (i : Instr) : Option Hd := (rawOf i).map fun r => r.h

/-- The instruction that the decoder reads from `nbits` bits `w` of a slot, the bits above zero (02 R32: slot k is stored
little-endian, so bit 0 of the word is bit 0 of its first byte). -/
def decodeTableWord (nbits w : Nat) : Option Instr :=
  match decodeWord (BitVec.ofNat 96 (w % 2 ^ nbits)) with
  | .ok i => some i
  | .error _ => none

end Sys2Proof
end

