-- ==== Sys2Proof/Machine/Turn.lean ====
section
/-! DEFINITION. A berth's turn: the fetch of its group with the checks of 02 R50, the waymark, and which event the turn is. -/

namespace Sys2Proof.Machine

/-- First slots of the pairs of a pairing template (02 R34). -/
def pairStarts : Nat → List Nat
  | 1 => [0]
  | 2 => [1]
  | 3 => [2]
  | 4 => [3]
  | 5 => [0, 2]
  | 6 => [0, 3]
  | 7 => [1, 3]
  | _ => []

/-- A fetch line's fields (02 R32). -/
def lineSlot (l : BitVec 512) (k : Nat) : BitVec 96 := l.extractLsb' (96 * k) 96
def lineTmask (l : BitVec 512) : BitVec 5 := l.extractLsb' 507 5
def linePtmpl (l : BitVec 512) : Nat := (l.extractLsb' 503 4).toNat

/-- Whether bits hold an odd number of ones. -/
def oddOnes (n v : Nat) : Bool := (List.range n).foldl (fun p i => p != v.testBit i) false

def lparBad (l : BitVec 512) : Bool := oddOnes 17 (l.extractLsb' 480 1 ++ l.extractLsb' 496 16).toNat

def sparBad (l : BitVec 512) (k : Nat) : Bool :=
  (List.range 3).any fun j => oddOnes 33 (l.extractLsb' (481 + 3 * k + j) 1 ++ l.extractLsb' (96 * k + 32 * j) 32).toNat

/-- The group that holds a slot: its first slot, its words, and whether the slot is its second word. A PTMPL of 8 or above defines no group,
and the parity check comes before the check of PTMPL: the slot named counts alone, so its SPAR alone is checked (02 R33; A56, DESIGN
CHOICE). -/
def groupOf (ptmpl slot : Nat) : Nat × Nat × Bool :=
  if (pairStarts ptmpl).contains slot then (slot, 2, false)
  else if 0 < slot && (pairStarts ptmpl).contains (slot - 1) then (slot - 1, 2, true)
  else (slot, 1, false)

/-- A fetched group: its words with their places, the PC of the group after it, and whether a word has W = 1. -/
structure Group where
  words : List (Nat × BitVec 96)
  next : Nat
  wmark : Bool
  deriving DecidableEq, Repr

/-- A failed fetch: the trap, and the line whose refetch starts (02 R38). -/
structure FetchFail where
  info : TrapInfo
  refetch : Option Nat := none
  deriving DecidableEq, Repr

def lineFault (sub : BitVec 8) (tinfo tipc : Nat) : FetchFail :=
  { info := { cause := 2, sub := sub, tinfo := BitVec.ofNat 32 tinfo, tipc := tipc } }

/-- A word counts as class S or O in the pair check; NOP and unassigned opcodes count as either (02 R35). -/
def wordCls (w : BitVec 96) : Cls := clsOf (w.extractLsb' 88 8)

/-- Checks 3 to 5 of 02 R50 and the group. `br` is the PC of the branch that named `pc`. An illegal pair has no one failing word: TIPC
of SUB 0x03 is the PC fetched, that of the pair's first slot (A17, DEDUCED). TRAP or SVC beside another S word fails SUB 0x03 here and SUB
0x09 of 07 R170, both at step 5, with no order given: SUB 0x03 is reported (A56, DESIGN CHOICE). -/
def checkLine (l : BitVec 512) (pc : Nat) (br : Option Nat) : Except FetchFail Group :=
  let line := pc / 8
  let slot := pc % 8
  let (st, n, second) := groupOf (linePtmpl l) slot
  if l.extractLsb' 496 7 ≠ 0 then .error (lineFault 2 line pc)
  else if 8 ≤ linePtmpl l then .error (lineFault 1 line pc)
  else if (pairStarts (linePtmpl l)).any fun k => (lineTmask l).getLsbD (k + 1) then .error (lineFault 5 line pc)
  else
    match br with
    | some from_ =>
      if second || 5 ≤ slot || !(lineTmask l).getLsbD slot then .error (lineFault 4 pc from_) else group line st n
    | none => if second || 5 ≤ slot then .error (lineFault 8 pc pc) else group line st n
where
  group (line st n : Nat) : Except FetchFail Group :=
    let ws := (List.range n).map fun k => (k, lineSlot l (st + k))
    let maj (w : Nat × BitVec 96) : Nat := (w.2.extractLsb' 88 8).toNat
    if n = 2 && ((ws.all fun w => wordCls w.2 = .s) || ws.all fun w => wordCls w.2 = .o) then .error (lineFault 3 line pc)
    else if n = 2 && (ws.any fun w => maj w = 0x90 || maj w = 0x92) && !(ws.any fun w => maj w = 0) then .error (lineFault 9 line pc)
    else
      .ok { words := ws, next := if st + n < 5 then pc + n else (line + 1) * 8,
            wmark := ws.any fun w => w.2.getLsbD 87 }

namespace State

/-- The line as the code store holds it. -/
def lineAt (s : State) (core line : Nat) : BitVec 512 := BitVec.ofNat 512 (s.readRaw (codeKey core (line * 64)) 64)

/-- Checks 1 to 5 of 02 R50 for the berth's next group. Past line 4,095 no word has failed: TIPC of SUB 0x07 is the PC of the last group
issued (A17, DEDUCED). -/
def fetch (s : State) (c b : Nat) : Except FetchFail Group :=
  let x := s.berth c b
  let k := s.core c
  let line := x.pc / 8
  let parity (sub : BitVec 8) (slot : Nat) (re : Option Nat) (tipc : Nat := x.pc) : Except FetchFail Group :=
    .error { info := { cause := 3, sub := sub, tinfo := BitVec.ofNat 32 line, tcoord := BitVec.ofNat 64 slot, tipc := tipc },
             refetch := re }
  if 4096 ≤ line then .error (lineFault 7 4095 x.lastPc)
  else if k.refetch.contains line then parity 4 0 none
  else if k.deadLines.contains line then parity 3 0 none
  else
    let l := s.lineAt c line
    if l = BitVec.allOnes 512 then
      .error { info := { cause := 1, sub := 2, tinfo := BitVec.ofNat 32 line, tipc := x.pc } }
    else if lparBad l then parity 2 0 (some line)
    else
      let (st, n, _) := groupOf (linePtmpl l) (x.pc % 8)
      match (List.range n).find? fun i => st + i < 5 && sparBad l (st + i) with
      | some i => parity 1 (st + i) (some line) (8 * line + st + i)
      | none => checkLine l x.pc x.branch

end State

/-! ## Checks 6 f and g, and privilege (02 R50) -/

/-- The first field that names s(i+32) while DUP bit i is set (01 R21), in the order D, A, B, C. -/
def dupNamed (dup : Nat) (w : BitVec 96) : Option (BitVec 6) :=
  let r := Raw.ofWord w
  match fmtOf r.maj with
  | none => none
  | some fm =>
    match specOf r.maj.toNat (r.fOf fm) r.x with
    | none => none
    | some sp =>
      (([(sp.d, r.d), (sp.a, r.a), (sp.b, r.b), (sp.c, r.c)].filter fun e => e.1 = .s).map fun e => e.2).find? fun n =>
        33 ≤ n.toNat && dup.testBit (n.toNat - 32)

/-- MFC and MTC name a register that they may (check g). -/
def regNamedOk (own : Nat) (w : BitVec 96) : Bool :=
  let r := Raw.ofWord w
  let n := r.x.toNat % 256
  let b := r.x.toNat / 256 % 16
  if r.maj = 0x8E || r.maj = 0x8F then
    match regScope n with
    | none => false
    | some perBerth => (perBerth || b = 0) && (r.maj = 0x8E || (regWritable n && !(n = 2 && b = own)))
  else true

/-- Privileged opcodes (02 R50). -/
def majPrivileged (maj : Nat) : Bool :=
  [0x8D, 0x91, 0xC3, 0xD9, 0xDA, 0xDB, 0xDE, 0xE3, 0xC8, 0xC9, 0x97].contains maj

def wordPrivileged (w : BitVec 96) : Bool :=
  let r := Raw.ofWord w
  majPrivileged r.maj.toNat || (r.maj = 0x8F && regPrivileged (r.x.toNat % 256))

/-- MAJ and the register number of MFC and MTC, as TINFO shows them. -/
def regInfo (w : BitVec 96) : BitVec 32 := ((w.extractLsb' 0 8 ++ w.extractLsb' 88 8).setWidth 32)

namespace State

/-- Check 6 on one word: the instruction, or its cause, SUB and TINFO. -/
def decodeChecked (s : State) (w : BitVec 96) : Except (BitVec 8 × BitVec 8 × BitVec 32) Instr :=
  match decodeWord w with
  | .error e => .error (1, e.sub, e.tinfo)
  | .ok i =>
    match dupNamed (s.dupOf s.wsBase) w with
    | some r => .error (1, 1, r.setWidth 32)
    | none =>
      if !regNamedOk s.cur.berth w then .error (1, 8, regInfo w)
      else if wordPrivileged w && !s.cur.mode then
        .error (0x16, 1, if w.extractLsb' 88 8 = 0x8F then regInfo w else (w.extractLsb' 88 8).setWidth 32)
      else .ok i

/-- Check 6 on every word, the lower slot first: the state with the group's instructions in hand, or the trap taken. -/
def decodeGroup (s : State) : List (Nat × BitVec 96) → List (Nat × Instr) → State
  | [], done => { s with words := done.reverse }
  | (k, w) :: ws, done =>
    match s.decodeChecked w with
    | .ok i => s.decodeGroup ws ((k, i) :: done)
    | .error (cause, sub, tinfo) => { s with cur := { s.cur with slot := k } }.raise cause sub tinfo

end State

namespace State

/-- The cycle in which the fault of an instruction whose unit is read after issue is decided (07 R157): the sample cycle of its access,
or of the last segment of a VLDX. With its guard false nothing is read. -/
def lateAt (s : State) (i : Instr) : Option Nat :=
  let at_ (h : Hd) (n : Nat) : Option Nat := if s.guardVal h then some (s.acc + n) else none
  match i with
  | .ld h .. | .vld h .. | .amoadd h .. | .amoswp h .. | .amocas h .. | .amomin h .. | .amomax h .. | .amoand h .. | .amoor h ..
  | .stairr h .. | .rcptr h .. | .xlget h .. => at_ h 2
  | .vldx h _ k .. => ((List.range 8).filter fun j => (s.mreg k).getLsbD (32 * j)).getLast?.bind fun j => at_ h (2 + j)
  | _ => none

/-- The context of a group at its issue. -/
def beginGroup (s : State) (c b next : Nat) : State :=
  let x := s.berth c b
  { s with cur := { core := c, berth := b, pc := x.pc, next := next, wsp := x.wsp, mode := x.mode, prevPc := x.lastPc, intrap := x.intrap }, words := [] }

/-- The berth at hand issues the group: WPC at a waymark group (01 R26), then check 6, then PC goes to the next group. A group that fails
checks 1 to 5 sets no WPC, one that fails check 6 does: R26 sets WPC at the group's issue, and the words that hold W have been fetched only
then (A17, DEDUCED). -/
def issueGroup (s : State) (c b : Nat) (g : Group) : State :=
  let x := s.berth c b
  let s := if g.wmark || x.forceWm then (s.modBerth c b fun x => { x with forceWm := false }).setWpc c b x.pc s.acc else s
  let s := (s.beginGroup c b g.next).decodeGroup g.words []
  if s.cur.trapped then s
  else
    let late := (s.words.filterMap fun w => s.lateAt w.2).max?
    let u := late.map fun t => s.undoNow c b t
    { s.modBerth c b fun x => { x with pc := g.next, branch := none, lastPc := x.pc, undo := u } with
      cur := { s.cur with late := late }, kept := s.kept.filter fun e => !(e.core = c && e.berth = b) }

/-- A fetch that fails: a parity failure starts the refetch of its line, to be written back 64 cycles later (02 R38). WPC is not set
(A17). -/
def fetchTrap (s : State) (c b : Nat) (e : FetchFail) : State :=
  let s := (s.beginGroup c b 0).modBerth c b fun x => { x with forceWm := false }
  let s := match e.refetch with
    | some l => (s.modCore c fun k => { k with refetch := setIns k.refetch l }).schedRow (s.acc + 64) phWrite none (.lineRefetchWrite c l)
    | none => s
  let s := s.takeTrap c b s.acc e.info
  { s with cur := { s.cur with trapped := true } }

/-- The berth has the turn of this cycle: the plan uses it, its tier is awake and TTC mod 16 is its number (01 R23, R31). -/
def hasTurn (s : State) (c b : Nat) : Bool :=
  (s.berth c b).used && s.ttcOf c % 16 = b && (s.tier (tierOf c)).power.state < 2

/-- The power controller gates the berth's turn of this cycle, which it does only when the berth is yieldable (06 R147). -/
def isGated (s : State) (c b : Nat) : Bool := s.gateReq.contains (c, b) && (s.core c).yieldNow.getLsbD b

/-- The end of an MMAC puts the berth back into the rotation (09 R193). -/
def reenter (s : State) (c b : Nat) : State :=
  s.modBerth c b fun x => { x with run := 1, backAt := none }

end State

/-- BERTH_TURN (01 R23): the next group is fetched and checked; its words are then in hand, and the step runs them (Machine/Step). A
gated turn is counted and issues nothing (06 R147, R151). A
berth of an ended task takes RUN 0b000 (20 R361); a berth back from an MMAC takes the fault held for it, of which the matrix check is asynchronous (10 R211). -/
def execBerthTurn (b : BId) (s : State) : Res :=
  if !b.ok then .fault .noSuchUnit
  else
    let c := b.core
    let n := b.berth
    let x := s.berth c n
    if !s.hasTurn c n then .next s
    else if x.endAt.isSome then
      .next ((s.discardFrom c n s.acc).modBerth c n fun x => { x with run := 0, wait := .none, endAt := none })
    else if s.isGated c n then .next (s.modBerth c n fun x => { x with gated := satInc 16 x.gated })
    else
      let back := x.run = 3 && x.backAt.any fun a => a ≤ s.acc
      match (if x.heldAt ≤ s.acc then x.held else []) with
      | t :: ts =>
        .next (if x.run = 3 && !back then s
          else (s.modBerth c n fun x => { x with held := ts, backAt := none }).takeTrap c n s.acc t (t.cause = 0x13) true)
      | [] =>
        let s' := if back then s.reenter c n else s
        if !back && x.run ≠ 1 then .next s
        else match s'.fetch c n with
          | .error e => .next (s'.fetchTrap c n e)
          | .ok g => .next (s'.issueGroup c n g)

/-! ## Which event a turn is -/

/-- Receipts of a ring that have taken effect, from RD on, PADs and those that an RCPTR will take not counted (17 R323, R324). -/
def Ring.receipts (r : Ring) : Nat := (r.recs.filter fun x => !x.pad && x.eff.isSome).length - r.claims

namespace State

/-- The next group of a running berth is a waymark group. -/
def atWaymark (s : State) (c b : Nat) : Bool :=
  match s.fetch c b with
  | .ok g => g.wmark || (s.berth c b).forceWm
  | .error _ => false

/-- A load or an atomic whose unit is still to be sampled: its instruction, and the offset and length read. -/
def pendingRead : Act → Option (Org × Nat × Nat)
  | .aux (.load o off n _ _) | .aux (.atomic o off n _ _ _ _ _) => some (o, off, n)
  | .aux (.vload o off _ _ _) => some (o, off, 256)
  | .aux (.vsegs o ((_, off) :: _) _ _ _ _ _) => some (o, off, 32)
  | _ => none

/-- The state of the parity and poison bits after the stores that take effect in this cycle. -/
def marksAfterStores (s : State) : State :=
  s.agenda.foldl (fun t e => match e.act with
    | .row (.storeEffect w) =>
      if e.at_ = s.acc && spaceOf w.key = .ws then (unitsOf 4 w.key w.len).foldl (fun t u => t.unitMark w.key w.mask w.psn u) t else t
    | _ => t) s

/-- Another berth of the task has issued a load or an atomic whose fault, decided at its sample, ends the task from the cycle of that issue
on: poison, or in a handler a parity failure (07 R157, R168, 20 R361). The berth then does not issue (A11). -/
def doomed (s : State) (c b : Nat) : Bool :=
  if s.psnUnits.isEmpty && s.badUnits.isEmpty then false
  else
    let t := s.marksAfterStores
    s.agenda.any fun e => match pendingRead e.act with
      | some (o, off, n) =>
        let key := wsKey o.core off
        let bad := (t.checkParity key n).2.isSome
        let psn := match e.act with
          | .aux (.load ..) | .aux (.atomic ..) => (t.psnFirst key n).isSome
          | _ => false
        o.issue < s.acc && !(o.core = c && o.berth = b) && s.taskOf o.core o.berth = s.taskOf c b
          && (if bad || psn then psn && !bad || (s.berth o.core o.berth).undo.any fun u => u.intrap else false)
      | none => false

/-- The wait of a berth is over at this turn: the event that ends it (04 R98 to R100, 11 R239, 17 R323). -/
def waitEvent (s : State) (c b : Nat) : Option Instr :=
  match (s.berth c b).wait with
  | .none => none
  | .cycle a => if a ≤ s.acc then some (.waitEnd ⟨c, b⟩) else none
  | .ttc t => if t ≤ s.ttcOf c then some (.waitEnd ⟨c, b⟩) else none
  | .itc t => if t ≤ s.itc c b then some (.waitEnd ⟨c, b⟩) else none
  | .wakes _ isl t seen _ =>
    if 0 < ((s.berth c b).wcnt - seen).toInt then some (.waitwWakeSeen ⟨c, b⟩)
    else if t ≤ (if isl then s.itc c b else s.ttcOf c) then some (.waitwDeadline ⟨c, b⟩)
    else none
  | .receipts _ r fin _ =>
    if 0 < ((s.core c).rings.get {} r).receipts then some (.rcptwReceiptSeen ⟨c, b⟩)
    else if fin ≤ s.ttcOf c then some (.rcptwDeadline ⟨c, b⟩)
    else none

/-- The event of the turn of core c in this cycle, if it has one. A gated turn still stops a berth (07 R172, 20 R361). A deferred
pre-emption waits for a waymark group, RTE or RESYNC, whatever MTC has made of INTRAP (07 R173). -/
def turnOf (s : State) (c : Nat) : Option Instr :=
  let b := s.ttcOf c % 16
  let x := s.berth c b
  if !s.hasTurn c b || s.doomed c b then none
  else if x.endAt.isSome then some (.berthTurn ⟨c, b⟩)
  else match s.dueStop x with
    | some r =>
      if x.run = 0 || x.run = 2 || !x.pdef then some (.preemptionStop ⟨c, b⟩ r.sub) else running b x
    | none => running b x
where
  running (b : Nat) (x : Berth) : Option Instr :=
    if s.isGated c b then (if x.run = 1 || x.run = 4 || x.run = 3 && x.backAt.any fun a => a ≤ s.acc then some (.berthTurn ⟨c, b⟩) else none)
    else if x.overDue && (x.run = 1 || x.run = 4) then some (.scanOverrun ⟨c, b⟩)
    else if !x.held.isEmpty && x.heldAt ≤ s.acc && (x.run = 1 || x.run = 4) then some (.berthTurn ⟨c, b⟩)
    else if x.run = 4 then s.waitEvent c b
    else if x.run = 3 then (if x.backAt.any fun a => a ≤ s.acc then some (.berthTurn ⟨c, b⟩) else none)
    else if x.run = 1 then
      if (x.pdef || !x.intrap && x.queue.any fun e => e.wsp = x.wsp) && s.atWaymark c b then
        some (if x.pdef then .deferredPreemption ⟨c, b⟩ else .asyncTrapDelivery ⟨c, b⟩)
      else some (.berthTurn ⟨c, b⟩)
    else none

end State

/-- After these events the berth still has its turn: a wait that is over issues in the same turn, and a stop may be deferred. -/
def keepsTurn : Instr → Bool
  | .preemptionStop .. | .waitEnd .. | .waitwWakeSeen .. | .rcptwReceiptSeen .. => true
  | _ => false

end Sys2Proof.Machine
end

