-- ==== Sys2Proof/Machine/Mesh.lean ====
section
/-! DEFINITION. The mesh: gazetteer, itineraries and their checks, LDR, STR, SEND, RLD, RAMO, WAKE, WAITW, MAPR, ITCHK and the
events of their packets (11 R219 to R242). -/

namespace Sys2Proof.Machine

/-! ## The gazetteer (11 R228) -/

namespace State

/-- The position is out of service for a partition: its cluster is DEGRADED, or was outside the partition when its plan was loaded. -/
def posOut (s : State) (p tier m : Nat) : Bool :=
  let c := coreAtMesh tier m
  (s.cluster (clusterOf c)).health = 2 || !(s.part p).gazMask.getLsbD (c / 4)

/-- Logical tier of an E96 tier as the partition's gazetteer shows it. -/
def gazTier (s : State) (p t : Nat) : Nat :=
  let own := (List.range 6).filter fun t => (s.part p).gazMask.toNat / 2 ^ (4 * t) % 16 ≠ 0
  (own.findIdx? (· = t)).getD 7

/-- LINK of a mesh position: bits N, E, S, W and the room port; a direction that leaves the mesh reads 0. -/
def linkBits (s : State) (tier m : Nat) : Nat :=
  let closed := (s.tier tier).closed.get 0 m
  (List.range 5).foldl (fun v i =>
    if (i = 4 || (meshStep m (i + 1)).isSome) && !closed.getLsbD i then v + 2 ^ i else v) 0

/-- TURN of a mesh position; every turn but a reversal after reset. -/
def turnBits (s : State) (tier m : Nat) : BitVec 16 := (s.tier tier).turns.get 0xDE7B m

/-- A packet that arrived by direction a may leave by direction b (1 N, 2 E, 3 S, 4 W). -/
def turnOk (s : State) (tier m a b : Nat) : Bool := (s.turnBits tier m).getLsbD (4 * (a - 1) + (b - 1))

/-- Gazetteer word n of a tier as a partition reads it. -/
def gazWord (s : State) (p tier n : Nat) : Nat :=
  if n = 16 then s.gazTier p tier + 256 + 2 ^ 32 * ((s.tier tier).gen % 2 ^ 32)
  else
    let c := coreAtMesh tier n
    s.siteOf c + 8 * (s.siteOf c = 4 : Bool).toNat + 16 * (s.posOut p tier n).toNat + 256 * s.linkBits tier n
      + 2 ^ 16 * (s.turnBits tier n).toNat + 2 ^ 32 * 2

end State

/-! ## Itineraries (11 R221 to R224) -/

/-- HOP(k) for k = 1 to 13; 0 beyond. -/
def hopAt (it : Itin) (k : Nat) : Nat := (it.hops >>> (3 * (k - 1))).toNat % 8

/-- The last hop code that is not zero is UP: the kind of the destination by the word alone (11 R233). -/
def itinUp (it : Itin) : Bool :=
  match ((List.range 13).map fun k => hopAt it (13 - k)).find? (· ≠ 0) with
  | some c => c = 5
  | none => false

/-- Where a legal itinerary leads: its mesh hops, whether it goes up, and the mesh index where it ends. -/
structure Route where
  hops : List Nat
  up : Bool
  dest : Nat
  deriving DecidableEq, Repr

/-- A route fault: SUB, TINFO [3:0], TINFO [7:4], TCOORD [3:0], TINFO [8]. -/
structure RouteFault where
  sub : Nat
  k : Nat := 0
  dir : Nat := 0
  pos : Nat
  back : Bool := false
  deriving DecidableEq, Repr

/-- What an instruction asks of its itinerary beyond steps 1 to 3 of 11 R223. -/
inductive Shape where
  | plain | noUp | reply
  deriving DecidableEq, Repr

namespace State

/-- Step 2 of 11 R223 from hop k on: `fuel` hops are left, the packet is at mesh index m, `ended` says that it has ended or gone up. -/
def walkCheck (s : State) (tier : Nat) (it : Itin) (k m : Nat) (ended : Bool) (up : Bool) (hops : List Nat) :
    Nat → Except RouteFault Route
  | 0 => .ok { hops := hops.reverse, up := up, dest := m }
  | fuel + 1 =>
    let c := hopAt it k
    let bad (sub pos : Nat) : Except RouteFault Route := .error { sub := sub, k := k, dir := c, pos := pos }
    if 6 ≤ c then bad 2 m
    else if c = 0 then s.walkCheck tier it (k + 1) m true up hops fuel
    else if ended then bad 3 m
    else if !(s.linkBits tier m).testBit (c - 1) then bad 4 m
    else if c = 5 then s.walkCheck tier it (k + 1) m true true hops fuel
    else
      let m' := (meshStep m c).getD m
      let n := if k < 13 then hopAt it (k + 1) else 0
      if 1 ≤ n && n ≤ 4 && !s.turnOk tier m' c n then bad 5 m'
      else s.walkCheck tier it (k + 1) m' false up (c :: hops) fuel

/-- Step 5: the reverse path, from hop h down to hop 1; at each position its turn, then its link. -/
def backCheck (s : State) (tier start : Nat) (hops : List Nat) : Option RouteFault :=
  let pos := meshWalk start hops
  let h := hops.length
  (List.range h).findSome? fun i =>
    let k := h - i
    let m := pos.getD k 0
    let d := oppDir (hops.getD (k - 1) 0)
    let f (sub : Nat) : RouteFault := { sub := sub, k := k, dir := d, pos := m, back := true }
    if k < h && !s.turnOk tier m (oppDir (hops.getD k 0)) d then some (f 5)
    else if !(s.linkBits tier m).testBit (d - 1) then some (f 4)
    else none

/-- The checks of 11 R223, in their order, for an itinerary that starts at a core. -/
def routeCheck (s : State) (core : Nat) (it : Itin) (shape : Shape) : Except RouteFault Route :=
  let tier := tierOf core
  let m := meshIdx core
  if oddOnes 40 (it.hops.toNat + 2 ^ 39 * it.ipar.toNat) then .error { sub := 1, pos := m }
  else match s.walkCheck tier it 1 m false false [] 13 with
    | .error e => .error e
    | .ok r =>
      if s.posOut (s.partOf core) tier r.dest then .error { sub := 6, pos := r.dest }
      else match shape with
        | .plain => .ok r
        | .noUp => if r.up then .error { sub := 7, pos := r.dest } else .ok r
        | .reply => match s.backCheck tier m r.hops with
          | some f => .error f
          | none => .ok r

end State

/-- TINFO of a route fault. -/
def RouteFault.tinfo (f : RouteFault) : Nat := f.k + 16 * f.dir + 256 * f.back.toNat

/-- The route fault at issue. -/
def State.raiseRoute (s : State) (f : RouteFault) : State :=
  s.raise 0xC (BitVec.ofNat 8 f.sub) (BitVec.ofNat 32 f.tinfo) (BitVec.ofNat 64 f.pos)

/-- The core below or at the end of a route. -/
def Route.core (r : Route) (tier : Nat) : Nat := coreAtMesh tier r.dest

/-! ## LDR and STR (11 R234) -/

/-- Bytes and alignment of a destination form. -/
def ldFormSize : LdForm → Nat × Nat
  | .scalar sz _ => ((ldSize sz).1, (ldSize sz).1)
  | .vec .. => (256, 32)

def ldFormSrcs : LdForm → List Src
  | .scalar .. => []
  | .vec _ _ m => [.m m]

/-- Active mask of a destination form. -/
def State.ldFormMask (s : State) : LdForm → Mask
  | .scalar .. => 0
  | .vec _ _ m => s.mreg m

def stFormSize : StForm → Nat × Nat
  | .scalar sz _ => (stSize sz, stSize sz)
  | .vec .. => (256, 32)

def stFormSrcs : StForm → List Src
  | .scalar _ b => [.s b]
  | .vec b m => [.v b, .tag b, .m m]

/-- Data, byte mask and poison mask of a source form. -/
def State.stFormData (s : State) : StForm → Nat × Nat × Nat
  | .scalar sz b => ((s.sreg b).toNat % 2 ^ (8 * stSize sz), ones (stSize sz), 0)
  | .vec b m => ((s.vreg b).toNat, (s.mreg m).toNat, s.carryPsn b (s.mreg m).toNat)

namespace State

/-- Lands what a load read at `key`, at cycle `at_`: an active element that meets poison gives tag 15, a scalar that does lands
nothing and queues a poison trap (11 R234, R236). `psn i n` says whether bytes i to i + n - 1 are poisoned. -/
def landForm (s : State) (o : Org) (at_ : Nat) (form : LdForm) (mask : Mask) (v : Nat) (psn : Nat → Nat → Bool) (sub : BitVec 8)
    (tinfo : BitVec 32) : State :=
  match form with
  | .scalar sz d =>
    let (n, sg) := ldSize sz
    if psn 0 n then s.queueFor o 6 sub tinfo
    else s.schedRow at_ phLand (some o) (.landing { org := o, dests := [.s d (extLoad n sg v)], flags := 0 })
  | .vec tag d _ =>
    let t := BitVec.ofNat 4 tag.val
    let w := tagWidth t
    let bad := (List.range (256 / w)).any fun i => active mask w i && psn (w * i) w
    s.schedRow at_ phLand (some o)
      (.landing { org := o, dests := [.v d (BitVec.ofNat 2048 v) (lanesOf w (256 / w) (active mask w)) (if bad then 15 else t)],
                  flags := 0 })

/-- A trap of a berth's own access at its port, whose trap cycle is the access cycle (06 R146, 11 R232). -/
def portTrap (s : State) (o : Org) (t : TrapInfo) : State := s.takeTrap o.core o.berth s.acc t

/-- LDR at its sample cycle. -/
def roomLoadEvent (s : State) (o : Org) (off : Nat) (form : LdForm) (mask : Mask) : State :=
  let key := roomKey o.core off
  match s.cur.denied with
  | some den => s.portTrap o (s.bankInfo key den 1 o.pc)
  | none =>
    let n := (ldFormSize form).1
    let (s, bond) := s.bondSpan o.core key n
    let s := s.countRead key n
    s.landForm o (o.issue + 36) form mask (s.readAs clsT key n) (fun i n => bond / 2 ^ i % 2 ^ n ≠ 0 || s.tainted (key + i) n) 3
      (BitVec.ofNat 32 off)

end State

/-- The checks of LDR and STR on the room-local address: alignment, then the range. -/
def roomOp (h : Hd) (srcs : List Src) (a : SReg) (x : BitVec 48) (size align : Nat) (s : State) (f : State → Nat → State) : Res :=
  issueOp h (.s a :: srcs) s fun s =>
    let ea := (s.ea a x).toNat
    if ea % align ≠ 0 then s.raiseFree 8 6
    else if 2 ^ 24 < ea + size then s.raiseFree 7 0x13
    else f s ea

def execLdr (h : Hd) (form : LdForm) (a : SReg) (x : BitVec 48) (s : State) : Res :=
  let (n, al) := ldFormSize form
  roomOp h (ldFormSrcs form) a x n al s fun s off =>
    s.schedAux (s.acc + 20) phSample (some s.here) (.roomLoad s.here off form (s.ldFormMask form))

def execStr (h : Hd) (form : StForm) (a : SReg) (x : BitVec 48) (s : State) : Res :=
  let (n, al) := stFormSize form
  roomOp h (stFormSrcs form) a x n al s fun s off =>
    let (v, m, p) := s.stFormData form
    s.schedRow (s.acc + 20) phWrite (some s.here)
      (.roomWriteEffect (.bytes { org := some s.here, key := roomKey s.cur.core off, len := n, data := v, mask := m, psn := p, rank := 1 }))

/-- ROOM_WRITE_EFFECT (11 R231, R234): a core-port write of STR, the write of an atomic already served (rank 0), or a write over the
record port. -/
def execRoomWriteEffect (w : RoomWr) (s : State) : Res :=
  match w with
  | .bytes w =>
    .next (match s.cur.denied with
      | some den => match w.org with
        | some o => s.portTrap o (s.bankInfo w.key den 1 o.pc)
        | none => s
      | none =>
        let (s, bond) := if w.rank = 1 then s.bondSpan (coreOfKey w.key) w.key w.len else (s, 0)
        let s' := s.writeRoom (s.taskOfOrg w.org) w.key w.len w.data (w.mask - s.lostBytes w.key w.len w.mask) (w.psn ||| bond)
        match s.lostPlace w.key w.len w.mask, w.org with
        | some k, some o => if w.rank = 1 then s'.portTrap o (s.lostInfo k o.pc) else s'.queueOrg (some o) (s.lostInfo k o.pc)
        | _, _ => s')
  | .stamp o core h v => if coreOk core then .next (s.writeStamp o false core h v) else .fault .noSuchUnit
  | .sflag o core h => if coreOk core then .next (s.setFlagBit (s.taskOfOrg o) core h 4) else .fault .noSuchUnit
  | .bflag o core h => if coreOk core then .next (s.setFlagBit (s.taskOfOrg o) core h 5) else .fault .noSuchUnit
  | .used key => .next (s.recordPort none (key + 11) 1 (s.readRaw (key + 11) 1 ||| 2))

/-! ## SEND, RLD, RAMO, WAKE (11 R233 to R238) -/

/-- The issue of SEND, RLD and RAMO: alignment, range, then the itinerary. `f` gets the offset and the route. -/
def meshOp (h : Hd) (srcs : List Src) (a : SReg) (it : Itin) (nd : BitVec 8) (size align : Nat) (shape : Shape) (s : State)
    (f : State → Nat → Route → State) : Res :=
  issueOp h (.s a :: srcs) s fun s =>
    let off := (s.sreg a).toNat + 32 * nd.toNat
    if off % align ≠ 0 then s.raiseFree 8 6
    else if (if itinUp it then 2 ^ 24 else 2 ^ 19) < off + size then s.raiseFree 7 0x13
    else match s.routeCheck s.cur.core it shape with
      | .error e => s.raiseRoute e
      | .ok r => f s off r

namespace State

/-- The packet of the instruction at hand. -/
def packet (s : State) (r : Route) (off : Nat) (act : PktAct) : Packet :=
  { id := s.nextId, org := s.here, start := s.cur.core, hops := r.hops, dest := r.core (tierOf s.cur.core), up := r.up, off := off,
    inj := s.acc, act := act }

/-- The cycle at which a packet reaches its place (11 R225). -/
def pktAt (p : Packet) : Nat := p.inj + (if p.up then 11 else 8) + 2 * p.hops.length

/-- Injects a packet on its forward path. -/
def sendPacket (s : State) (p : Packet) (ph beats : Nat) : State :=
  s.inject (pktAt p) ph p.org (.meshPacketDelivery p) (fwdLinks (tierOf p.start) (meshIdx p.start) p.hops p.up p.inj) beats

end State

/-- The place of a packet. -/
def pktKey (p : Packet) : Nat := if p.up then roomKey p.dest p.off else wsKey p.dest p.off

def execSend (h : Hd) (form : SendForm) (a : SReg) (it : Itin) (nd : BitVec 8) (s : State) : Res :=
  match form with
  | .v b m =>
    meshOp h [.v b, .tag b, .m m] a it nd 256 32 .plain s fun s off r =>
      let k := (s.mreg m).toNat
      let p := s.packet r off (.write { org := some s.here, key := 0, len := 256, data := (s.vreg b).toNat, mask := k,
                                        psn := s.carryPsn b k, rank := 3 })
      s.sendPacket p phWrite 4
  | .d b =>
    meshOp h [.s b] a it nd 8 8 .plain s fun s off r =>
      let p := s.packet r off (.write { org := some s.here, key := 0, len := 8, data := (s.sreg b).toNat, mask := 255, psn := 0, rank := 3 })
      s.sendPacket p phWrite 1

def execRld (h : Hd) (form : RldForm) (a : SReg) (it : Itin) (nd : BitVec 8) (s : State) : Res :=
  let (n, al) := match form with
    | .v .. => (256, 32)
    | .d _ => (8, 8)
  meshOp h [] a it nd n al .reply s fun s off r => s.sendPacket (s.packet r off (.read form)) phSample 1

/-- RAMO: a commit point (01 R27). -/
def execRamo (h : Hd) (op : Fin 9) (dbl : Bool) (d a b c : SReg) (it : Itin) (nd : BitVec 8) (s : State) : Res :=
  let n := if dbl then 8 else 4
  let cs : List Src := if op = 2 then [.s c] else []
  meshOp h (.s b :: cs) a it nd n n .reply s fun s off r =>
    (s.sendPacket (s.packet r off (.atomic op dbl d (s.sreg b) (if op = 2 then s.sreg c else 0))) phSample 1).commit

/-- WAKE: a commit point. -/
def execWake (h : Hd) (b : SReg) (it : Itin) (s : State) : Res :=
  issueOp h [.s b] s fun s =>
    match s.routeCheck s.cur.core it .noUp with
    | .error e => s.raiseRoute e
    | .ok r =>
      let t := tierOf s.cur.core
      (s.inject (s.acc + 9 + 2 * r.hops.length) phWrite s.here (.wakeEffect ⟨r.core t, (s.sreg b).toNat % 16⟩)
        (fwdLinks t (meshIdx s.cur.core) r.hops false s.acc) 1).commit

namespace State

/-- The header of a packet fails its check: it is dropped, counted, and its sender takes a route fault (11 R227). The spec gives no
TINFO for it (A15). -/
def dropHeader (s : State) (core : Nat) (o : Org) : State :=
  let s := s.modPosStat core fun p => { p with hdr := satInc 8 p.hdr }
  let (w, s) := s.freeWord
  s.queueFor o 0xC 8 (w.setWidth 32)

/-- Payload flits in error. -/
def flitCount (mask n : Nat) : Nat := ((List.range n).filter fun i => mask.testBit i).length

/-- Counts the payload flits that fail (20 R372). -/
def countFlits (s : State) (core mask n : Nat) : State :=
  let k := flitCount mask n
  if k = 0 then s else s.modPosStat core fun p => { p with flit := min 255 (p.flit + k) }

/-- The link by which a packet reaches its last position, as its LINK bit: tier, mesh index and direction; none for a packet that crosses
no mesh link. -/
def lastLink (tier start : Nat) (hops : List Nat) : Option Nat :=
  hops.getLast?.map fun d => linkId tier ((meshWalk start hops).getD (hops.length - 1) start) d

/-- Notes k flit errors on an incoming link (20 R365). -/
def noteFlits (s : State) (link : Option Nat) (k : Nat) : State :=
  match link with
  | some l => (List.range k).foldl (fun s _ => s.noteFault .flit l) s
  | none => s

/-- A place read over the mesh: its bytes, and whether they are poisoned. A failing unit of a duplicated scalar is repaired first
(01 R22); a parity error poisons (11 R236). -/
def remoteRead (s : State) (key n : Nat) : State × Nat × Bool :=
  match spaceOf key with
  | .ws => match s.checkParity key n with
    | (s, bad) => (s, s.readAs clsT key n, bad.isSome || s.psnUnit key n)
  | _ =>
    let (s, bond) := s.bondSpan (coreOfKey key) key n
    let s := s.countRead key n
    (s, s.readAs clsT key n, bond ≠ 0 || s.tainted key n)

/-- Sends the reply of a read or an atomic (11 R224, R225). -/
def sendReply (s : State) (p : Packet) (d : DVal) (psn : Bool) (beats : Nat) : State :=
  let back := (p.hops.head?.map fun h => linkId (tierOf p.start) ((meshWalk (meshIdx p.start) p.hops).getD 1 0) (oppDir h))
  let r : Reply := { id := p.id, org := p.org, dest := d, psn := psn, room := p.up, tinfo := BitVec.ofNat 32 (p.off % 2 ^ 24), link := back }
  s.inject (p.inj + 22 + 4 * p.hops.length) phLand p.org (.remoteReplyLanding r)
    (backLinks (tierOf p.start) (meshIdx p.start) p.hops p.up p.inj) beats

/-- The write of a packet at its place. -/
def packetWrite (s : State) (p : Packet) (w : Wr) (flits : Nat) : State :=
  let key := (pktKey p)
  let bad := flitBytes flits w.len
  let (s, bond) := if p.up && s.cur.denied.isNone then s.bondSpan p.dest key w.len else (s, 0)
  s.arrive w.org (s.taskOfOrg w.org) key w.len w.data w.mask (w.psn ||| bad ||| bond) 3

/-- The packet is served by its port: what it does. -/
def packetAct (s : State) (p : Packet) (flits : Nat) : State :=
  match p.act with
  | .write w => s.packetWrite p w flits
  | .read form =>
    match s.cur.denied with
    | some den => s.queueOrg (some p.org) (s.bankInfo (pktKey p) den 3 p.org.pc)
    | none =>
      match form with
      | .v tag d =>
        let (s, v, psn) := s.remoteRead (pktKey p) 256
        s.sendReply p (.v d (BitVec.ofNat 2048 v) (BitVec.allOnes 256) (BitVec.ofNat 4 tag.val)) psn 4
      | .d d =>
        let (s, v, psn) := s.remoteRead (pktKey p) 8
        s.sendReply p (.s d (BitVec.ofNat 64 v)) psn 1
  | .atomic op dbl d b c =>
    match s.cur.denied with
    | some den => s.queueOrg (some p.org) (s.bankInfo (pktKey p) den 3 p.org.pc)
    | none =>
      let n := if dbl then 8 else 4
      let (s, v, psn) := s.remoteRead (pktKey p) n
      let sg := !dbl && op ≠ 5 && op ≠ 6
      let new := atomNew op (8 * n) v (b.toNat % 2 ^ (8 * n)) (c.toNat % 2 ^ (8 * n))
      let w : Wr := { org := some p.org, key := (pktKey p), len := n, data := new, mask := ones n, psn := if flits = 0 then 0 else ones n, rank := if p.up then 0 else 3 }
      let s := if psn then s
        else s.schedRow s.acc phWrite (some p.org) (if p.up then .roomWriteEffect (.bytes w) else .storeEffect w)
      s.sendReply p (.s d (extLoad n sg v)) psn 1

end State

/-- MESH_PACKET_DELIVERY (11 R225 to R227, R229). -/
def execMeshPacketDelivery (p : Packet) (s : State) : Res :=
  if !(coreOk p.dest && coreOk p.org.core && p.org.berth < 16) then .fault .noSuchUnit
  else
    let (hdr, flits) := s.flitUpset p.dest
    let link := State.lastLink (tierOf p.start) (meshIdx p.start) p.hops
    .next (if !p.up && s.staleFor p.dest p.inj then s.countDrop p.dest
      else if hdr then (s.noteFlits link 1).dropHeader p.dest p.org
      else ((s.countFlits p.dest flits 32).noteFlits link (State.flitCount flits 32)).packetAct p flits)

/-- REMOTE_REPLY_LANDING (11 R225 to R227, R229, R236): its flits are checked and counted; it lands nothing for a berth whose restart
region has been discarded. -/
def execRemoteReplyLanding (r : Reply) (s : State) : Res :=
  if !(coreOk r.org.core && r.org.berth < 16) then .fault .noSuchUnit
  else if s.staleFor r.org.core r.org.issue then .next (s.countDrop r.org.core)
  else
    let (hdr, flits) := s.flitUpset r.org.core
    if hdr then .next ((s.noteFlits r.link 1).dropHeader r.org.core r.org)
    else
      let s := (s.countFlits r.org.core flits 32).noteFlits r.link (State.flitCount flits 32)
      let bad := r.psn || flits ≠ 0
      .next (if State.discarded (s.berth r.org.core r.org.berth) r.org.issue s.acc then s
        else match r.dest with
        | .v d data lanes tag => s.landOne r.org (.v d data lanes (if bad then 15 else tag))
        | d => if bad then s.queueFor r.org 6 (if r.room then 3 else 2) r.tinfo else s.landOne r.org d)

/-- WAKE takes effect (11 R238). The packet of a WAKE can fail its header check; the flits of its one beat that fail are counted, with the
link by which it came (11 R227, 20 R365). -/
def execWakeEffect (b : BId) (s : State) : Res :=
  if !b.ok then .fault .noSuchUnit
  else
    let wake (s : State) : State := s.modBerth b.core b.berth fun x => { x with wcnt := x.wcnt + 1 }
    match s.cur.org with
    | some o =>
      let (hdr, flits) := s.flitUpset b.core
      let link := ((s.flights.find? fun f => f.org = o).bind fun f => f.links.getLast?).map fun l => l.1
      .next (if s.staleFor b.core o.issue then s.countDrop b.core
        else if hdr then (s.noteFlits link 1).dropHeader b.core o
        else wake ((s.countFlits b.core flits 8).noteFlits link (State.flitCount flits 8)))
    | none => .next (wake s)

/-! ## WAITW (11 R239) -/

def execWaitw (h : Hd) (itc : Bool) (d a b : SReg) (x : BitVec 32) (s : State) : Res :=
  issueOp h [.s a, .s b] s fun s =>
    let t := (s.sreg a).toNat + x.toNat
    let seen := (s.sreg b).setWidth 32
    let c := s.cur.core
    let i := if itc then s.itc c s.cur.berth else s.ttcOf c
    if !itc && s.lenOf c ≤ t then s.raise 0xB 2 0 (State.slipCoord i t)
    else if itc && (s.island? c s.cur.berth).isNone then s.raise 0xB 3 0 (State.slipCoord i t)
    else if 0 < (s.me.wcnt - seen).toInt then s.landS (s.acc + 16) d (s.me.wcnt.setWidth 64)
    else if t ≤ i then s.raise 0xB 9 0 (State.slipCoord i t)
    else s.waitFor (.wakes s.here itc t seen d)

namespace State

/-- A wait ends: the berth runs, and its next group issues in this cycle. -/
def endWait (s : State) (c b : Nat) : State := s.modBerth c b fun x => { x with run := 1, wait := .none }

end State

/-- The turn at which a WAITW sees a wake: WCNT lands now, and the next group issues. -/
def execWaitwWakeSeen (b : BId) (s : State) : Res :=
  if !b.ok then .fault .noSuchUnit
  else
    let x := s.berth b.core b.berth
    .next (match x.wait with
      | .wakes o _ _ _ d =>
        (s.endWait b.core b.berth).schedRow s.acc phLand (some o) (.landing { org := o, dests := [.s d (x.wcnt.setWidth 64)], flags := 0 })
      | _ => s)

/-- The turn at which a WAITW's deadline passes: slip SUB 0x09, with the actual and the planned count (01 R18). -/
def execWaitwDeadline (b : BId) (s : State) : Res :=
  if !b.ok then .fault .noSuchUnit
  else
    .next (match (s.berth b.core b.berth).wait with
      | .wakes o itc t _ _ =>
        let i := if itc then s.itc b.core b.berth else s.ttcOf b.core
        (s.endWait b.core b.berth).takeTrap b.core b.berth s.acc
          { cause := 0xB, sub := 9, tcoord := State.slipCoord i t, tipc := o.pc }
      | _ => s)

/-! ## MAPR and ITCHK (11 R240, R241) -/

def execMapr (h : Hd) (d a : SReg) (x : BitVec 5) (s : State) : Res :=
  issueOp h [.s a] s fun s =>
    let n := (s.sreg a).toNat + x.toNat
    if 16 < n then s.raise 7 0x14 (BitVec.ofNat 32 n)
    else s.landS (s.acc + 16) d (BitVec.ofNat 64 (s.gazWord s.myPart (tierOf s.cur.core) n))

/-- ITCHK's suffixes: plain, .rd, .wake. -/
def itchkShape (f : Fin 3) : Shape :=
  match f.val with
  | 0 => .plain
  | 1 => .reply
  | _ => .noUp

/-- The result word: H, UPEND and DEST are open when a fault is reported (A15). -/
def State.itchkWord (s : State) (f : Fin 3) (it : Itin) : State × Word :=
  match s.routeCheck s.cur.core it (itchkShape f) with
  | .ok r => (s, BitVec.ofNat 64 (r.hops.length + 16 * r.up.toNat + 32 * r.dest))
  | .error e =>
    let (w, s) := s.freeWord
    (s, BitVec.ofNat 64 (w.toNat % 512 + 2 ^ 16 * e.sub + 2 ^ 24 * e.k + 2 ^ 28 * e.pos))

def execItchk (h : Hd) (f : Fin 3) (d : SReg) (it : Itin) (s : State) : Res :=
  issueOp h [] s fun s =>
    let (s, w) := s.itchkWord f it
    s.landS (s.acc + 16) d w

end Sys2Proof.Machine
end

