-- ==== Sys2Proof/Machine/Mxe.lean ====
section
/-! DEFINITION. What the cells, the checker row and the drain path of the matrix engine compute (03 R74 to R78, 09 R185 to R187, R195
to R198). -/

namespace Sys2Proof.Machine

/-! ## Rates (09 R185), by MMAC's mode F (10 R208) -/

/-- Planes that a plane code names. -/
def planesOf (code : Nat) : Nat := if code = 0 then 2 else if code = 1 then 4 else 8

/-- 0 PN, 1 INT8, 2 BF16. -/
def modeKind (f : Nat) : Nat := f / 16 % 4
def modePa (f : Nat) : Nat := planesOf (f % 4)
def modePb (f : Nat) : Nat := planesOf (f / 4 % 4)

/-- Cycles per step. -/
def stepCycles (f : Nat) : Nat := if modeKind f = 0 then modePa f * modePb f else if modeKind f = 1 then 64 else 256

/-- Chunks of 256 bytes that the A-stream reads per step. -/
def stepChunks (f : Nat) : Nat := if modeKind f = 0 then 2 * modePa f else if modeKind f = 1 then 16 else 32

/-! ## Tiles -/

def zeroTile : List (BitVec 32) := List.replicate 4096 0

/-- The elements of a tile, row by row. -/
def Tile.els (t : Tile) : List (BitVec 32) := if t.data.isEmpty then zeroTile else t.data

/-- Splits a list into rows of n. -/
def rowsOf {α : Type} (n : Nat) : Nat → List α → List (List α)
  | 0, _ => []
  | r + 1, l => l.take n :: rowsOf n r (l.drop n)

/-! ## Operands of a step -/

/-- Byte i of data read as one number. -/
def byteOf (v i : Nat) : Nat := v / 256 ^ i % 256

/-- The value of 64 elements whose planes are 64-bit words, most significant plane first: the first n planes, with centre
correction when asked for (03 R74, R75). -/
def pnRow (n : Nat) (centre : Bool) (planes : List Nat) : List Int :=
  let c : Int := if centre && n < 8 then (2 ^ (7 - n) : Nat) else 0
  (List.range 64).map fun k =>
    ((List.range n).zip planes).foldl (fun (v : Int) (e : Nat × Nat) =>
      if e.2.testBit k then (if e.1 = 0 then v - 128 else v + (2 ^ (7 - e.1) : Nat)) else v) c

/-- INT8 or UINT8 elements. -/
def byteRow (uns : Bool) (v : Nat) : List Int := (List.range 64).map fun k => intVal (if uns then 7 else 6) (byteOf v k)

/-- Row i of A in a step's bytes, which lie plane by plane for PN and row by row otherwise (10 R208). -/
def aRow (m : MmacRun) (step i : Nat) : List Int :=
  if m.kind = 0 then pnRow m.pa m.acen ((List.range m.pa).map fun p => step / 2 ^ (8 * (512 * p + 8 * i)) % 2 ^ 64)
  else byteRow m.auns (step / 2 ^ (8 * 64 * i) % 2 ^ 512)

/-- Column j of B in a step, from its plane words or its bytes. -/
def bCol (m : MmacRun) (words : List Nat) : List Int :=
  if m.kind = 0 then pnRow m.pb m.bcen words else byteRow m.buns (words.getD 0 0)

/-- BF16 elements of a row of 128 bytes. -/
def bfRow (v : Nat) : List FVal := (List.range 64).map fun k => fdecode bf16 (v / 65536 ^ k % 65536)

def dotInt (a b : List Int) : Int := (a.zip b).foldl (fun s e => s + e.1 * e.2) 0

/-! ## Integer steps (03 R77, 09 R195) -/

/-- The INT32 element that takes an exact contribution; whether it was clamped. R77 gives the clamp no order or granularity: the model clamps once
as each step of 64 k is added (A57, DESIGN CHOICE). -/
def accInt (x : BitVec 32) (v : Int) : BitVec 32 × Bool :=
  let t := x.toInt + v
  if t < -(2 ^ 31) then (BitVec.ofInt 32 (-(2 ^ 31)), true)
  else if 2 ^ 31 - 1 < t then (BitVec.ofInt 32 (2 ^ 31 - 1), true)
  else (BitVec.ofInt 32 t, false)

/-- Adds lists of column sums. -/
def addCols (x y : List Int) : List Int := if x.isEmpty then y else (x.zip y).map fun e => e.1 + e.2

/-- What upsets of the cells of row i, column j add in this step. -/
def cellDelta (m : MmacRun) (i j : Nat) : Int :=
  (m.cells.filter fun e => e.1 = i && e.2.1 = j).foldl (fun v e => v + e.2.2) 0

/-- One step of an integer mode. -/
def intStep (m : MmacRun) (abytes : Nat) (bwords : List (List Nat)) : MmacRun :=
  let a := (List.range 64).map (aRow m abytes)
  let b := bwords.map (bCol m)
  let v := ((List.range 64).zip a).map fun r => ((List.range 64).zip b).map fun c =>
    dotInt r.2 c.2 + (if m.cells.isEmpty then 0 else cellDelta m r.1 c.1)
  let colA := a.foldl addCols []
  let new := (m.data.zip v.flatten).map fun e => accInt e.1 e.2
  { m with data := new.map fun e => e.1, sat := m.sat || new.any fun e => e.2, cells := [],
           sums := { m.sums with obs := addCols m.sums.obs (v.foldl addCols []), ref := addCols m.sums.ref (b.map (dotInt colA)) } }

/-! ## BF16 steps (03 R78, 09 R196) -/

/-- A product of two BF16 values, exact; whether it is an invalid operation. -/
def bfProd (a b : FVal) : FVal × Bool :=
  if a.isNaN || b.isNaN then (.nan false, a.isSNaN || b.isSNaN)
  else
    let n := a.neg != b.neg
    match a, b with
    | .fin _ m1 e1, .fin _ m2 e2 => (.fin n (m1 * m2) (e1 + e2), false)
    | .inf _, .fin _ m _ => if m = 0 then (.nan false, true) else (.inf n, false)
    | .fin _ m _, .inf _ => if m = 0 then (.nan false, true) else (.inf n, false)
    | _, _ => (.inf n, false)

/-- The exact sum of two such terms. Infinities of both signs beside a NaN: the terms are taken in the order of k, and a NaN met first leaves
NV as its own product gave it (A20, DEDUCED). -/
def bfSum (x y : FVal × Bool) : FVal × Bool :=
  let nv := x.2 || y.2
  match x.1, y.1 with
  | .nan _, _ => (.nan false, nv)
  | _, .nan _ => (.nan false, nv)
  | .inf n, .inf k => if n = k then (.inf n, nv) else (.nan false, true)
  | .inf n, _ => (.inf n, nv)
  | _, .inf n => (.inf n, nv)
  | .fin n1 m1 e1, .fin n2 m2 e2 =>
    let r := exactAdd .rne n1 m1 e1 n2 m2 e2
    (.fin r.1 r.2.1 r.2.2, nv)

def FVal.isFin : FVal → Bool
  | .fin .. => true
  | _ => false

/-- A finite value in units of 2^-300. -/
def bfUnits : FVal → Int
  | .fin n m e => let v : Int := (m * 2 ^ (e + 300).toNat : Nat); if n then -v else v
  | _ => 0

/-- One element's groups of a step: its bits, flags, and whether every product, group sum and accumulator is finite. -/
def bfElem (x : BitVec 32) (a b : List FVal) : Nat → BitVec 32 × BitVec 9 × Bool
  | 0 => (x, 0, true)
  | g + 1 =>
    let (y, fl, ok) := bfElem x a b g
    let ps := ((a.drop (8 * g)).take 8).zip ((b.drop (8 * g)).take 8) |>.map fun e => bfProd e.1 e.2
    match ps with
    | [] => (y, fl, ok)
    | p :: ps' =>
      let (s, nv) := ps'.foldl bfSum p
      let (r, f2) := addVal fp32 .rne (fdecode fp32 y.toNat) s
      (BitVec.ofNat 32 r, fl ||| f2 ||| (if nv then fNV else 0),
       ok && (ps.all fun e => e.1.isFin) && s.isFin && (fdecode fp32 r).isFin)

/-- One step of BF16. -/
def bfStep (m : MmacRun) (abytes : Nat) (bwords : List (List Nat)) : MmacRun :=
  let a := (List.range 64).map fun i => bfRow (abytes / 2 ^ (8 * 128 * i) % 2 ^ 1024)
  let b := bwords.map fun w => bfRow (w.getD 0 0)
  let cells := (rowsOf 64 64 m.data).zip a
  let rows := ((List.range 64).zip cells).map fun r => ((List.range 64).zip (r.2.1.zip b)).map fun c =>
    let e := bfElem c.2.1 r.2.2 c.2.2 8
    if m.cells.isEmpty || cellDelta m r.1 c.1 = 0 then e
    else
      let y := e.1 + BitVec.ofInt 32 (cellDelta m r.1 c.1)
      (y, e.2.1, e.2.2 && (fdecode fp32 y.toNat).isFin)
  let naA := a.any fun r => r.any fun v => !v.isFin
  let nas := (List.range 64).foldl (fun v j =>
    if naA || ((b.getD j []).any fun v => !v.isFin) || (rows.any fun r => match r[j]? with
      | some e => !e.2.2
      | none => false) || (m.data.length ≠ 0 && (List.range 64).any fun i => !(fdecode fp32 (m.data.getD (64 * i + j) 0).toNat).isFin)
    then v + 2 ^ j else v) 0
  let ua := a.map fun r => r.map bfUnits
  let ub := b.map fun c => c.map bfUnits
  -- units of the products are 2^-600; they are exact multiples of 2^-300
  let dot (x y : List Int) : Int := dotInt x y / (2 ^ 300 : Nat)
  let colA := ua.foldl addCols []
  let mags := ub.map fun c => (ua.map fun r => (r.zip c).foldl (fun (s : Int) e => s + ((e.1 * e.2).natAbs / 2 ^ 300 : Nat)) 0).foldl (· + ·) 0
  let fl := rows.foldl (fun f r => r.foldl (fun f e => f ||| e.2.1) f) (0 : BitVec 9)
  let new := rows.flatten.map fun e => e.1
  { m with data := new, bfl := m.bfl ||| BitVec.ofNat 4 (8 * (fl.getLsbD 4).toNat + 4 * (fl.getLsbD 2).toNat + 2 * (fl.getLsbD 1).toNat
             + (fl.getLsbD 0).toNat),
           cells := [],
           sums := { m.sums with ref := addCols m.sums.ref (ub.map (dot colA)), mag := addCols m.sums.mag mags,
                                 na := m.sums.na ||| BitVec.ofNat 64 nas } }

/-! ## Column statuses (09 R195, R196) -/

/-- Bit j of a mask where p holds. -/
def colMask (p : Nat → Bool) : Word := BitVec.ofNat 64 ((List.range 64).foldl (fun v j => if p j then v + 2 ^ j else v) 0)

/-- MIS, WB and NA of a run of `steps` steps. -/
def statuses (m : MmacRun) (steps : Nat) : Word × Word × Word :=
  if steps = 0 then (0, 0, 0)
  else if m.kind ≠ 2 then (colMask fun j => m.sums.obs.getD j 0 ≠ m.sums.ref.getD j 0, 0, 0)
  else
    let u (x : BitVec 32) : Int := bfUnits (fdecode fp32 x.toNat)
    let obs (j : Nat) : Int := (List.range 64).foldl (fun v i => v + u (m.data.getD (64 * i + j) 0) - u (m.before.getD (64 * i + j) 0)) 0
    let mag (j : Nat) : Int :=
      (List.range 64).foldl (fun (v : Int) i => v + (u (m.before.getD (64 * i + j) 0)).natAbs) (m.sums.mag.getD j 0)
    let diff (j : Nat) : Nat := (obs j - m.sums.ref.getD j 0).natAbs
    let na (j : Nat) : Bool := m.sums.na.getLsbD j
    let within (j : Nat) : Bool := (diff j * 2 ^ 24 : Nat) ≤ 8 * steps * ((mag j).natAbs + 64 * 2 ^ 174)
    (colMask fun j => !na j && !within j, colMask fun j => !na j && diff j ≠ 0 && within j, m.sums.na)

/-- CHK from the masks (09 R196): 2 MISMATCH, 3 N/A, 1 WITHIN-BOUND, 0 OK. -/
def chkOf (mis wb na : Word) : Nat := if mis ≠ 0 then 2 else if na ≠ 0 then 3 else if wb ≠ 0 then 1 else 0

/-! ## The drain path (09 R197, R198) -/

/-- Bytes per element of a drain's destination; 4 for a format that is not one (10 R213). -/
def drainW (fmt : Nat) : Nat := if fmt = 2 || fmt = 3 then 2 else if fmt = 6 || fmt = 7 then 1 else 4

/-- Stages 1 to 4 on one element: y, and whether it is out of bound. An INT32 element 0 is +0 in the product with the scale (A20, DEDUCED). -/
def drainY (d : Drain) (f32 : Bool) (x scale bias : BitVec 32) : Nat × Bool :=
  let xv : FVal := if f32 then fdecode fp32 x.toNat else .fin (decide (x.toInt < 0)) x.toInt.natAbs 0
  let y := (fmaVal fp32 .rne xv (fdecode fp32 scale.toNat) (fdecode fp32 bias.toNat)).1
  let v := fdecode fp32 y
  let y :=
    if d.clamp = 1 then
      let r := boundElem 1 y d.lo.toNat d.hi.toNat
      if v.isNaN then y else if r.1 then d.lo.toNat else if r.2 then d.hi.toNat else y
    else if d.clamp = 2 && !v.isNaN && v.neg then 0
    else y
  if d.bpol = 3 then (y, false)
  else
    let r := boundElem 1 y d.min.toNat d.max.toNat
    if !(r.1 || r.2) then (y, false)
    else (if d.bpol = 1 then (if r.1 then d.min.toNat else d.max.toNat) else y, true)

/-- Stage 5. -/
def drainConv (d : Drain) (y : Nat) : Nat :=
  let rm : RMode := match d.rm with
    | 0 => .rne
    | 1 => .rtz
    | 2 => .rup
    | _ => .rdn
  let v := fdecode fp32 y
  match d.fmt with
  | 2 => (cvtVal bf16 rm v).1
  | 3 => (cvtVal fp16 rm v).1
  | 6 => toBits 8 (toIntVal rm (-128) 127 v).1
  | 7 => toBits 8 (toIntVal rm 0 255 v).1
  | _ => y

/-- Group g of a drain from row i's elements: its 64 bytes, the bytes to be poisoned, and the column of the first out-of-bound
element. -/
def drainGroup (d : Drain) (t : Tile) (g : Nat) : Nat × Nat × Option Nat :=
  let w := drainW d.fmt
  let n := 64 / w
  let i := g / w
  let els := t.els.drop (64 * i)
  (List.range n).foldl (fun (r : Nat × Nat × Option Nat) k =>
    let j := g % w * n + k
    let (y, oob) := drainY d t.f32 (els.getD j 0) (d.scales.getD j 0) (d.biases.getD j 0)
    (r.1 + drainConv d y * 2 ^ (8 * w * k), if oob && d.bpol = 2 then r.2.1 + ones w * 2 ^ (w * k) else r.2.1,
     if oob && r.2.2.isNone then some j else r.2.2)) (0, 0, none)

end Sys2Proof.Machine
end

