-- ==== Sys2Proof/Machine/Matrix.lean ====
section
/-! DEFINITION. The matrix instructions and their macro-ops (09 R189 to R200, 10 R201 to R218, R419, 18 R327). -/

namespace Sys2Proof.Machine

/-! ## Plan tables -/

namespace State

/-- The fallback variant whose tables are active (18 R346). -/
def variantOf (s : State) (p : Nat) : Option Variant :=
  if (s.part p).plvar = 0 then none else (s.part p).plan.bind fun q => q.variants[(s.part p).plvar - 1]?

/-- Row j of the active journey table (18 R326). -/
def journeyRow (s : State) (p j : Nat) : Option JourneyRow :=
  match s.variantOf p with
  | some v => v.journeys[j]?
  | none => (s.part p).plan.bind fun q => q.journeys[j]?

/-! ## The checks of every matrix instruction (09 R191, R192, 18 R327) -/

/-- The owner-map row that holds a TTC. -/
def ownerRow (s : State) (cl ttc : Nat) : Option (Nat × OwnerRow) :=
  (((List.range 32).zip (s.cluster cl).owners).find? fun e => e.2.valid && e.2.start ≤ ttc && ttc < e.2.fin)

/-- The owner check for a macro-op of duration d (09 R191). -/
def ownerFault (s : State) (d : Nat) (mmac : Bool) : Option TrapInfo :=
  let c := s.cur.core
  let i := s.ttcOf c
  let f (cause sub : BitVec 8) (tinfo tcoord : Nat) : TrapInfo :=
    { cause := cause, sub := sub, tinfo := BitVec.ofNat 32 tinfo, tcoord := BitVec.ofNat 64 tcoord }
  if !(s.core c).mxen then some (f 0xE 0x10 i 0)
  else match s.ownerRow (clusterOf c) i with
    | none => some (f 0xE 0x11 i 0xFFFFFFFF)
    | some (n, r) =>
      if !(s.core c).owned.getLsbD n then some (f 0xE 0x11 i n)
      else if mmac && !r.islrel && r.start < i then some (f 0xB 8 (i - r.start) (i * 2 ^ 32 + r.start))
      else if r.fin < i + d then some (f 0xE 0x12 (i + d - r.fin) n)
      else none

/-- A journey's macro-op other than MMAC ends by q - 64 (18 R327). -/
def journeyFault (s : State) (d : Nat) : Option TrapInfo :=
  match s.me.journey with
  | none => none
  | some (p, j) =>
    match s.journeyRow p j with
    | none => none
    | some r =>
      let lim := r.start + r.budget - 64
      let i := s.ttcOf s.cur.core
      if lim < i + d then some { cause := 0xE, sub := 0x24, tinfo := BitVec.ofNat 32 (i + d - lim) } else none

/-- The concurrency check (09 R192). -/
def busyFault (s : State) (array drain : Bool) (tile : Option TileNo) : Option TrapInfo :=
  let k := s.cluster (clusterOf s.cur.core)
  if (array && k.array.isSome) || (drain && k.drain.isSome) then some { cause := 0xE, sub := 0x13 }
  else match tile with
    | some t => if (k.tiles.get {} t.toNat).busy then some { cause := 0xE, sub := 0x14, tinfo := t.setWidth 32 } else none
    | none => none

/-- The tile with a number in the cluster of a core. -/
def tileOf (s : State) (core : Nat) (t : TileNo) : Tile := (s.cluster (clusterOf core)).tiles.get {} t.toNat

end State

/-- A matrix instruction at issue: owner, journey limit, concurrency, then `k`, which makes the record checks (10 R206). `lim` says
whether 18 R327 asks for the limit. -/
def mxOp (h : Hd) (srcs : List Src) (d : State → Nat) (mmac lim array drain : Bool) (tile : Option TileNo) (s : State)
    (k : State → State) : Res :=
  issueOp h srcs s fun s =>
    match s.ownerFault (d s) mmac with
    | some t => s.raiseInfo t
    | none =>
      match if lim then s.journeyFault (d s) else none with
      | some t => s.raiseInfo t
      | none =>
        match s.busyFault array drain tile with
        | some t => s.raiseInfo t
        | none => k s

/-- Trap words of a record check: TINFO the handle. -/
def recFault (cause sub : BitVec 8) (h : Nat) : TrapInfo := { cause := cause, sub := sub, tinfo := BitVec.ofNat 32 h }

/-! ## Records of B (10 R207) -/

/-- Bytes per slice of a B record. -/
def sliceBytes (r : Rec) : Nat :=
  if r.fmt = 8 then r.planes * r.cols / 8 else if r.fmt = 6 || r.fmt = 7 then r.cols else if r.fmt = 2 then 2 * r.cols else 0

/-- Format of a B record. -/
def bFmtOk (r : Rec) : Bool :=
  r.ok && (r.fmt = 8 || r.fmt = 6 || r.fmt = 7 || r.fmt = 2) && r.rows = 64 && r.cols % 64 = 0 && r.cols ≤ 4096

namespace State

/-- Record h of the core at hand as class M reads it; poison in it is met at issue (20 R359). -/
def mxRec (s : State) (h : Nat) : Except TrapInfo Rec :=
  let c := s.cur.core
  if s.tainted (roomKey c (s.recOff c h)) 64 then .error (recFault 6 3 h) else .ok (s.sampleRec clsM c h)

/-- The words in error that the sample of record h meets are counted (20 R357). -/
def countRecord (s : State) (h : Nat) : State := s.countRead (roomKey s.cur.core (s.recOff s.cur.core h)) 64

/-- The place of a record as a key of the partition. -/
def recPlace (s : State) (r : Rec) : Option Nat := s.placeKey s.myPart r.place

/-- The offset of a B record in the B store of the cluster at hand. -/
def bPlace (s : State) (r : Rec) : Option Nat :=
  match s.recPlace r with
  | some key => if spaceOf key = .bs && key / 2 ^ 40 = bsKey (clusterOf s.cur.core) 0 / 2 ^ 40 then some (offOfKey key) else none
  | none => none

/-- The range of a B record at an offset, and of its image in the room for the instructions that check it. -/
def bRangeOk (r : Rec) (off : Nat) (image : Bool) : Bool :=
  off / 2048 * 32 + sliceBytes r ≤ 131072 && (!image || r.origin + 64 * sliceBytes r ≤ 2 ^ 24)

/-- The record checks of MBLD, MBSEL and MRESTORE on record h: format, place, range, alignment (10 R206, R207): the record, and its base
slice row. -/
def checkB (s : State) (h : Nat) : Except TrapInfo (Rec × Nat) :=
  match s.mxRec h with
  | .error t => .error t
  | .ok r =>
    if !bFmtOk r then .error (recFault 5 7 h)
    else match s.bPlace r with
      | none => .error (recFault 7 0x10 h)
      | some off =>
        if !bRangeOk r off true then .error (recFault 7 0x11 h)
        else if off % 2048 ≠ 0 then .error (recFault 8 5 h)
        else .ok (r, off / 2048)

/-! ## Loads of B (10 R207, R419) -/

/-- Starts a B load: group 0 is sampled at `b.first`. -/
def startBLoad (s : State) (b : BLoad) : State := if b.per = 0 then s else s.schedAux b.first phSample b.org (.bload b 0)

/-- Whether the macro-op of `o` has queued its trap, which notes that it has. Groups of an MSAVE act when the array is free again, so that the
note stays longer than any macro-op lasts. -/
def warnOnce (s : State) (o : Org) : State × Bool :=
  let k := s.cluster (clusterOf o.core)
  (s.setCluster (clusterOf o.core) { k with warned := o :: k.warned.filter fun p => s.acc < p.issue + 4096 }, k.warned.contains o)

/-- A failed room group of a macro-op: one queued trap, for the first (10 R419); a journey's own save or restore fails the journey. -/
def groupFailed (s : State) (org : Option Org) (task : Option Task) (core : Nat) (t : TrapInfo) : State :=
  match org with
  | some o =>
    let (s, w) := s.warnOnce o
    if w then s else s.queueOrg (some o) t
  | none =>
    let s := s.modCoreStat core fun k => { k with coll := satInc 8 k.coll }
    match task with
    | some (.journey p j) => s.failJourney p j core
    | _ => s

/-- PC of the macro-op, for the words of its trap. -/
def orgPc (o : Option Org) : Nat := (o.map fun o => o.pc).getD 0

/-- Words of 8 bytes among n that are read as poison; `bond` is the poison mask of the bond lanes. -/
def psnWords (s : State) (key n bond : Nat) : List Nat :=
  (List.range (n / 8)).filter fun i => bond.testBit (8 * i) || s.tainted (key + 8 * i) 8

/-- Group c of a B load at its sample cycle. -/
def bloadEvent (s : State) (b : BLoad) (c : Nat) : State :=
  let key := roomKey b.core (b.origin + 512 * c)
  let nb := 64 * b.per / 512
  let (s, b) := match s.cur.denied with
    | some den =>
      (s.groupFailed b.org b.task b.core (s.bankInfo key den 2 (orgPc b.org)), { b with psn := b.psn ++ (List.range 64).map (· + 64 * c) })
    | none =>
      let (s, bond) := s.bondSpan b.core key 512
      let s := s.countRead key 512
      (s, { b with data := b.data + s.readAs clsM key 512 * 256 ^ (512 * c),
                   psn := b.psn ++ (s.psnWords key 512 bond).map (· + 64 * c) })
  if c + 1 < nb then s.schedAux (b.first + c + 1) phSample b.org (.bload b (c + 1)) else s.schedAux b.eff phRec b.org (.bwrite b)

/-- Byte offset in the image of byte t of slice j (10 R207): planes first for PN, rows otherwise. -/
def imageOff (b : BLoad) (j t : Nat) : Nat :=
  if b.fmt = 8 then t / (b.cols / 8) * (64 * (b.cols / 8)) + j * (b.cols / 8) + t % (b.cols / 8) else j * b.per + t

/-- B-store offset of slice-local byte l of slice j (09 R187). -/
def sliceOff (l j : Nat) : Nat := l / 32 * 2048 + j * 32 + l % 32

/-- The writes of a B load, 8 bytes at a time. -/
def bwriteEvent (s : State) (b : BLoad) : State :=
  let units := (List.range 64).flatMap fun j => (List.range (b.per / 8)).map fun u => (j, 8 * u)
  units.foldl (fun s e =>
    let i := imageOff b e.1 e.2
    let key := bsKey (clusterOf b.core) (sliceOff (b.row * 32 + e.2) e.1)
    (s.writeAt key 8 (b.data / 256 ^ i % 2 ^ 64) 255 (if b.psn.contains (i / 8) then 255 else 0)).notePort key 255) s

/-- Takes the array for a macro-op until `fin`. -/
def takeArray (s : State) (op : MacroOp) (tile : Nat) (fin : Nat) : State :=
  let cl := clusterOf s.cur.core
  let s := s.modCluster cl fun k => { k with array := some { org := some s.here, op := op, tile := tile } }
  s.schedRow fin phLand (some s.here) (.macroOpCompletion cl op tile)

end State

def execMbld (h : Hd) (hn : Handle) (s : State) : Res :=
  let nb (s : State) : Nat := 64 * sliceBytes (s.sampleRec clsM s.cur.core hn.toNat) / 512
  mxOp h [] (fun s => 24 + nb s) false true true false none s fun s =>
    let s := s.countRecord hn.toNat
    match s.checkB hn.toNat with
    | .error t => s.raiseInfo t
    | .ok (r, row) =>
      let b : BLoad := { org := some s.here, task := none, core := s.cur.core, origin := r.origin, fmt := r.fmt, cols := r.cols,
                         row := row, per := sliceBytes r, first := s.acc + 4, eff := s.acc + 23 + nb s }
      (s.startBLoad b).takeArray .mbld 0 (s.acc + 24 + nb s)

def execMbsel (h : Hd) (hn : Handle) (s : State) : Res :=
  mxOp h [] (fun _ => 0) false false false false none s fun s =>
    let s := s.countRecord hn.toNat
    match s.checkB hn.toNat with
    | .error t => s.raiseInfo t
    | .ok _ => s.schedAux (s.acc + 16) phLand (some s.here) (.selb s.cur.core hn.toNat)

/-! ## MMAC (10 R208 to R211) -/

namespace State

/-- The fallback record that a stale record of SPOL 2 sends an MMAC to is read, and words in error that it meets are counted (10 R203, 20
R357). -/
def countFallback (s : State) (r : Rec) : State :=
  if staleAt r.stamp r.limit (s.scnAt s.cur.core) && r.spol ≠ 0 && r.spol ≠ 1 then s.countRecord r.fbh else s

/-- A record operand that passes, its handle, and whether its SFLAG is to be set (10 R203). -/
def staleCheck (s : State) (h sub : Nat) (r : Rec) : Except TrapInfo (Option Nat × Bool) :=
  let n := s.scnAt s.cur.core
  let f (sub : Nat) (st : BitVec 32) : TrapInfo :=
    { cause := 0x11, sub := BitVec.ofNat 8 sub, tinfo := BitVec.ofNat 32 h, tcoord := BitVec.ofNat 64 (n.toNat * 2 ^ 32 + st.toNat) }
  if !staleAt r.stamp r.limit n then .ok (none, false)
  else if r.spol = 0 then .error (f sub r.stamp)
  else if r.spol = 1 then .ok (none, true)
  else match s.mxRec r.fbh with
    | .error _ => .error (recFault 6 3 h)
    | .ok b => if staleAt b.stamp b.limit n then .error (f 3 b.stamp) else .ok (some r.fbh, false)

/-- Size of a block of A, and the bytes of it that a step reads (10 R208). -/
def blockSize (mode : Nat) (r : Rec) : Nat × Nat :=
  if modeKind mode = 0 then (512 * r.planes, 512 * modePa mode) else if modeKind mode = 1 then (4096, 4096) else (8192, 8192)

/-- Whether a record's format serves an operand of a mode. -/
def fmtServes (mode planes : Nat) (r : Rec) : Bool :=
  match modeKind mode with
  | 0 => r.fmt = 8 && planes ≤ r.planes
  | 1 => r.fmt = 6 || r.fmt = 7
  | _ => r.fmt = 2

/-- The end of a region of 07 R154 that holds byte o and may be read in task mode: the berth's own workspace or a window with R. -/
def readableTo (s : State) (o : Nat) : Option Nat :=
  let win (w : Word) : Option Nat :=
    if (inWindow w o 1 .read).1 && (inWindow w o 1 .read).2 then some (w.toNat / 2 ^ 32 % 2 ^ 20) else none
  if s.cur.wsp ≤ o && o < s.cur.wsp + 0x2000 then some (s.cur.wsp + 0x2000) else win s.me.win0 <|> win s.me.win1

/-- The first byte from o to `fin` that lies in none of the regions; four looks are enough, as there are three regions. -/
def firstUnreadable (s : State) (fin : Nat) : Nat → Nat → Option Nat
  | 0, _ => none
  | fuel + 1, o =>
    if fin ≤ o then none
    else match s.readableTo o with
      | some e => s.firstUnreadable fin fuel e
      | none => some o

/-- The first byte of A that task mode may not read (07 R154, 10 R209). -/
def streamFault (s : State) (key k0s s0 smax blk rd : Nat) : Option Nat :=
  if spaceOf key ≠ .ws || s.cur.mode then none
  else (List.range (smax - s0)).findSome? fun i =>
    let o := offOfKey key + (k0s + s0 + i) * blk
    s.firstUnreadable (o + rd) 4 o

/-- The operands of an MMAC after its record checks (10 R206, R208, R209), made on the records with handles `ra` and `rb` in the places of `h`
and `hb`, which the traps name (R203): A's key, B's row and the records. The steps are format, place, range and alignment, in each of
them A before B (A21). -/
def mmacRecs (s : State) (mode h ra hb rb k0s s0 smax : Nat) : Except TrapInfo (Rec × Nat × Rec × Nat) :=
  match s.mxRec ra, s.mxRec rb with
  | .error _, _ => .error (recFault 6 3 h)
  | .ok _, .error _ => .error (recFault 6 3 hb)
  | .ok a, .ok b =>
    if !a.ok || !fmtServes mode (modePa mode) a || a.rows ≠ 64 || a.stride ≠ 0 || a.cols % 64 ≠ 0 then .error (recFault 5 7 h)
    else if !bFmtOk b || !fmtServes mode (modePb mode) b then .error (recFault 5 7 hb)
    else match s.recPlace a, s.bPlace b with
      | none, _ => .error (recFault 7 0x10 h)
      | some key, ob =>
        if !((spaceOf key = .ws || spaceOf key = .room) && coreOfKey key = s.cur.core) then .error (recFault 7 0x10 h)
        else match ob with
          | none => .error (recFault 7 0x10 hb)
          | some off =>
            let (blk, rd) := blockSize mode a
            let size := if spaceOf key = .room then 2 ^ 24 else 2 ^ 19
            if 63 < k0s || a.cols < 64 * (k0s + smax) || b.cols < 64 * smax || size < offOfKey key + (k0s + smax) * blk then
              .error (recFault 7 0x11 h)
            else if !bRangeOk b off false then .error (recFault 7 0x11 hb)
            else match s.streamFault key k0s s0 smax blk rd with
              | some o => .error { recFault 7 0x12 h with tcoord := BitVec.ofNat 64 o }
              | none =>
                if offOfKey key % 32 ≠ 0 then .error (recFault 8 5 h)
                else if off % 2048 ≠ 0 then .error (recFault 8 5 hb)
                else .ok (a, key, b, off / 2048)

/-- Chunk (u, c) of the A-stream at its cycle (09 R193). -/
def schedChunk (s : State) (cl : Nat) (m : MmacRun) (u c : Nat) : State :=
  if m.smax - m.s0 ≤ u then s
  else
    let rd := m.akey + (m.s0 + u) * m.ablk + 256 * c
    s.schedAux (m.start + 4 + u * m.t + c * (m.t / m.n)) phSample (some m.org) (.mmacChunk m.org cl u c rd)

/-- Starts the sequencer: boundaries, chunks and the completion are laid out from the issue cycle. -/
def startMmac (s : State) (m : MmacRun) (dense : Bool) : State :=
  let cl := clusterOf s.cur.core
  let fin := m.start + 24 + (m.smax - m.s0) * m.t
  let s := s.modCluster cl fun k =>
    { k with mmac := some m, array := some { org := some m.org, op := .mmac, tile := m.tile, dense := dense } }
  let s := s.modTile cl m.tile fun t => { t with busy := true }
  let s := s.modMe fun x => { x with run := if x.run = 2 then 2 else 3, backAt := none }
  let s := s.schedRow fin phLand (some m.org) (.mmacCompletion cl)
  if m.smax ≤ m.s0 then s else (s.schedAux (m.start + 12) phEnd (some m.org) (.mmacBound m.org cl 0)).schedChunk cl m 0 0

/-- Sets SFLAG of a record at issue + 20 (10 R203). The undo log attributes the write of an MDRAIN only (20 R363). -/
def flagStale (s : State) (h : Nat) (attr b : Bool) : State :=
  if b then s.schedRow (s.acc + 20) phRec (some s.here)
    (.roomWriteEffect (.sflag (if attr then some s.here else none) s.cur.core (s.recOff s.cur.core h)))
  else s

/-- The rail fault of a dense MMAC (06 R149). -/
def railFault (s : State) (mode : Nat) : Option TrapInfo :=
  let r := (s.cluster (clusterOf s.cur.core)).rail
  if !denseMode mode || r.1 = 1 then none
  else some { cause := 0x15, sub := 1, tinfo := BitVec.ofNat 32 (if r.1 = 2 then r.2 - s.acc else 0xFFFFFFFF) }

/-- The MMAC of desc on records (a, key) and (b, row), with their handles. -/
def mmacRun (s : State) (tile : TileNo) (dsc : Desc) (ha : Nat) (a : Rec) (key hb : Nat) (b : Rec) (row : Nat) : MmacRun :=
  let t := s.tileOf s.cur.core tile
  let (blk, _) := blockSize dsc.mode a
  { org := s.here, tile := tile.toNat, desc := dsc, start := s.acc, t := stepCycles dsc.mode, n := stepChunks dsc.mode,
    s0 := if t.part then t.step else 0, smax := dsc.ks + 1, kind := modeKind dsc.mode,
    pa := modePa dsc.mode, pb := modePb dsc.mode, ah := ha, akey := key + dsc.k0s * blk, ablk := blk, aroom := spaceOf key = .room,
    auns := a.fmt = 7, acen := a.centre, bh := hb, brow := row, bcols := b.cols, buns := b.fmt = 7, bcen := b.centre,
    stamps := [a.stamp, b.stamp], fresh := !t.part, data := t.els, before := t.els }

/-- MMAC after its record checks: PART, staleness, fallback records, rail (10 R206, R209). -/
def mmacIssue (s : State) (mode h k0s ks : Nat) (tile : TileNo) (hb : Nat) : State :=
  let t := s.tileOf s.cur.core tile
  let dsc : Desc := { mode := mode, ah := h, k0s := k0s, ks := ks, bh := hb }
  let smax := ks + 1
  let s0 := if t.part then t.step else 0
  match s.mmacRecs mode h h hb hb k0s s0 smax with
  | .error e => s.raiseInfo e
  | .ok (a, key, b, row) =>
    if t.part && dsc ≠ t.desc then s.raise 5 5 (tile.setWidth 32)
    else
      let s := s.countFallback a
      match s.staleCheck h 1 a with
      | .error e => s.raiseInfo e
      | .ok (fa, ga) =>
      let s := s.countFallback b
      match s.staleCheck hb 2 b with
      | .error e => s.raiseInfo e
      | .ok (fb, gb) =>
        let ha := fa.getD h
        let hb' := fb.getD hb
        let go (s : State) (a : Rec) (key : Nat) (b : Rec) (row : Nat) : State :=
          match s.railFault mode with
          | some e => s.raiseInfo e
          | none => ((s.flagStale h false ga).flagStale hb false gb).startMmac (s.mmacRun tile dsc ha a key hb' b row) (denseMode mode)
        if fa.isNone && fb.isNone then go s a key b row
        else match s.mmacRecs mode h ha hb hb' k0s s0 smax with
          | .error e => s.raiseInfo e
          | .ok (a, key, b, row) => go s a key b row

end State

def execMmac (h : Hd) (mode : BitVec 8) (tile : TileNo) (a : SReg) (hn : Handle) (ks : BitVec 7) (s : State) : Res :=
  let f := mode.toNat
  let d (s : State) : Nat :=
    let t := s.tileOf s.cur.core tile
    24 + (ks.toNat + 1 - (if t.part then t.step else 0)) * stepCycles f
  mxOp h [.s a] d true false true false (some tile) s fun s =>
    let t := s.tileOf s.cur.core tile
    if t.f32 ≠ decide (modeKind f = 2) then s.raise 5 4 (tile.setWidth 32)
    else match (s.core s.cur.core).selb with
      | none => s.raise 5 7 0x100
      | some hb => ((s.countRecord hn.toNat).countRecord hb).mmacIssue f hn.toNat (s.sreg a).toNat ks.toNat tile hb

namespace State

def modRun (s : State) (cl : Nat) (f : MmacRun → MmacRun) : State := s.modCluster cl fun k => { k with mmac := k.mmac.map f }

/-- Notes a failed step with its trap. -/
def badStep (m : MmacRun) (step : Nat) (t : TrapInfo) : MmacRun := { m with bad := m.bad ++ [(step, t)] }

/-- B of a step: plane words or bytes of each column, and whether a word is poisoned (10 R187, R209). -/
def sampleB (s : State) (cl : Nat) (m : MmacRun) (step : Nat) : State × List (List Nat) × Bool :=
  let spans (j : Nat) : List (Nat × Nat) :=
    if m.kind = 0 then (List.range m.pb).map fun p => (bsKey cl (sliceOff (m.brow * 32 + p * (m.bcols / 8) + 8 * step) j), 8)
    else
      let n := if m.kind = 1 then 64 else 128
      (List.range (n / 32)).map fun u => (bsKey cl (sliceOff (m.brow * 32 + n * step + 32 * u) j), 32)
  let all := (List.range 64).map spans
  let s := all.foldl (fun s l => l.foldl (fun s e => s.countRead e.1 e.2) s) s
  let join (l : List (Nat × Nat)) : List Nat :=
    if m.kind = 0 then l.map fun e => s.readAs clsM e.1 e.2
    else [l.foldr (fun e v => s.readAs clsM e.1 e.2 + v * 2 ^ 256) 0]
  (s, all.map join, all.any fun l => l.any fun e => s.tainted e.1 e.2)

/-- Chunk c of step u of the A-stream at its cycle; with chunk 0, the step's B bits (09 R188, R193). -/
def mmacChunkEvent (s : State) (o : Org) (cl u c key : Nat) : State :=
  match (s.cluster cl).mmac with
  | none => s
  | some m =>
    if m.org ≠ o then s
    else
      let step := m.s0 + u
      let s := if c + 1 < m.n then s.schedChunk cl m u (c + 1) else s.schedChunk cl m (u + 1) 0
      let s := if c ≠ 0 then s
        else
          let (s, ws, p) := s.sampleB cl m step
          s.modRun cl fun m =>
            let m := { m with bs := m.bs ++ [(step, ws)] }
            if p then badStep m step { cause := 6, sub := 3, tinfo := BitVec.ofNat 32 m.bh, tcoord := BitVec.ofNat 64 step, tipc := o.pc } else m
      match s.cur.denied with
      | some den =>
        let t := s.bankInfo key den 2 o.pc
        (s.countTrap o.core t false).modRun cl fun m => badStep { m with stopReq := true } step t
      | none =>
        let psn (sub : BitVec 8) : TrapInfo :=
          { cause := 6, sub := sub, tinfo := BitVec.ofNat 32 m.ah, tcoord := BitVec.ofNat 64 step, tipc := o.pc }
        let (s, bad) : State × Option TrapInfo :=
          if m.aroom then
            let (s, bond) := s.bondSpan o.core key 256
            let s := s.countRead key 256
            (s, if bond ≠ 0 || s.tainted key 256 then some (psn 3) else none)
          else match s.checkParity key 256 with
            | (s, some w) => (s.countTrap o.core (parityTrap w o.pc) false, some (parityTrap w o.pc))
            | (s, none) => (s, if s.psnUnit key 256 then some (psn 2) else none)
        let v := s.readAs clsM key 256
        s.modRun cl fun m =>
          let m := { m with chunks := m.chunks ++ [(step * 64 + c, v)] }
          match bad with
          | some t => badStep m step t
          | none => m

/-- Applies a step whose data is complete. -/
def applyStep (m : MmacRun) (step : Nat) : MmacRun :=
  let a := (List.range m.n).foldl (fun v c => v + (m.chunks.find? fun e => e.1 = step * 64 + c).elim 0 (fun e => e.2) * 256 ^ (256 * c)) 0
  let b := (m.bs.find? fun e => e.1 = step).elim [] fun e => e.2
  let m := if m.kind = 2 then bfStep m a b else intStep m a b
  { m with chunks := m.chunks.filter fun e => e.1 / 64 ≠ step, bs := m.bs.filter fun e => e.1 ≠ step }

/-- The tile as a stop or a completion leaves it: `steps` in all are complete, `ran` of them in this run (10 R209, R210). -/
def tileAfter (m : MmacRun) (t : Tile) (steps : Nat) (part : Bool) : Tile :=
  let (mi, wb, na) := statuses m (steps - m.s0)
  let t := if m.fresh then { t with mis := 0, wb := 0, na := 0 } else t
  let st := m.stamps.foldl olderStamp (if t.ivalid then t.istamp else m.stamps.headD 0)
  let t := { t with data := m.data, sat := t.sat || m.sat, bfl := t.bfl ||| m.bfl, part := part, desc := m.desc, istamp := st, ivalid := true }
  if m.smax ≤ m.s0 then t
  else
    let t := { t with step := steps, mis := t.mis ||| mi, wb := t.wb ||| wb, na := t.na ||| na }
    { t with chk := chkOf t.mis t.wb t.na }

/-- The matrix-check trap of a tile (09 R196). -/
def checkTrap (m : MmacRun) (t : Tile) : List TrapInfo :=
  if m.smax ≤ m.s0 || t.chk ≠ 2 then []
  else [{ cause := 0x13, sub := if m.kind = 2 then 2 else 1, tinfo := BitVec.ofNat 32 (ctzNat t.mis.toNat 64 + 256 * m.tile),
          tcoord := BitVec.ofNat 64 t.step, tipc := m.org.pc }]

/-- Poison and parity first, then a collision, then the matrix check (10 R211). -/
def heldOrder (l : List TrapInfo) : List TrapInfo :=
  l.filter (fun t => t.cause = 6) ++ l.filter (fun t => t.cause = 4) ++ l.filter (fun t => t.cause = 9) ++ l.filter fun t => t.cause = 0x13

/-- The berth of an MMAC may be back in the rotation from cycle `at_` on, or waits when its group set a wait. It takes these traps in its first
turn from then on, a berth that has been stopped meanwhile when it runs again (10 R211). A completion sets WPC, but not of a berth that runs:
it has begun anew since (A22, DEDUCED). -/
def mmacBack (s : State) (m : MmacRun) (at_ : Nat) (held : List TrapInfo) (done : Bool) : State :=
  let x := s.berth m.org.core m.org.berth
  let s := s.setBerth m.org.core m.org.berth
    (let x := { x with held := x.held ++ held, heldAt := if x.held.isEmpty then at_ else max at_ x.heldAt }
     if x.run = 3 then { x with backAt := some at_, run := if x.wait = .none then 3 else 4 } else x)
  if done && (x.run = 3 || x.run = 0 || x.run = 2) then s.setWpc m.org.core m.org.berth x.pc (s.acc + 1) else s

/-- Counts a MISMATCH of the cluster (20 R370). -/
def countMism (s : State) (cl : Nat) (l : List TrapInfo) : State :=
  if l.isEmpty then s else (s.noteFault .mismatch cl).modCluster cl fun k => { k with mism := satInc 8 k.mism }

/-- The completion of the MMAC of a cluster. -/
def isCompletion (cl : Nat) : Act → Bool
  | .row (.mmacCompletion c) => c = cl
  | _ => false

/-- The end of an MMAC's run at a step boundary with `steps` complete (09 R194, 10 R210); `atBad` when the next step failed. BUSY
clears 12 cycles later. -/
def stopMmac (s : State) (cl steps : Nat) (atBad : Bool) : State :=
  match (s.cluster cl).mmac with
  | none => s
  | some m =>
    let t := tileAfter m ((s.cluster cl).tiles.get {} m.tile) steps true
    let chk := checkTrap m t
    let traps := (m.bad.filter fun e => (atBad && e.1 = steps) || e.2.cause = 9).map fun e => e.2
    let s := (s.countMism cl chk).modCluster cl fun k => { k with mmac := none, tiles := k.tiles.put m.tile t }
    let s := { s with agenda := s.agenda.filter fun e => !isCompletion cl e.act }
    let s := s.schedAux (s.acc + 12) phLand (some m.org) (.mmacClear m.org cl)
    (s.railCheck cl s.acc).mmacBack m (s.acc + 12) (heldOrder (traps ++ chk)) false

end State

/-- MMAC_STOP (09 R194): the sequencer stops at this boundary, with the steps applied so far. -/
def execMmacStop (cl : Nat) (s : State) : Res :=
  if 24 ≤ cl then .fault .noSuchUnit
  else match (s.cluster cl).mmac with
    | none => .next s
    | some m => .next (s.stopMmac cl ((s.acc - (m.start + 12)) / m.t + m.s0 |> min m.smax) false)

namespace State

/-- Step boundary u: the step before it is applied, unless it failed; a stop asked for takes effect. -/
def mmacBoundEvent (s : State) (o : Org) (cl u : Nat) : State :=
  match (s.cluster cl).mmac with
  | none => s
  | some m =>
    if m.org ≠ o then s
    else
      let steps := m.s0 + u
      if u ≠ 0 && m.bad.any (fun e => e.1 = steps - 1) then s.stopMmac cl (steps - 1) true
      else
        let s := if u = 0 then s else s.modRun cl fun m => applyStep m (steps - 1)
        if m.stopReq then s.schedRow s.acc phEnd (some o) (.mmacStop cl)
        else if steps < m.smax then s.schedAux (s.acc + m.t) phEnd (some o) (.mmacBound o cl (u + 1))
        else s

/-- BUSY of a stopped MMAC's tile clears, and the array is free. -/
def mmacClearEvent (s : State) (o : Org) (cl : Nat) : State :=
  match (s.cluster cl).array with
  | none => s
  | some a =>
    if a.org ≠ some o then s
    else (s.modTile cl a.tile fun t => { t with busy := false }).freeArray cl

end State

/-- MMAC_COMPLETION (09 R193, 10 R209): the tile is written, and the completion is a commit point. -/
def execMmacCompletion (cl : Nat) (s : State) : Res :=
  if 24 ≤ cl then .fault .noSuchUnit
  else match (s.cluster cl).mmac with
    | none => .next s
    | some m =>
      let t := State.tileAfter m ((s.cluster cl).tiles.get {} m.tile) m.smax false
      let chk := State.checkTrap m t
      let s := ((s.countMism cl chk).modCluster cl fun k =>
        { k with mmac := none, tiles := k.tiles.put m.tile { t with busy := false } }).freeArray cl
      .next ((s.railCheck cl s.acc).mmacBack m s.acc chk true)

/-! ## MZERO and MBIAS (10 R212) -/

/-- BUSY of a tile until the macro-op's completion at `fin`. -/
def State.holdTile (s : State) (op : MacroOp) (t : TileNo) (fin : Nat) : State :=
  let cl := clusterOf s.cur.core
  (s.modTile cl t.toNat fun x => { x with busy := true }).schedRow fin phLand (some s.here) (.macroOpCompletion cl op t.toNat)

def execMzero (h : Hd) (f32 : Bool) (d : TileNo) (s : State) : Res :=
  mxOp h [] (fun _ => 16) false true false false (some d) s fun s =>
    (s.schedAux (s.acc + 16) phLand (some s.here) (.mzero (clusterOf s.cur.core) d.toNat f32)).holdTile .mzero d (s.acc + 16)

/-- MZERO's result: the elements and every field. -/
def State.mzeroEvent (s : State) (cl t : Nat) (f32 : Bool) : State := s.modTile cl t fun x => { f32 := f32, busy := x.busy }

/-- MBIAS: the vector tags 15 and reserved are refused with the operand reads, the tag of the tile after the owner and concurrency
checks (10 R206). -/
def execMbias (h : Hd) (row : Bool) (d : TileNo) (b : VReg) (s : State) : Res :=
  match s.checkSrc (.p h.gp) with
  | (s, some t) => .next (s.raiseInfo t)
  | (s, none) =>
    if !s.guardVal h then .next s
    else match s.checkSrcs [.v b, .tag b] with
      | (s, some t) => .next (s.raiseInfo t)
      | (s, none) =>
        match s.tagCheck [{ field := 2, reg := b, ok := fun _ => true }] false with
        | some t => .next (s.raiseInfo t)
        | none =>
          mxOp h [] (fun _ => 16) false true false false (some d) s fun s =>
            if s.vtag b ≠ (if (s.tileOf s.cur.core d).f32 then 1 else 4) then s.raise 5 4 (d.setWidth 32)
            else (s.schedAux (s.acc + 16) phLand (some s.here) (.mbias (clusterOf s.cur.core) d.toNat row (s.vreg b))).holdTile .mbias d (s.acc + 16)

/-- The sums of MBIAS: SatInt(32), or RoundTo(FP32, RNE) with its flags. -/
def State.mbiasEvent (s : State) (cl t : Nat) (row : Bool) (v : Vec) : State :=
  s.modTile cl t fun x =>
    let addend (k : Nat) : Nat := elem 4 (if row then k / 64 else k % 64) v
    let els := (List.range 4096).zip x.els
    if x.f32 then
      let r := els.map fun e => addVal fp32 .rne (fdecode fp32 e.2.toNat) (fdecode fp32 (addend e.1))
      let fl := flagUnion (r.map fun e => e.2)
      { x with data := r.map fun e => BitVec.ofNat 32 e.1,
               bfl := x.bfl ||| BitVec.ofNat 4 (8 * (fl.getLsbD 4).toNat + 4 * (fl.getLsbD 2).toNat + 2 * (fl.getLsbD 1).toNat + (fl.getLsbD 0).toNat) }
    else
      let r := els.map fun e => accInt e.2 (toSigned 32 (addend e.1))
      { x with data := r.map fun e => e.1, sat := x.sat || r.any fun e => e.2 }

/-! ## MDRAIN (10 R213) -/

namespace State

/-- The 64 scales or biases of a record, read at issue. -/
def colVals (s : State) (per : Bool) (v : BitVec 32) : List (BitVec 32) :=
  if per then
    let key := roomKey s.cur.core (v.toNat % 2 ^ 24)
    (List.range 64).map fun j => BitVec.ofNat 32 (s.readAs clsM (key + 4 * j) 4)
  else List.replicate 64 v

/-- A word of a record's column arrays is poisoned: it is met at issue, as poison in the record is (20 R359). -/
def colsPoisoned (s : State) (r : Rec) : Bool :=
  let bad (per : Bool) (v : BitVec 32) : Bool := per && s.tainted (roomKey s.cur.core (v.toNat % 2 ^ 24)) 256
  bad r.pcs r.scale || bad r.pcb r.bias

/-- The words in error that the sample of the arrays meets are counted. -/
def countCols (s : State) (r : Rec) : State :=
  let count (s : State) (per : Bool) (v : BitVec 32) : State :=
    if per then s.countRead (roomKey s.cur.core (v.toNat % 2 ^ 24)) 256 else s
  count (count s r.pcs r.scale) r.pcb r.bias

/-- JSTAMP of the journey of the berth at hand (18 R329). -/
def jstamp? (s : State) : Option (BitVec 32) := s.me.journey.map fun e => ((s.part e.1).journeys.get {} e.2).jstamp

/-- The record checks of an MDRAIN after the format: the destination's base key and stride. -/
def drainPlace (s : State) (h : Nat) (r : Rec) (rt : Route) (nd row0 col0 : Nat) : Except TrapInfo (Nat × Nat) :=
  let dest := rt.core (tierOf s.cur.core)
  let place := if rt.up then roomKey dest 0 else wsKey dest 0
  match s.recPlace r with
    | none => .error (recFault 0xC 0x10 h)
    | some key =>
      if key - offOfKey key ≠ place then .error (recFault 0xC 0x10 h)
      else
        let w := drainW r.fmt
        let stride := if r.stride = 0 then r.cols * w else r.stride
        let start := offOfKey key + 32 * nd + row0 * stride + col0 * w
        if r.rows < row0 + 64 || r.cols < col0 + 64 || (if rt.up then 2 ^ 24 else 2 ^ 19) < start + 63 * stride + 64 * w then
          .error (recFault 7 0x11 h)
        else if start % 32 ≠ 0 || stride % 32 ≠ 0 then .error (recFault 8 5 h)
        else .ok (place + start, stride)

/-- The issue of MDRAIN after the owner and concurrency checks. -/
def drainIssue (s : State) (a : TileNo) (h : Nat) (cv : Word) (it : Itin) (nd : Nat) (wake : Bool) : State :=
  let c := s.cur.core
  match s.mxRec h with
  | .error t => s.raiseInfo t
  | .ok r =>
    if !r.ok || !(r.fmt = 1 || r.fmt = 2 || r.fmt = 3 || r.fmt = 6 || r.fmt = 7) then s.raiseInfo (recFault 5 7 h)
    else match s.routeCheck c it .plain with
      | .error e => s.raiseRoute e
      | .ok rt =>
        match s.drainPlace h r rt nd (cv.toNat % 2 ^ 16) (cv.toNat / 2 ^ 16 % 2 ^ 16) with
        | .error t => s.raiseInfo t
        | .ok (base, stride) =>
          let s := s.countCols r
          let t := s.tileOf c a
          let n := s.scnAt c
          let st0 := if t.ivalid then t.istamp else n
          let st := match s.jstamp? with
            | some j => olderStamp st0 j
            | none => st0
          let stale := staleAt st r.limit n
          let key := roomKey c (s.recOff c h)
          if s.colsPoisoned r then s.raiseInfo (recFault 6 3 h)
          else if stale && r.spol = 0 then
            s.raise 0x11 4 (BitVec.ofNat 32 h) (BitVec.ofNat 64 (n.toNat * 2 ^ 32 + st.toNat))
          else
            let s := (s.noteRecord s.here key).notePhase s.here key
            if stale && r.spol = 2 then
              s.schedAux (s.acc + 20) phRec (some s.here) (.drainStamp s.here c (s.recOff c h) voidStamp)
            else
              let s := s.flagStale h true stale
              let w := drainW r.fmt
              let d : Drain :=
                { org := s.here, tile := a.toNat, core := c, h := h, hoff := s.recOff c h, fmt := r.fmt, clamp := r.clamp, rm := r.rm,
                  bpol := r.bpol, lo := r.lo, hi := r.hi, min := r.min, max := r.max, scales := s.colVals r.pcs r.scale,
                  biases := s.colVals r.pcb r.bias, dest := rt.core (tierOf c), up := rt.up, hops := rt.hops, base := base,
                  stride := stride, stamp := st, wake := if wake then some (cv.toNat / 2 ^ 32 % 16) else none }
              let s := s.modCluster (clusterOf c) fun k => { k with drain := some { org := some s.here, op := .mdrain, tile := a.toNat } }
              (s.schedAux (s.acc + 24) phSample (some s.here) (.drain d 0)).holdTile .mdrain a (s.acc + 24 + 64 * w)

/-- Cycle at which a drain group injected now takes effect. -/
def drainEff (s : State) (d : Drain) : Nat := s.acc + (if d.up then 11 else 8) + 2 * d.hops.length

/-- The report of a drain's first out-of-bound element, with the effect cycle of its group (09 R198). -/
def drainBound (s : State) (d : Drain) (i j : Nat) : State :=
  if d.bpol = 2 then
    s.schedAux (s.drainEff d) phEnd (some d.org)
      (.queue d.org { cause := 0x12, sub := 2, tinfo := BitVec.ofNat 32 d.h, tcoord := BitVec.ofNat 64 (256 * i + j), tipc := d.org.pc })
  else s.schedRow (s.drainEff d) phRec (some d.org) (.roomWriteEffect (.bflag (some d.org) d.core d.hoff))

/-- Group g of a drain reads the tile and is injected (10 R213). -/
def drainEvent (s : State) (d : Drain) (g : Nat) : State :=
  let w := drainW d.fmt
  let t := (s.cluster (clusterOf d.core)).tiles.get {} d.tile
  let (v, psn, oob) := drainGroup d t g
  let s := match oob with
    | some j => if d.oob then s else s.drainBound d (g / w) j
    | none => s
  let d := { d with oob := d.oob || oob.isSome }
  let tier := tierOf d.core
  let s := s.inject (s.drainEff d) phWrite d.org
    (.drainGroupEffect { org := d.org, g := g, key := d.base + g / w * d.stride + 64 * (g % w), data := v, psn := psn, inj := s.acc,
                         link := lastLink tier (meshIdx d.core) d.hops })
    (fwdLinks tier (meshIdx d.core) d.hops d.up s.acc) 1
  if g + 1 < 64 * w then s.schedAux (s.acc + 1) phSample (some d.org) (.drain d (g + 1))
  else
    let s := s.schedAux (s.drainEff d) phRec (some d.org) (.drainStamp d.org d.core d.hoff d.stamp)
    match d.wake with
    | some b => s.schedRow (s.drainEff d + 1) phWrite none (.wakeEffect ⟨d.dest, b⟩)
    | none => s

end State

/-- MDRAIN and MDRAIN.wake: the itinerary is checked with the record checks (10 R206, R213). -/
def drainOp (h : Hd) (a : TileNo) (b c : SReg) (it : Itin) (nd : BitVec 8) (wake : Bool) (s : State) : Res :=
  let w (s : State) : Nat := drainW (s.sampleRec clsM s.cur.core ((s.sreg b).toNat % 256)).fmt
  mxOp h [.s b, .s c] (fun s => 24 + 64 * w s) false true false true (some a) s fun s =>
    (s.countRecord ((s.sreg b).toNat % 256)).drainIssue a ((s.sreg b).toNat % 256) (s.sreg c) it nd.toNat wake

def execMdrain (h : Hd) (a : TileNo) (b c : SReg) (it : Itin) (nd : BitVec 8) (s : State) : Res := drainOp h a b c it nd false s
def execMdrainWake (h : Hd) (a : TileNo) (b c : SReg) (it : Itin) (nd : BitVec 8) (s : State) : Res := drainOp h a b c it nd true s

/-- DRAIN_GROUP_EFFECT (10 R213): a landing from outside at the destination. -/
def execDrainGroupEffect (g : DrainGroup) (s : State) : Res :=
  let dest := coreOfKey g.key
  if !(coreOk dest && (spaceOf g.key = .ws || spaceOf g.key = .room)) then .fault .noSuchUnit
  else
    let (hdr, flits) := s.flitUpset dest
    if spaceOf g.key = .ws && s.staleFor dest g.inj then .next (s.countDrop dest)
    else if hdr then .next ((s.noteFlits g.link 1).dropHeader dest g.org)
    else
      let s := (s.countFlits dest flits 8).noteFlits g.link (State.flitCount flits 8)
      let (s, bond) := if spaceOf g.key = .room && s.cur.denied.isNone then s.bondSpan dest g.key 64 else (s, 0)
      .next (s.arrive (some g.org) (s.taskOfOrg (some g.org)) g.key 64 g.data (ones 64) (g.psn ||| State.flitBytes flits 64 ||| bond) 3)

/-! ## MSAVE and MRESTORE (10 R214, R215, R419) -/

/-- The header of a save record (10 R214). -/
def saveHeader (t : Tile) : Nat :=
  let w0 := 0x4D53 + 2 ^ 16 + 2 ^ 24 * t.f32.toNat + 2 ^ 25 * t.sat.toNat + 2 ^ 26 * t.chk + 2 ^ 28 * t.step + 2 ^ 35 * t.part.toNat
    + 2 ^ 36 * t.ivalid.toNat + 2 ^ 37 * t.bfl.toNat
  let w1 := t.desc.mode + 2 ^ 8 * t.desc.ah + 2 ^ 16 * t.desc.k0s + 2 ^ 22 * t.desc.ks + 2 ^ 32 * t.desc.bh
  w0 + 2 ^ 64 * (w1 + 2 ^ 64 * (t.istamp.toNat + 2 ^ 64 * (t.mis.toNat + 2 ^ 64 * (t.wb.toNat + 2 ^ 64 * t.na.toNat))))

/-- MAGIC, VERSION and the zero fields hold. -/
def headerOk (v : Nat) : Bool :=
  let w (i : Nat) : Nat := v / 2 ^ (64 * i) % 2 ^ 64
  w 0 % 2 ^ 24 = 0x14D53 && w 0 / 2 ^ 41 = 0 && w 1 / 2 ^ 29 % 8 = 0 && w 1 / 2 ^ 40 = 0 && w 2 / 2 ^ 32 = 0 && w 6 = 0 && w 7 = 0

/-- The tile that a header and its elements give. -/
def tileOfSave (hdr : Nat) (els : List (BitVec 32)) : Tile :=
  let w (i : Nat) : Nat := hdr / 2 ^ (64 * i) % 2 ^ 64
  let b (i : Nat) : Bool := (w 0).testBit i
  let dsc : Desc := { mode := w 1 % 256, ah := w 1 / 2 ^ 8 % 256, k0s := w 1 / 2 ^ 16 % 64, ks := w 1 / 2 ^ 22 % 128, bh := w 1 / 2 ^ 32 % 256 }
  { data := els, f32 := b 24, sat := b 25, chk := w 0 / 2 ^ 26 % 4, step := w 0 / 2 ^ 28 % 128, part := b 35, ivalid := b 36,
    bfl := BitVec.ofNat 4 (w 0 / 2 ^ 37), desc := dsc, istamp := BitVec.ofNat 32 (w 2), mis := BitVec.ofNat 64 (w 3),
    wb := BitVec.ofNat 64 (w 4), na := BitVec.ofNat 64 (w 5) }

/-- The B handle of a header. -/
def headerBh (hdr : Nat) : Nat := hdr / 2 ^ 96 % 256

namespace State

/-- Group g of a save at its effect cycle. -/
def saveGroupEvent (s : State) (m : TileMove) (g : Nat) : State :=
  let key := roomKey m.core (m.off + 64 * g)
  let t := (s.cluster (clusterOf m.core)).tiles.get {} m.tile
  let v := if g = 0 then saveHeader t
    else ((t.els.drop (16 * (g - 1))).take 16).foldr (fun e v => e.toNat + v * 2 ^ 32) 0
  let task := m.task
  let s := match s.cur.denied with
    | some den => s.groupFailed m.org m.task m.core (s.bankInfo key den 2 (orgPc m.org))
    | none =>
      match s.lostPlace key 64 (ones 64) with
      | some k => s.groupFailed m.org m.task m.core (s.lostInfo k (orgPc m.org))
      | none =>
        let (s, bond) := s.bondSpan m.core key 64
        s.writeRoom task key 64 v (ones 64) bond
  if g < 256 then s.schedAux (m.first + g + 1) phWrite m.org (.saveGroup m (g + 1)) else s

/-- Poison that an element group of a restore meets (20 R359): no part of the tile is written, as for a group not served (A16); one trap is
queued, and a journey's own restore fails the journey. -/
def groupPoisoned (s : State) (m : TileMove) : State :=
  match m.org with
  | some o =>
    let (s, w) := s.warnOnce o
    if w then s else s.queueOrg (some o) { recFault 6 3 (headerBh m.hdr) with tipc := o.pc }
  | none => match m.task with
    | some (.journey p j) => s.failJourney p j m.core
    | _ => s

/-- Group g of a restore at its sample cycle; the tile is written 265 - 8 - 256 cycles after the last. -/
def restGroupEvent (s : State) (m : TileMove) (g : Nat) : State :=
  let key := roomKey m.core (m.off + 64 * g)
  let (s, m) := match s.cur.denied with
    | some den => (s.groupFailed m.org m.task m.core (s.bankInfo key den 2 (orgPc m.org)), { m with failed := true })
    | none =>
      let (s, bond) := s.bondSpan m.core key 64
      let s := s.countRead key 64
      if bond ≠ 0 || s.tainted key 64 then (s.groupPoisoned m, { m with failed := true })
      else (s, { m with data := m.data + s.readAs clsM key 64 * 256 ^ (64 * (g - 1)) })
  if g < 256 then s.schedAux (m.first + g) phSample m.org (.restGroup m (g + 1)) else s.schedAux (s.acc + 1) phLand m.org (.restored m)

/-- The completion of a restore. -/
def restoredEvent (s : State) (m : TileMove) : State :=
  if m.failed then s
  else s.modTile (clusterOf m.core) m.tile fun t =>
    { tileOfSave m.hdr ((List.range 4096).map fun k => BitVec.ofNat 32 (m.data / 2 ^ (32 * k))) with busy := t.busy }

/-- The checks of a save offset: range, then alignment (10 R206). -/
def saveOffFault (off : Nat) : Option TrapInfo :=
  if 2 ^ 24 < off + 16448 then some (recFault 7 0x11 off) else if off % 64 ≠ 0 then some (recFault 8 5 off) else none

/-- A restore from cycle `i` on of a record whose B load is b: the reload, then the element groups (10 R215). -/
def startRestore (s : State) (m : TileMove) (b : BLoad) (i : Nat) : State :=
  let nb := 64 * b.per / 512
  let s := s.startBLoad { b with first := i + 8, eff := i + 8 + nb }
  let s := s.schedAux (i + 16) phLand m.org (.selb m.core (headerBh m.hdr))
  s.schedAux (i + 9 + nb) phSample m.org (.restGroup { m with first := i + 9 + nb } 1)

end State

def execMsave (h : Hd) (a : TileNo) (b : SReg) (s : State) : Res :=
  mxOp h [.s b] (fun _ => 265) false true true false (some a) s fun s =>
    let off := (s.sreg b).toNat % 2 ^ 24
    match State.saveOffFault off with
    | some t => s.raiseInfo t
    | none =>
      let m : TileMove := { org := some s.here, task := s.taskOfOrg (some s.here), core := s.cur.core, tile := a.toNat, off := off,
                            first := s.acc + 19 }
      ((s.schedAux (s.acc + 19) phWrite (some s.here) (.saveGroup m 0)).modTile (clusterOf s.cur.core) a.toNat
        fun t => { t with busy := true }).takeArray .msave a.toNat (s.acc + 265)

def execMrestore (h : Hd) (d : TileNo) (b : SReg) (s : State) : Res :=
  let off (s : State) : Nat := (s.sreg b).toNat % 2 ^ 24
  let hdr (s : State) : Nat := s.readAs clsM (roomKey s.cur.core (off s)) 64
  let nb (s : State) : Nat := 64 * sliceBytes (s.sampleRec clsM s.cur.core (headerBh (hdr s))) / 512
  mxOp h [.s b] (fun s => 265 + nb s) false true true false (some d) s fun s =>
    match State.saveOffFault (off s) with
    | some t => s.raiseInfo t
    | none =>
      let (s, bond) := s.bondSpan s.cur.core (roomKey s.cur.core (off s)) 64
      let s := s.countRead (roomKey s.cur.core (off s)) 64
      if bond ≠ 0 || s.tainted (roomKey s.cur.core (off s)) 64 then s.raiseInfo (recFault 6 3 (headerBh (hdr s)))
      else if !headerOk (hdr s) then s.raiseInfo (recFault 5 6 (off s))
      else
        let s := s.countRecord (headerBh (hdr s))
        match s.checkB (headerBh (hdr s)) with
        | .error t => s.raiseInfo t
        | .ok (r, row) =>
          let i := s.acc
          let n := nb s
          let m : TileMove := { org := some s.here, task := none, core := s.cur.core, tile := d.toNat, off := off s, first := 0, hdr := hdr s }
          let bl : BLoad := { org := some s.here, task := none, core := s.cur.core, origin := r.origin, fmt := r.fmt, cols := r.cols,
                              row := row, per := sliceBytes r, first := 0, eff := 0 }
          ((s.startRestore m bl i).modTile (clusterOf s.cur.core) d.toNat fun t => { t with busy := true }).takeArray
            .mrestore d.toNat (i + 265 + n)

/-- MACRO_OP_COMPLETION (09 R192, 10 R212 to R215): the tile's BUSY and the array or the drain path are free. -/
def execMacroOpCompletion (cl : Nat) (op : MacroOp) (tile : Nat) (s : State) : Res :=
  if 24 ≤ cl || 4 ≤ tile then .fault .noSuchUnit else .next (s.releaseMacro cl op tile)

/-! ## MCHK and MSTAT (10 R216, R217) -/

def execMchk (h : Hd) (sel : Fin 3) (d : SReg) (a : TileNo) (s : State) : Res :=
  mxOp h [] (fun _ => 0) false false false false none s fun s =>
    let t := s.tileOf s.cur.core a
    s.landS (s.acc + 16) d (match sel.val with
      | 0 => t.mis
      | 1 => t.wb
      | _ => t.na)

/-- MSTAT.tile's word. -/
def tileWord (t : Tile) : Nat :=
  t.f32.toNat + 2 * t.sat.toNat + 4 * t.busy.toNat + 8 * t.chk + 32 * t.step + 2 ^ 12 * t.part.toNat + 2 ^ 13 * t.ivalid.toNat
    + 2 ^ 14 * t.bfl.toNat + 2 ^ 18 * t.desc.ks + 2 ^ 32 * t.istamp.toNat

/-- MSTAT.eng's word. -/
def State.engWord (s : State) : Nat :=
  let c := s.cur.core
  let k := s.cluster (clusterOf c)
  let row := s.ownerRow (clusterOf c) (s.ttcOf c)
  let (rown, owns) : Nat × Bool := match row with
    | some (n, _) => (n, (s.core c).owned.getLsbD n)
    | none => (0x1F, false)
  let (selb, selbv) : Nat × Bool := match (s.core c).selb with
    | some h => (h, true)
    | none => (0, false)
  rown + 32 * k.array.isSome.toNat + 64 * k.drain.isSome.toNat + 128 * (k.array.elim 0 fun a => a.tile)
    + 512 * (k.drain.elim 0 fun a => a.tile) + 2 ^ 11 * owns.toNat + 2 ^ 12 * selb + 2 ^ 20 * selbv.toNat

def execMstat (h : Hd) (d : SReg) (form : MstatForm) (s : State) : Res :=
  mxOp h [] (fun _ => 0) false false false false none s fun s =>
    s.landS (s.acc + 16) d (BitVec.ofNat 64 (match form with
      | .tile a => tileWord (s.tileOf s.cur.core a)
      | .eng => s.engWord))

end Sys2Proof.Machine
end

