-- ==== Sys2Proof/Machine/Stack.lean ====
section
/-! DEFINITION. The stack: beats and their positions, the common room's replicas and the keeper, stairwells, and tiers put to sleep
and woken (12 R243 to R264). -/

namespace Sys2Proof.Machine

/-- GT units of a cycle, by clock step (22 R381). -/
def gtStep (cur : Nat) : Nat :=
  match cur with
  | 0 => 240
  | 1 => 276
  | 2 => 345
  | 3 => 460
  | _ => 690

/-! ## The beat's header and its CRC (12 R244, R245, 21 R378) -/

/-- One bit through a CRC register, most significant bit first, no reflection, no final XOR (12 R245, R252). -/
def crcBit {w : Nat} (poly r : BitVec w) (b : Bool) : BitVec w := if r.msb == b then r <<< 1 else (r <<< 1) ^^^ poly

def crcOf {w : Nat} (poly init : BitVec w) (bits : List Bool) : BitVec w := bits.foldl (crcBit poly) init

/-- The n low bytes of v, byte 0 first, each most significant bit first. -/
def byteBits (n v : Nat) : List Bool := (List.range (8 * n)).map fun i => v.testBit (8 * (i / 8) + 7 - i % 8)

/-- The CRC-16 of a beat over header bits [47:0], with EDGE and NACK taken as zero, and the payload (12 R245). -/
def beatCrc (init : BitVec 16) (head payload : Nat) : BitVec 16 :=
  crcOf 0x1021 init (byteBits 6 (head &&& 0xCFFF_FFFF_FFFF) ++ byteBits 64 payload)

/-- The header of a beat (12 R244), its EDGE and NACK bits as the hall and an earlier beat's target drive them. -/
def beatHeader (b : Beat) (edge nack : Bool) : BitVec 64 :=
  let low := b.kind % 16 + 2 ^ 4 * (b.src % 8) + 2 ^ 7 * (b.dtier % 8) + 2 ^ 10 * (b.dpos % 16) + 2 ^ 14 * (b.off % 2 ^ 24)
    + 2 ^ 38 * (b.aop % 32) + 2 ^ 43 * b.psn.toNat + 2 ^ 44 * edge.toNat + 2 ^ 45 * nack.toNat
  BitVec.ofNat 64 (low + 2 ^ 48 * (beatCrc 0xFFFF low b.data).toNat)

/-- The syndrome of a pattern of inverted beat bits: the CRC that the receiver computes differs by it from the CRC it reads. The
check is linear, so the beat's contents do not enter; a pattern of syndrome 0 is not seen and is taken as none (A23). -/
def beatSyndrome (flips : Nat) : BitVec 16 := beatCrc 0 flips (flips / 2 ^ 64) ^^^ BitVec.ofNat 16 (flips / 2 ^ 48)

/-- The steps from the last bit under the CRC back to the bit of this syndrome. -/
def syndromeWalk : Nat → BitVec 16 → BitVec 16 → Option Nat
  | 0, _, _ => none
  | n + 1, r, syn => if r = syn then some 0 else (syndromeWalk n (crcBit 0x1021 r false) syn).map (· + 1)

/-- The beat bit that a syndrome names (12 R245). -/
def syndromeBit (syn : BitVec 16) : Option Nat :=
  match (List.range 16).find? fun j => syn = 1 <<< j with
  | some j => some (48 + j)
  | none => (syndromeWalk 560 0x1021 syn).bind fun k =>
    let t := 559 - k
    let bit := 8 * (t / 8) + 7 - t % 8 + (if t < 48 then 0 else 16)
    if bit = 44 || bit = 45 then none else some bit

/-- The CRC-8 syndrome of inverted bits of a stairwell entry: 2,048 of data, 4 of the tag, 8 of the CRC itself (12 R252). -/
def stairSyndrome (flips : Nat) : BitVec 8 :=
  crcOf 0x07 0 (byteBits 256 flips ++ (List.range 4).map fun j => flips.testBit (2051 - j)) ^^^ BitVec.ofNat 8 (flips / 2 ^ 2052)

namespace State

/-! ## Beat cycles and positions (12 R243, R246, R257, 16 R288) -/

/-- The servo's slews, within 200 ppm, and its steps, which it never makes while SEQCTL.EN = 1 (22 R388). -/
def servoAct (s : State) (a : GtServo) : State :=
  match a with
  | .slew r => { s with aon := { s.aon with rate := max (-200) (min 200 r) } }
  | .jump t => if s.seq.en then s else { s with gt := t }

/-- The servo's acts of this tick. -/
def servoTick (s : State) : State :=
  match s.servo with
  | [] => s
  | l => (l.filter fun e => e.1 = s.ticks).foldl (fun s e => s.servoAct e.2) { s with servo := l.filter fun e => s.ticks < e.1 }

/-- GT goes on by a cycle, at the servo's rate, once the firmware has started it (22 R388, R389). -/
def tickGt (s : State) : State :=
  let d := if s.aon.gtOn then gtStep s.freq.cur else 0
  let e := s.aon.part + d * s.aon.rate
  { s with gt := ((s.gt + d : Nat) + e / 1000000).toNat, ticks := s.ticks + 1, aon := { s.aon with part := e % 1000000 } }.servoTick

/-- The state with GT as it is k cycles from now. -/
def gtAhead (s : State) : Nat → State
  | 0 => s
  | k + 1 => s.tickGt.gtAhead k

/-- The edge beat takes the cycle k after this one: b_E is the first cycle that begins at or after E (16 R288). -/
def edgeBeatIn (s : State) (k : Nat) : Bool :=
  match k with
  | 0 => s.seq.bE = some s.acc
  | k + 1 => s.seq.en && (s.gtAhead k).gt < 552 * s.seq.next && 552 * s.seq.next ≤ (s.gtAhead (k + 1)).gt

/-- A count that now stands at `ttc`, k cycles on: it restarts at the edge cycle. -/
def ttcIn (s : State) (ttc k : Nat) : Nat :=
  match s.seq.edgeAt with
  | some e => if s.acc < e && e ≤ s.acc + k then s.acc + k - e else ttc + k
  | none => ttc + k

/-- Phase marks of a logical core of a partition (06 R139). -/
def marksOf (s : State) (p l : Nat) : List Nat :=
  match s.physCore p l with
  | some c => (s.core c).phases.map fun r => r.mark
  | none => []

/-- The TTC of the mark at which a pending choice issued at TTC t takes effect (12 R257). -/
def slotMark (s : State) (p t : Nat) : Option Nat := (s.marksOf p 0).find? fun m => t + 16 < m

/-- The active entry of a partition k cycles from now (12 R246, R257). -/
def entryIn (s : State) (p k : Nat) : Nat :=
  if s.seq.edgeAt.any fun e => s.acc ≤ e && e ≤ s.acc + k then 0
  else match (s.part p).slotPend with
    | none => (s.part p).slotEntry
    | some (n, t, _) => match s.slotMark p t with
      | some m => if m ≤ s.hall.ttc + k then n else (s.part p).slotEntry
      | none => (s.part p).slotEntry

/-- OWN of a beat position in a partition k cycles from now: 7 where the position is another partition's, or no entry gives it. -/
def ownIn (s : State) (p pos k : Nat) : Nat :=
  match (s.part p).plan with
  | some pl =>
    if (s.part p).row.valid && (s.part p).row.slots.getLsbD pos then (pl.slotmaps.getD (s.entryIn p k) []).getD pos 7 else 7
  | none => 7

/-- The valid windows of a partition at a TTC (17 R312). -/
def windowsAt (s : State) (p ttc : Nat) : List (Nat × WindowRow) :=
  match (s.part p).plan with
  | some pl => ((List.range pl.windows.length).zip pl.windows).filter fun w => w.2.valid && w.2.start ≤ ttc && ttc < w.2.fin
  | none => []

/-- A position of a logical tier that is kept for outbound courier beats (17 R312). -/
def outWindow (s : State) (p tier ttc : Nat) : Bool :=
  (s.windowsAt p ttc).any fun w => w.2.tier = tier && (w.2.dir = 1 || w.2.dir = 2)

/-- A core of the tier sends a beat in cycle b. -/
def tierSends (s : State) (tier b : Nat) : Bool :=
  s.agenda.any fun e => e.at_ = b && (match e.act, e.org with
    | .row (.stackBeat _), some o => tierOf o.core = tier
    | _, _ => false)

/-- The position check of 12 R247, with that of 17 R312: the fault's SUB and TINFO. -/
def slotCheck (s : State) : Option (BitVec 8 × Nat) :=
  let t := tierOf s.cur.core
  let p := s.myPart
  let ttc := s.ttcIn (s.ttcOf s.cur.core) 2
  let pos := ttc % 64
  let own := s.ownIn p pos 2
  if own ≠ s.logTier p t || s.edgeBeatIn 2 then some (0x20, pos + 64 * own)
  else if s.outWindow p own ttc then some (0x23, pos)
  else if s.tierSends t (s.acc + 2) then some (0x21, pos)
  else none

/-! ## Power states of tiers (12 R251, R262, R263) -/

/-- The tier counts as asleep for beats (12 R251). -/
def tierAway (s : State) (t : Nat) : Bool :=
  let w := (s.tier t).power
  w.state = 2 || (w.state = 3 && s.acc < w.wakeAt)

/-- A directed beat to the tier is refused at issue. -/
def tierRefuses (s : State) (t : Nat) : Bool := s.tierAway t || (s.tier t).power.state = 1

/-! ## Receivers and replicas (12 R249, R250) -/

/-- The keeper is replica 6. -/
def replicaOf (s : State) (r : Nat) : Replica := if r = 6 then s.hall.keeper else (s.tier r).replica

def setReplica (s : State) (r : Nat) (x : Replica) : State :=
  if r = 6 then { s with hall := { s.hall with keeper := x } } else s.modTier r fun t => { t with replica := x }

/-- A receiver that runs. -/
def rxAwake (s : State) (r : Nat) : Bool := r = 6 || !s.tierAway r

/-- The bits of this cycle's beat that a receiver reads inverted (A3): none on a channel that a spare replaces (12 R249). -/
def beatFlips (s : State) (r : Nat) : Nat :=
  s.upsets.foldl (fun m u => match u with
    | .beat a rx l =>
      if a = s.acc && rx = r && s.rxAwake r then l.foldl (fun m b => if s.hall.swapped.contains (b / 2) then m else m ^^^ 2 ^ b) m else m
    | _ => m) 0

/-- The beat of this cycle fails its CRC at a receiver (12 R245). -/
def beatFails (s : State) (r : Nat) : Bool := s.beatFlips r ≠ 0 && beatSyndrome (s.beatFlips r) ≠ 0

/-- The channel that the syndrome of this cycle's beat names at a receiver (12 R249, 21 R378). -/
def failChan (s : State) (r : Nat) : Option Nat := (syndromeBit (beatSyndrome (s.beatFlips r))).map (· / 2)

/-- The NACK of this cycle as a party reads it: the OR of its two copies (12 R245). -/
def nackSeen (s : State) (r : Nat) (driven : Bool) : Bool :=
  (if driven then 3 else 0 : BitVec 2) ≠ s.upsets.foldl (fun m u => match u with
    | .nack a rx v => if a = s.acc && rx = r then m ^^^ v else m
    | _ => m) 0

/-- The receivers at which the beat of this cycle fails. -/
def failedRx (s : State) : List Nat := (List.range 7).filter fun r => s.beatFails r

/-- A replica becomes behind at the beat of cycle b; one that is behind starts its count again from the next copy beat (12 R250). -/
def makeBehind (s : State) (r b : Nat) : State :=
  let x := s.replicaOf r
  if x.behind then s.setReplica r { x with count := 0, after := b }
  else
    let s := s.setReplica r { behind := true, since := b % 2 ^ 48, count := 0, after := b, seen := false }
    { s with hall := { s.hall with behind := satInc 8 s.hall.behind } }

/-- A replica becomes current; a gate recorded for a waking tier becomes pending (12 R250, R262). -/
def makeCurrent (s : State) (r : Nat) : State :=
  let s := s.setReplica r {}
  if r = 6 then s
  else s.modTier r fun t => match t.power.recorded with
    | some d => { t with power := { t.power with state := 1, deadline := d, gateFrom := s.acc, edge := false, recorded := none } }
    | none => t

/-! ## Sending -/

/-- TINFO of the peer-absent faults of directed beats: DTIER, DPOS, OFFSET (12 R249). -/
def absentInfo (s : State) (b : Beat) : BitVec 32 :=
  BitVec.ofNat 32 ((if b.dtier = 6 then 6 else s.logTier b.part b.dtier) + 8 * b.dpos + 256 * (b.off % 2 ^ 24))

/-- A beat goes out in this cycle: what its receivers and its target will do (12 R248, R249, 17 R311). -/
def sendNow (s : State) (b : Beat) : State :=
  let failed := s.failedRx
  let s := { s with hall := { s.hall with sent := some s.acc, sentKind := b.kind, sentData := b.data } }
  if b.kind ≤ 3 then
    (failed.foldl (fun s r => s.makeBehind r s.acc) s).schedAux (s.acc + 6) phWrite b.org (.beatApply b failed)
  else
    let lost := failed.contains b.dtier
    let s := s.schedAux (s.acc + 4) phEnd b.org (.nack b lost)
    if lost then s
    else if b.kind = 8 then match b.req, b.org with
      | some r, some o => s.schedRow (s.acc + 6) phWrite (some o) (.courierRequestAccept b.part o r)
      | _, _ => s
    else s.schedRow (s.acc + 10) phWrite b.org (if b.dtier = 6 then .hallOutputWrite b else .directedBeatEffect b)

/-- The beat of the instruction at hand, two cycles later (12 R247). -/
def sendBeat (s : State) (b : Beat) : State := s.schedRow (s.acc + 2) phSample (some s.here) (.stackBeat b)

/-- A beat of the instruction at hand, empty but for its kind and source. -/
def beatOf (s : State) (kind : Nat) : Beat :=
  { kind := kind, src := tierOf s.cur.core, dtier := 7, dpos := 0, off := 0, aop := 0, psn := false, data := 0, org := some s.here,
    part := s.myPart, dreg := none, tries := 1, copy := 0, seg := 0, req := none }

/-- The data of a beat: bytes, value and PSN (12 R254). -/
def beatData (s : State) : BeatData → Nat × Nat × Bool
  | .d b => (8, (s.sreg b).toNat, false)
  | .v b q => (64, (s.vreg b).toNat / 2 ^ (512 * q.toNat) % 2 ^ 512, s.vtag b = 15)

end State

def beatSrcs : BeatData → List Src
  | .d b => [.s b]
  | .v b _ => [.v b, .tag b]

def beatSize : BeatData → Nat
  | .d _ => 8
  | .v .. => 64

/-! ## SBW, SBAMO, SBD (12 R253 to R256) -/

/-- The issue of a stack access: the limits of 12 R253, place then alignment; a vector SBD must end within the common room. -/
def stackOp (h : Hd) (srcs : List Src) (a : SReg) (x : BitVec 48) (size align bits : Nat) (s : State) (f : State → Nat → State) : Res :=
  issueOp h (.s a :: srcs) s fun s =>
    let ea := s.ea a x
    if 2 ^ bits ≤ ea.toNat || (size = 256 && 2 ^ bits < ea.toNat + size) then s.raise 7 0x15 (ea.setWidth 32)
    else if ea.toNat % align ≠ 0 then s.raiseFree 8 7
    else f s ea.toNat

namespace State

/-- The slot fault at issue, or the action. -/
def onSlot (s : State) (k : State → State) : State :=
  match s.slotCheck with
  | some (sub, tinfo) => s.raise 0xE sub (BitVec.ofNat 32 tinfo)
  | none => k s

/-- The target of a directed SBW: its E96 tier and mesh index, when it is in service (12 R254). -/
def dirTarget (s : State) (c : SReg) : Option (Nat × Nat) :=
  let v := (s.sreg c).toNat
  if 5 < v % 8 then none
  else match s.physTier s.myPart (v % 8) with
    | some t => if s.posOut s.myPart t (v / 8 % 16) then none else some (t, v / 8 % 16)
    | none => none

end State

def execSbw (h : Hd) (dir : Option SReg) (data : BeatData) (a : SReg) (x : BitVec 48) (s : State) : Res :=
  let n := beatSize data
  match dir with
  | none =>
    stackOp h (beatSrcs data) a x n n 22 s fun s off => s.onSlot fun s =>
      let (_, v, psn) := s.beatData data
      s.sendBeat { s.beatOf (if n = 8 then 1 else 2) with off := off, data := v, psn := psn }
  | some c =>
    stackOp h (beatSrcs data ++ [.s c]) a x n n 24 s fun s off =>
      match s.dirTarget c with
      | none => s.raise 7 0x15 ((s.sreg c).setWidth 32)
      | some (t, m) => s.onSlot fun s =>
        let (_, v, psn) := s.beatData data
        let b := { s.beatOf (if n = 8 then 4 else 5) with dtier := t, dpos := m, off := off, data := v, psn := psn }
        if s.tierRefuses t then s.raise 0xF 1 (s.absentInfo b) else s.sendBeat b

/-- SBAMO: a commit point. The beat's AOP holds F. -/
def execSbamo (h : Hd) (op : Fin 9) (dbl : Bool) (d a b c : SReg) (x : BitVec 48) (s : State) : Res :=
  let n := if dbl then 8 else 4
  stackOp h (.s b :: (if op = 2 then [.s c] else [])) a x n n 22 s fun s off =>
    let r := s.replicaOf (tierOf s.cur.core)
    if r.behind then s.raise 0x10 2 (BitVec.ofNat 32 r.since)
    else s.onSlot fun s =>
      let cv := if op = 2 then (s.sreg c).toNat else 0
      (s.sendBeat { s.beatOf 3 with off := off, aop := 2 * op.val + dbl.toNat, data := (s.sreg b).toNat + 2 ^ 64 * cv, dreg := some d }).commit

def execSbd (h : Hd) (form : LdForm) (a : SReg) (x : BitVec 48) (s : State) : Res :=
  let (n, al) := ldFormSize form
  stackOp h (ldFormSrcs form) a x n al 22 s fun s off =>
    let r := s.replicaOf (tierOf s.cur.core)
    if r.behind then s.raise 0x10 1 (BitVec.ofNat 32 r.since) (BitVec.ofNat 64 off)
    else s.schedAux (s.acc + 20) phSample (some s.here) (.stackLoad s.here off form (s.ldFormMask form))

/-- SBD at its sample cycle: the issuing tier's replica (12 R256). -/
def State.stackLoadEvent (s : State) (o : Org) (off : Nat) (form : LdForm) (mask : Mask) : State :=
  let key := commonKey (tierOf o.core) off
  let n := (ldFormSize form).1
  let s := s.countRead key n
  s.landForm o (o.issue + 36) form mask (s.readAs clsS key n) (fun i n => s.tainted (key + i) n) 3 (BitVec.ofNat 32 off)

/-! ## SBMAP and SBSEQ (12 R257, R258) -/

/-- SBMAP records the partition's pending choice: a later issue replaces it; of two in one cycle the lower logical core's stands. -/
def execSbmap (h : Hd) (n : BitVec 3) (s : State) : Res :=
  issueOp h [] s fun s =>
    let p := s.myPart
    let t := s.ttcOf s.cur.core
    let l := match (s.core s.cur.core).owner with
      | some (_, l) => l
      | none => 0
    match (s.part p).slotPend with
    | some (_, t', l') =>
      if t' = t && l' < l then s else s.modPart p fun k => { k with slotPend := some (n.toNat, t, l) }
    | none => s.modPart p fun k => { k with slotPend := some (n.toNat, t, l) }

namespace State

/-- STATE of logical tier t of a partition; 0 where it has none. -/
def stateOfTier (s : State) (p t : Nat) : Nat :=
  match s.physTier p t with
  | some q => (s.tier q).power.state
  | none => 0

/-- SBSEQ's words: .seq, .rep, .tier. -/
def seqWord (s : State) (f : Fin 3) : Nat :=
  match f.val with
  | 0 => (s.acc + 2) % 2 ^ 48
  | 1 =>
    let r := s.replicaOf (tierOf s.cur.core)
    r.behind.toNat + 2 * (r.behind && r.seen).toNat + (if r.behind then 2 ^ 16 * (r.since % 2 ^ 48) else 0)
  | _ => (List.range 6).foldl (fun v t => v + 4 ^ t * s.stateOfTier s.myPart t) 0 + 2 ^ 12 * s.hall.keeper.behind.toNat

end State

def execSbseq (h : Hd) (f : Fin 3) (d : SReg) (s : State) : Res :=
  issueOp h [] s fun s => s.landS (s.acc + 16) d (BitVec.ofNat 64 (s.seqWord f))

/-! ## Events of beats -/

/-- STACK_BEAT (12 R248): the beat of this cycle; the positions of a tier that is asleep carry empty beats (12 R251). -/
def execStackBeat (b : Beat) (s : State) : Res :=
  if !(b.dtier < 8 && b.src < 8 && b.org.all fun o => coreOk o.core && o.berth < 16) then .fault .noSuchUnit
  else .next (if b.src < 6 && s.tierAway b.src then s else s.sendNow b)

namespace State

/-- A write beat in one replica. -/
def applyWrite (s : State) (b : Beat) (r : Nat) : State :=
  let n := if b.kind = 1 then 8 else 64
  s.writeAt (commonKey r b.off) n b.data (ones n) (if b.psn then ones n else 0)

/-- An atomic beat in one replica (12 R255): the new state, and what the issuer learns if the replica is its own: the old value, or
the cause and SUB of its trap. -/
def applyAtomic (s : State) (b : Beat) (r : Nat) : State × Except (BitVec 8 × BitVec 8) Nat :=
  let n := if b.aop % 2 = 1 then 8 else 4
  let key := commonKey r b.off
  if s.eccAny key n .unc then ((s.countRead key n).makeBehind r (s.acc - 6), .error (0x10, 3))
  else if s.eccAny key n .poison then (s, .error (6, 3))
  else
    let s := s.countRead key n
    let old := s.readAs clsS key n
    let new := atomNew (Fin.ofNat 9 (b.aop / 2)) (8 * n) old (b.data % 2 ^ (8 * n)) (b.data / 2 ^ 64 % 2 ^ (8 * n))
    (s.writeAt key n new (ones n) 0, .ok old)

/-- What the issuer of an SBAMO learns. -/
def atomicOutcome (s : State) (b : Beat) (res : Except (BitVec 8 × BitVec 8) Nat) : State :=
  match b.org with
  | none => s
  | some o =>
    match res with
    | .ok old =>
      let op := b.aop / 2
      let n := if b.aop % 2 = 1 then 8 else 4
      let sg := n = 4 && op ≠ 5 && op ≠ 6
      s.schedRow (s.acc + 2) phLand (some o)
        (.landing { org := o, dests := [.s (b.dreg.getD 0) (extLoad n sg old)], flags := 0 })
    | .error (cause, sub) =>
      let (w, s) := s.freeWord
      s.queueFor o cause sub (w.setWidth 32)

/-- The effect of a beat of KIND 1 to 3, six cycles after it: in every awake replica and the keeper that received it, whether current
or behind (12 R248, R250). The result of an SBAMO is not served from a replica that has become behind since its issue: its issuer takes the
replica-behind fault (R250, R255). -/
def beatApply (s : State) (b : Beat) (failed : List Nat) : State :=
  let rs := (List.range 7).filter fun r => s.rxAwake r && !failed.contains r
  if b.kind ≠ 3 then rs.foldl (fun s r => s.applyWrite b r) s
  else
    let own := tierOf ((b.org.map fun o => o.core).getD 0)
    let (s, out) := rs.foldl (fun (a : State × Except (BitVec 8 × BitVec 8) Nat) r =>
      let (s, x) := a.1.applyAtomic b r
      (s, if r = own && !(a.1.replicaOf r).behind then x else a.2)) (s, .error (0x10, 3))
    s.atomicOutcome b out

/-- Logs a beat given up after its fourth sending, by its target's place and its beat cycle (20 R375, 0x16). -/
def logGiveUp (s : State) (tier pos place b : Nat) : State :=
  let (w, s) := s.freeWord
  s.logEv 1 0x16 tier pos 0 (w.toNat % 256) (place % 2 ^ 48) (b % 2 ^ 48)

def logDrop (s : State) (b : Beat) : State :=
  s.logGiveUp b.dtier b.dpos (if b.dtier = 6 then hallKey b.off else roomKey (coreAtMesh b.dtier b.dpos) b.off) (s.acc - 4)

/-- A courier request is given up (17 R311): TINFO holds the handle and the copy ID of a CPY. -/
def dropRequest (s : State) (b : Beat) : State :=
  let info := match b.req with
    | some (.copy _ _ _ _ _ _ _ _ _ _ h _ id) => h % 256 + 2 ^ 16 * (id % 2 ^ 16)
    | _ => 0
  match b.org with
  | some o => s.queueFor o 0x14 6 (BitVec.ofNat 32 info)
  | none => s

/-- The transmitter of a directed beat or a request reads NACK four cycles after the beat: it is sent again, or given up after the
fourth sending (12 R249, 16 R298, 17 R311). -/
def nackEvent (s : State) (b : Beat) (driven : Bool) : State :=
  if !s.nackSeen b.src driven then s
  else if b.tries < 4 then
    if b.src = 6 then { s with hall := { s.hall with again := s.hall.again ++ [(s.acc + 1, b)] } }
    else s.schedRow (s.acc + 1) phEnd b.org (.nackResend b)
  else
    let s := s.logDrop b
    if b.kind = 8 then s.dropRequest b
    else match b.org with
      | some o => s.queueFor o 0xF 2 (s.absentInfo b)
      | none => s.logEv 3 0x37 b.dtier b.dpos 0 0 (roomKey (coreAtMesh b.dtier b.dpos) b.off % 2 ^ 48) b.copy

/-- Another core of the tier and the partition, of lower mesh index, resends in this cycle. -/
def lowerResends (s : State) (b : Beat) : Bool :=
  s.agenda.any fun e => e.at_ = s.acc && (match e.act, e.org, b.org with
    | .row (.nackResend c), some o, some p => c.src = b.src && c.part = b.part && meshIdx o.core < meshIdx p.core
    | _, _, _ => false)

/-- This cycle is a position in which a tier's core may resend: its own, with no beat sent in it, and not an outbound window's. -/
def mayResend (s : State) (b : Beat) : Bool :=
  let t := s.logTier b.part b.src
  !s.tierAway b.src && s.ownIn b.part (s.hall.ttc % 64) 0 = t && !s.edgeBeatIn 0 && s.hall.sent ≠ some s.acc && !s.outWindow b.part t s.hall.ttc
    && !s.lowerResends b

end State

/-- NACK_RESEND (12 R249): the beat is sent again as a new beat in this position, or waits for the next one. -/
def execNackResend (b : Beat) (s : State) : Res :=
  if !(b.dtier < 8 && b.src < 6) then .fault .noSuchUnit
  else .next (
    if s.mayResend b then
      ({ s with hall := { s.hall with retry := satInc 16 s.hall.retry } }).sendNow { b with tries := b.tries + 1 }
    else s.schedRow (s.acc + 1) phEnd b.org (.nackResend b))

/-- DIRECTED_BEAT_EFFECT (12 R248, R251): the write in the target room. A delivery beat has no sending berth, and its failure is
logged (16 R298). -/
def execDirectedBeatEffect (b : Beat) (s : State) : Res :=
  if !(b.dtier < 6 && b.dpos < 16) then .fault .noSuchUnit
  else
    let n := if b.kind = 4 then 8 else 64
    let c := coreAtMesh b.dtier b.dpos
    let key := roomKey c b.off
    let lost := s.tierAway b.dtier || s.cur.denied.isSome
    .next (match b.org with
      | none =>
        if lost then s.logEv 3 0x37 b.dtier b.dpos 0 0 (key % 2 ^ 48) b.copy
        else s.arrive none none key n b.data (ones n) (if b.psn then ones n else 0) 5
      | some o =>
        if s.tierAway b.dtier then s.queueFor o 0xF 1 (s.absentInfo b)
        else s.arrive b.org (s.taskOfOrg b.org) key n b.data (ones n) (if b.psn then ones n else 0) 5)

/-! ## Resync (12 R250) -/

namespace State

/-- A replica that is awake and behind waits for copies. -/
def anyBehind (s : State) : Bool := (List.range 7).any fun r => s.rxAwake r && (s.replicaOf r).behind

/-- The source of copy beats: the keeper, or the awake current tier replica of lowest number while the keeper is behind. -/
def copySource (s : State) : Option Nat :=
  if !s.hall.keeper.behind then some 6 else (List.range 6).find? fun t => s.rxAwake t && !(s.tier t).replica.behind

/-- A copy beat in one replica that is behind: one sent after the last beat it missed counts. -/
def applyCopy (s : State) (line src r : Nat) : State :=
  let from_ := commonKey src (64 * line)
  let psn := (List.range 8).foldl (fun m i => if s.tainted (from_ + 8 * i) 8 then m + 255 * 2 ^ (8 * i) else m) 0
  let s := s.writeAt (commonKey r (64 * line)) 64 (s.readRaw from_ 64) (ones 64) psn
  let x := s.replicaOf r
  if s.acc ≤ x.after + 6 then s.setReplica r { x with seen := true }
  else if 65535 ≤ x.count then s.makeCurrent r else s.setReplica r { x with count := x.count + 1, seen := true }

/-- A copy beat takes effect; the words read for it are counted (20 R357). -/
def copyApply (s : State) (line src : Nat) (failed : List Nat) : State :=
  let s := s.countRead (commonKey src (64 * line)) 64
  ((List.range 7).filter fun r => r ≠ src && s.rxAwake r && (s.replicaOf r).behind && !failed.contains r).foldl
    (fun s r => s.applyCopy line src r) s

end State

/-- RESYNC_COPY_BEAT (12 R250): the copy beat of this cycle. A replica that fails it becomes behind (R249). -/
def execResyncCopyBeat (line : Nat) (s : State) : Res :=
  if !(line < 65536) then .fault .noSuchUnit
  else
    let failed := s.failedRx
    .next (match s.copySource with
      | none => s
      | some src =>
        let s := (failed.filter fun r => r ≠ src).foldl (fun s r => s.makeBehind r s.acc) s
        { s with hall := { s.hall with sent := some s.acc, sentKind := 6, sentData := s.readRaw (commonKey src (64 * line)) 64, line := (line + 1) % 65536 } }.schedAux (s.acc + 6) phWrite none
          (.copyApply line src failed))

/-! ## Stairwells (12 R252, R259 to R261) -/

namespace State

/-- The core that a core's stairwell leads to (up: the tier above), within the partition. -/
def stairTo (s : State) (c : Nat) (dn : Bool) : Option Nat :=
  let p := s.partOf c
  let l := s.logTier p (tierOf c)
  if dn && l = 0 then none
  else match s.physTier p (if dn then l - 1 else l + 1) with
    | some t => if s.inPart p (t * 16 + c % 16) then some (t * 16 + c % 16) else none
    | none => none

def senderOf (s : State) (c : Nat) (dn : Bool) : Sender := if dn then (s.core c).sendDn else (s.core c).sendUp
def setSender (s : State) (c : Nat) (dn : Bool) (x : Sender) : State :=
  s.modCore c fun k => if dn then { k with sendDn := x } else { k with sendUp := x }

/-- The FIFO of the stairwell that comes down to a core, or up to it. -/
def fifoOf (s : State) (c : Nat) (dn : Bool) : Fifo := if dn then (s.core c).fifoDn else (s.core c).fifoUp
def setFifo (s : State) (c : Nat) (dn : Bool) (x : Fifo) : State :=
  s.modCore c fun k => if dn then { k with fifoDn := x } else { k with fifoUp := x }

/-- FREE as STAIRF reads it (12 R261). -/
def freeOf (s : State) (c : Nat) (dn : Bool) : Nat :=
  match s.stairTo c dn with
  | some _ => (s.senderOf c dn).free
  | none => 15

/-- Sends an entry to the receiving core's FIFO. -/
def stairSend (s : State) (dst : Nat) (dn : Bool) (data : Vec) (tag : BitVec 4) : State :=
  let c := s.cur.core
  let x := s.senderOf c dn
  let s := s.setSender c dn { free := x.free - 1, last := some s.acc }
  let f := s.fifoOf dst dn
  let s := s.setFifo dst dn { f with wp := (f.wp + 1) % 8, held := f.held ++ [(s.acc + 14, f.wp, tag)] }
  s.schedRow (s.acc + 12) phWrite (some s.here) (.stairwellEntryWrite dst dn f.wp data tag)

end State

/-- STAIRW (12 R259): a commit point. -/
def execStairw (h : Hd) (dn : Bool) (b : VReg) (s : State) : Res :=
  issueOp h [.v b, .tag b] s fun s =>
    let x := s.senderOf s.cur.core dn
    match s.stairTo s.cur.core dn with
    | none => s.raise 0xF 3
    | some dst =>
      if x.free = 15 then s.raise 0xF 3 15
      else if x.last.any fun l => s.acc ≤ l + 7 then s.raise 0xE 0x22 (BitVec.ofNat 32 (s.acc - x.last.getD 0))
      else if x.free = 0 then s.raise 0xB 5 0 (State.slipCoord (s.ttcOf s.cur.core) (s.ttcOf s.cur.core))
      else (s.stairSend dst dn (s.vreg b) (s.vtag b)).commit

/-- STAIRWELL_ENTRY_WRITE (12 R252, R259): the write of entry k into the receiving core's FIFO. An entry that its banks do not serve,
or that a landing of the same cycle meets, is written poisoned (06 R146, 13 R270); one that fails its CRC is delivered with tag 15. The
bytes of an entry of tag 15 are poisoned (03 R72). -/
def execStairwellEntryWrite (core : Nat) (dn : Bool) (k : Nat) (data : Vec) (tag : BitVec 4) (s : State) : Res :=
  if !(coreOk core && k < 8) then .fault .noSuchUnit
  else
    let f := s.fifoOf core dn
    let key := wsKey core (f.base + 256 * k)
    let bad := s.upsets.any fun u => match u with
      | .stair a c d l => a = s.acc && c = core && d = dn && stairSyndrome (l.foldl (fun m b => m ^^^ 2 ^ b) 0) ≠ 0
      | _ => false
    let s := if bad then
        (s.setFifo core dn { f with held := f.held.map fun e => if e.2.1 = k then (e.1, e.2.1, 15) else e }).modPosStat core
          fun p => { p with stcrc := satInc 8 p.stcrc }
      else s
    let lost := s.lostBytes key 256 (ones 256)
    .next (s.writeAt key 256 data.toNat (ones 256 - lost) (if s.cur.denied.isSome || (s.lostPlace key 256 (ones 256)).isSome || bad || tag = 15 then ones 256 else 0))

namespace State

/-- The tier that sends a stairwell is asleep, waking or absent (12 R251, R260). -/
def senderAbsent (s : State) (c : Nat) (dn : Bool) : Bool :=
  match s.stairTo c (!dn) with
  | some from_ => 2 ≤ (s.tier (tierOf from_)).power.state
  | none => true

/-- STAIRR at its sample cycle. A parity failure takes the read back, and the entry returns to the FIFO (07 R157). -/
def stairReadEvent (s : State) (o : Org) (dn : Bool) (slot : Nat) (tag : BitVec 4) (d : VReg) : State :=
  let f := s.fifoOf o.core dn
  let key := wsKey o.core (f.base + 256 * slot)
  match s.cur.denied with
  | some den => s.collide o den
  | none =>
    match s.checkParity key 256 with
    | (s, some u) => (s.setFifo o.core dn { f with held := (0, slot, tag) :: f.held }).lateFault o (parityTrap u o.pc)
    | (s, none) =>
      s.schedRow (o.issue + 16) phLand (some o)
        (.landing { org := o, dests := [.v d (BitVec.ofNat 2048 (s.readAs clsT key 256)) (BitVec.allOnes 256)
                                          (if s.psnUnit key 256 then 15 else tag)], flags := 0 })

end State

/-- STAIRR (12 R260): a commit point. .up reads the stairwell that comes up from the tier below. -/
def execStairr (h : Hd) (dn : Bool) (d : VReg) (s : State) : Res :=
  issueOp h [] s fun s =>
    let c := s.cur.core
    let f := s.fifoOf c dn
    match f.held with
    | (at_, slot, tag) :: rest =>
      if at_ ≤ s.acc then
        let s := s.setFifo c dn { f with held := rest }
        let s := s.schedAux (s.acc + 2) phSample (some s.here) (.stairRead s.here dn slot tag d)
        let s := match s.stairTo c (!dn) with
          | some from_ => s.schedRow (s.acc + 14) phSample (some s.here) (.stairwellCreditReturn from_ dn)
          | none => s
        s.commit
      else empty s c
    | [] => empty s c
where
  empty (s : State) (c : Nat) : State :=
    if s.senderAbsent c dn then s.raise 0xF 4
    else s.raise 0xB 6 0 (State.slipCoord (s.ttcOf c) (s.ttcOf c))

/-- STAIRWELL_CREDIT_RETURN (12 R260): the sender's FREE steps, unless the receiving tier has fallen asleep since. -/
def execStairwellCreditReturn (core : Nat) (dn : Bool) (s : State) : Res :=
  if !coreOk core then .fault .noSuchUnit
  else
    let x := s.senderOf core dn
    .next (if x.free < 8 then s.setSender core dn { x with free := x.free + 1 } else s)

def execStairf (h : Hd) (dn : Bool) (d : SReg) (s : State) : Res :=
  issueOp h [] s fun s => s.landS (s.acc + 16) d (BitVec.ofNat 64 (s.freeOf s.cur.core dn))

/-! ## TGATE and TWAKE (12 R262, R263) -/

/-- The tier operand's check and the landing of its old state. -/
def tierOp (h : Hd) (srcs : List Src) (d a : SReg) (s : State) (f : State → Nat → State) : Res :=
  issueOp h (.s a :: srcs) s fun s =>
    let t := (s.sreg a).toNat % 8
    match (if 5 < t then none else s.physTier s.myPart t) with
    | none => s.raise 7 0x15 ((s.sreg a).setWidth 32)
    | some q => f (s.landS (s.acc + 16) d (BitVec.ofNat 64 (s.tier q).power.state)) q

def execTgate (h : Hd) (d a b : SReg) (s : State) : Res :=
  tierOp h [.s b] d a s fun s q =>
    let dl := (s.sreg b).toNat % 2 ^ 32
    s.modTier q fun t =>
      let w := t.power
      { t with power := match w.state with
          | 0 => { w with state := 1, deadline := dl, gateFrom := s.acc + 16, edge := false, recorded := none }
          | 1 => { w with deadline := dl }
          | 3 => if !t.replica.behind && w.wakeAt ≤ s.acc then
              { w with state := 1, deadline := dl, gateFrom := s.acc + 16, edge := false, recorded := none }
            else { w with recorded := some dl }
          | _ => w }

def execTwake (h : Hd) (d a : SReg) (s : State) : Res :=
  tierOp h [] d a s fun s q =>
    let w := (s.tier q).power
    let set (v : TierPower) : State := s.modTier q fun t => { t with power := v }
    match w.state with
    | 1 => set { w with state := 0 }
    | 3 => set { w with recorded := none }
    | 2 => (set { w with state := 3, wakeAt := s.acc + 1024, recorded := none }).schedAux (s.acc + 1024) phEdge none (.tierWake q)
    | _ => s

namespace State

/-- Changes the senders of the stairwells into a tier. -/
def sendersInto (s : State) (t : Nat) (f : Sender → Sender) : State :=
  (List.range 16).foldl (fun s i =>
    let c := t * 16 + i
    let s := match s.stairTo c true with
      | some b => s.setSender b false (f (s.senderOf b false))
      | none => s
    match s.stairTo c false with
    | some a => s.setSender a true (f (s.senderOf a true))
    | none => s) s

/-- Empties the FIFOs of a tier's cores. -/
def emptyFifos (s : State) (t : Nat) : State :=
  { s with cores := s.cores.map fun e =>
      if tierOf e.1 = t then
        (e.1, { e.2 with fifoUp := { e.2.fifoUp with wp := 0, held := [] }, fifoDn := { e.2.fifoDn with wp := 0, held := [] } })
      else e }

/-- The stairwells into a tier hold no entry. -/
def stairsEmpty (s : State) (t : Nat) : Bool :=
  s.cores.all fun e => tierOf e.1 ≠ t || (e.2.fifoUp.held.isEmpty && e.2.fifoDn.held.isEmpty)

/-- A pending gate takes effect in this cycle (12 R262). -/
def gateDue (s : State) (t : Nat) : Bool :=
  let w := (s.tier t).power
  w.state = 1 && w.gateFrom ≤ s.acc && (s.stairsEmpty t || w.deadline ≤ (s.tier t).ttc || w.edge)

/-- What g does. -/
def gateTier (s : State) (t : Nat) : State :=
  let into (e : Ev) : Bool := match e.act with
    | .row (.stairwellEntryWrite c ..) => tierOf c = t
    | _ => false
  let s := { s with agenda := s.agenda.filter fun e => !into e }
  let s := (s.emptyFifos t).sendersInto t fun x => { x with free := 15 }
  let s := s.stopMmacs fun o => tierOf o.core = t
  let s := s.mapBerths fun c _ x => if tierOf c = t && x.run ≠ 0 then { x with run := 0, wait := .none, branch := none } else x
  let s := { s with tiers := s.tiers.filter fun e => e.1 < 8 || clockTier e.1 ≠ t }
  let s := if (s.tier t).replica.behind then s
    else s.modTier t fun k => { k with replica := { behind := true, since := (s.acc + 2 ^ 48 - 6) % 2 ^ 48, count := 0, seen := false } }
  s.modTier t fun k => { k with power := { k.power with state := 2 } }

end State

/-- TIER_GATE_EFFECT (12 R262): the gate's effect at g; nothing for a tier whose gate is not due. -/
def State.gateEvent (s : State) (t : Nat) : State := if s.gateDue t then s.gateTier t else s

def execTierGateEffect (t : Nat) (s : State) : Res :=
  if !(t < 6) then .fault .noSuchUnit else .next (s.gateEvent t)

/-- TIER_WAKE_W (12 R263): from w the tier counts as awake for beats, its resync begins, and the stairwells into it are empty. Its clocks
run: its TTC is the timetable's, as the hall counts it (A39, DEDUCED). -/
def State.wakeEvent (s : State) (t : Nat) : State :=
  let w := (s.tier t).power
  if w.state = 3 && w.wakeAt = s.acc then
    let s := (s.emptyFifos t).sendersInto t fun x => { x with free := 8 }
    s.modTier t fun k => { k with ttc := s.hall.ttc, replica := { k.replica with count := 0, seen := false } }
  else s

def execTierWakeW (t : Nat) (s : State) : Res :=
  if !(t < 6) then .fault .noSuchUnit else .next (s.wakeEvent t)

end Sys2Proof.Machine
end

