-- ==== Sys2Proof/Machine/Image.lean ====
section
/-! DEFINITION. The process images: frames and the input image, delivery, output records and egress, the stamp gate, PIL, POS,
STAMP, STALE, SCNR and INGST, and the hall's side of a scan edge (16 R287 to R309, R418). -/

namespace Sys2Proof.Machine

/-! ## Tables of the active plans -/

namespace State

def smbase (s : State) (p : Nat) : Nat := (s.part p).row.smbase
def ombase (s : State) (p : Nat) : Nat := (s.part p).row.ombase

/-- Stream-map rows of a partition by their index in it. -/
def streamRows (s : State) (p : Nat) : List (Nat × StreamRow) :=
  match (s.part p).plan with
  | some pl => ((List.range pl.streams.length).zip pl.streams).filter fun e => e.2.valid
  | none => []

/-- Output records of a partition by their index in it. -/
def outRows (s : State) (p : Nat) : List (Nat × OutRow) :=
  match (s.part p).plan with
  | some pl => ((List.range pl.outrecs.length).zip pl.outrecs).filter fun e => e.2.valid
  | none => []

/-- Record r of the package in a partition, with its index there (16 R299, 18 R341). -/
def outRow (s : State) (p r : Nat) : Option (Nat × OutRow) :=
  if r < s.ombase p then none else (s.outRows p).find? fun e => e.1 = r - s.ombase p

def streamSt (s : State) (p k : Nat) : StreamSt := (s.part p).streams.get {} k
def modStream (s : State) (p k : Nat) (f : StreamSt → StreamSt) : State :=
  s.modPart p fun t => { t with streams := t.streams.put k (f (t.streams.get {} k)) }

def outSt (s : State) (p k : Nat) : OutSt := (s.part p).outs.get {} k
def modOut (s : State) (p k : Nat) (f : OutSt → OutSt) : State :=
  s.modPart p fun t => { t with outs := t.outs.put k (f (t.outs.get {} k)) }

/-- Key of a byte of an input entry's current view, of a record's half. -/
def viewKey (s : State) (p k : Nat) (r : StreamRow) : Nat := imgKey p false (s.streamSt p k).sel r.offset
def latchKey (s : State) (p k : Nat) (r : OutRow) : Nat := imgKey p true (!(s.outSt p k).sel) r.offset

/-! ## Frames (16 R293 to R296) -/

def modPort (s : State) (n : Nat) (f : Port → Port) : State := { s with ports := s.ports.put n (f (s.ports.get {} n)) }

/-- Counts a drop of the present filling: 0 gate, 1 meter, 2 short, 3 overwritten. -/
def fillDrop (s : State) (k : Nat) : State :=
  let (a, b, c, d) := s.seq.drops
  let up (i v : Nat) : Nat := if i = k then satInc 16 v else v
  { s with seq := { s.seq with drops := (up 0 a, up 1 b, up 2 c, up 3 d) } }

/-- A window [open, close) that repeats with a cycle, when that is not 0, is open at an instant of GT. -/
def spanOpen (cycle gt open_ close : Nat) : Bool :=
  if cycle = 0 then open_ ≤ gt && gt < close else open_ ≤ gt && (gt - open_) % cycle < close - open_

/-- Its next opening after an instant. -/
def spanNext (cycle gt open_ : Nat) : Option Nat :=
  if gt < open_ then some open_ else if cycle = 0 then none else some (open_ + ((gt - open_) / cycle + 1) * cycle)

/-- The filter that identifies a frame: that of lowest number (16 R292). -/
def streamOf (s : State) (f : Frame) : Option StreamFilter :=
  (s.filters.filter fun e => e.2.vlan = f.vlan && e.2.mac = (if e.2.bySrc then f.src else f.dst)).head?.map fun e => e.2

/-- A filter's gate is open in this instant (16 R293); a gate with no list is open. -/
def gateOpen (s : State) (x : StreamFilter) : Bool :=
  match x.gate.bind fun n => (s.streamGates : Tbl (Nat × List (Nat × Nat))).find? n with
  | some (cycle, l) => l.any fun w => spanOpen cycle s.gt w.1 w.2
  | none => true

/-- A frame of n octets meets a meter: two rates, three colours, colour-blind; a red frame is dropped (A24). -/
def meterFrame (m : Meter) (gt n : Nat) : Meter × Bool :=
  let c := min (m.cbs * 2 ^ 32) (m.c + m.cir * (gt - m.last))
  let e := min (m.ebs * 2 ^ 32) (m.e + m.eir * (gt - m.last))
  let k := n * 2 ^ 32
  if k ≤ c then ({ m with c := c - k, e := e, last := gt }, true)
  else if k ≤ e then ({ m with c := c, e := e - k, last := gt }, true)
  else ({ m with c := c, e := e, last := gt }, false)

/-- The octets of a frame: its payload, two addresses, the VLAN tag, the type and the FCS. -/
def frameOctets (f : Frame) : Nat := f.payload.length + 22

/-- Vector recovery of 802.1CB with a history of k and a reset time, at an instant (16 R292): the new state, and whether the frame is
passed. -/
def recover (x : Recovery) (k reset gt n : Nat) : Recovery × Bool :=
  if x.any || (reset ≠ 0 && x.last + reset ≤ gt) then ({ seq := n, hist := 1, any := false, last := gt }, true)
  else
    let d := toSigned 16 (n + 2 ^ 16 - x.seq % 2 ^ 16)
    if (k : Int) ≤ d || d ≤ -(k : Int) then (x, false)
    else if 0 < d then ({ x with seq := n, hist := (x.hist <<< d.toNat) ||| 1, last := gt }, true)
    else if x.hist.getLsbD (-d).toNat then (x, false)
    else ({ x with hist := x.hist ||| (1 <<< (-d).toNat), last := gt }, true)

/-- The partition, index and row of the entry that serves a stream. -/
def servingEntry (s : State) (stream : Nat) : Option (Nat × Nat × StreamRow) :=
  (List.range 8).findSome? fun p => ((s.streamRows p).find? fun e => e.2.stream = stream).map fun e => (p, e.1, e.2)

/-- Bytes as a number, the first lowest. -/
def bytesVal (l : List Byte) : Nat := l.foldr (fun b v => b.toNat + 256 * v) 0

/-- An accepted frame writes its entry's filling half (16 R294 to R296). -/
def fillEntry (s : State) (p k : Nat) (r : StreamRow) (f : Frame) : State :=
  if f.payload.length < r.pstart + r.length then (s.modStream p k fun t => { t with short := satInc 8 t.short }).fillDrop 2
  else
    let x := s.streamSt p k
    let s := s.writeUntimed clsI (imgKey p false (!x.sel) r.offset) r.length (bytesVal ((f.payload.drop r.pstart).take r.length)) (ones r.length) 0
    let s := if x.rx then (s.modStream p k fun t => { t with ovwr := satInc 8 t.ovwr }).fillDrop 3 else s
    s.modStream p k fun t => { t with rx := true }

/-- A frame of a stream that no valid entry serves is dropped (16 R295). -/
def unmapped (s : State) (f : Frame) : State := (s.modPort f.port fun t => { t with unmap := satInc 16 t.unmap }).fillDrop 0

/-- The flow meter of a filter takes a frame, or refuses it. -/
def meterPass (s : State) (x : StreamFilter) (f : Frame) : State × Bool :=
  match x.meter with
  | none => (s, true)
  | some n => match s.meters.find? n with
    | none => (s, true)
    | some m =>
      let (m, ok) := meterFrame m s.gt (frameOctets f)
      ({ s with meters := s.meters.put n m }, ok)

/-- A frame that has passed the FCS check and elimination: gate, meter, entry. -/
def filterFrame (s : State) (f : Frame) : State :=
  match s.streamOf f with
  | none => s.unmapped f
  | some x => match s.servingEntry x.handle with
    | none => s.unmapped f
    | some (p, k, r) =>
      if !s.gateOpen x then (s.modStream p k fun t => { t with dropgate := satInc 8 t.dropgate }).fillDrop 0
      else
        let (s, ok) := s.meterPass x f
        if ok then s.fillEntry p k r f else (s.modStream p k fun t => { t with dropmtr := satInc 8 t.dropmtr }).fillDrop 1

/-- The stream of a member-stream pair whose sequence is recovered, with the pair's history and reset time. -/
def recovered (s : State) (f : Frame) : Option (Nat × Nat × Nat) :=
  (s.streamOf f).bind fun x => s.crPairs.findSome? fun e => if e.2.1 = x.handle then some e.2 else none

/-- A received frame at its acceptance instant (16 R292, R293). -/
def frameEvent (s : State) (f : Frame) : State :=
  if !f.fcsOk then s.modPort f.port fun t => { t with fcs := satInc 16 t.fcs }
  else if f.jumbo || 1500 < f.payload.length then s.modPort f.port fun t => { t with jumbo := satInc 16 t.jumbo }
  else match f.seqno, s.recovered f with
    | some n, some (h, k, reset) =>
      let (x, ok) := recover (s.recovery.get {} h) k reset s.gt n
      let s := { s with recovery := s.recovery.put h x }
      if ok then s.filterFrame f else s.modPort f.port fun t => { t with dupe := satInc 16 t.dupe }
    | _, _ => s.filterFrame f

end State

/-- FRAME_RECEIVE: the acceptance instant is the start of this cycle; at an edge instant the frame belongs to the later filling
(16 R294), since the cycle's inputs follow the edge (A5). -/
def execFrameReceive (f : Frame) (s : State) : Res :=
  if f.port < 4 then .next (s.frameEvent f) else .fault .noSuchUnit

/-! ## Delivery (16 R297, R298) -/

namespace State

/-- Entry k of a partition is stale at the hall's SCN and is to be replaced by its default (16 R298). -/
def substitutes (s : State) (p k : Nat) (r : StreamRow) : Bool :=
  r.spol = 2 && staleAt (s.streamSt p k).estamp r.limit s.hall.scn

/-- The header of a landing (16 R297). -/
def landingHeader (s : State) (p k : Nat) (r : StreamRow) : Nat :=
  (s.streamSt p k).estamp.toNat + 2 ^ 32 * s.hall.scn.toNat
    + 2 ^ 64 * (r.length + 2 ^ 16 * (s.smbase p + k) + 2 ^ 24 * (s.substitutes p k r).toNat + 2 ^ 26 * r.spol + 2 ^ 32 * r.limit.toNat)

/-- Beats of a row: the header and the data. -/
def rowBeats (r : StreamRow) : Nat := 1 + (r.length + 63) / 64

/-- Beat i of a delivery row: its data and PSN. -/
def deliveryData (s : State) (p k i : Nat) (r : StreamRow) : Nat × Bool :=
  if i = 0 then (s.landingHeader p k r, false)
  else
    let base := if s.substitutes p k r then defKey p false r.offset else s.viewKey p k r
    let n := min 64 (r.length - 64 * (i - 1))
    (s.readAs clsI (base + 64 * (i - 1)) n, s.tainted (base + 64 * (i - 1)) n)

/-- The words that a beat of a delivery row reads. -/
def countDelivery (s : State) (p k i : Nat) (r : StreamRow) : State :=
  if i = 0 then s
  else s.countRead ((if s.substitutes p k r then defKey p false r.offset else s.viewKey p k r) + 64 * (i - 1)) (min 64 (r.length - 64 * (i - 1)))

/-- The first row of a partition that has a beat to send at this TTC: its index and the beat's (16 R298). -/
def dueDelivery (s : State) (p : Nat) : Option (Nat × Nat) :=
  match (if (s.part p).running then (s.part p).plan else none) with
  | none => none
  | some pl =>
    ((List.range pl.delivers.length).zip pl.delivers).findSome? fun e =>
      let i := (s.part p).delivered.get 0 e.1
      match pl.streams[e.2.entry]? with
      | some r => if e.2.valid && r.valid && e.2.start ≤ s.hall.ttc && i < rowBeats r then some (e.1, i) else none
      | none => none

/-- Sends beat i of a delivery row in this cycle. -/
def sendDelivery (s : State) (p row i : Nat) : State :=
  match (s.part p).plan with
  | none => s
  | some pl =>
    match pl.delivers[row]?, (pl.delivers[row]?).bind fun d => pl.streams[d.entry]?, (pl.delivers[row]?).bind fun d => s.physTier p d.tier with
    | some d, some r, some t =>
      let (v, psn) := s.deliveryData p d.entry i r
      let s := s.countDelivery p d.entry i r
      let s := s.modPart p fun k => { k with delivered := k.delivered.put row (i + 1) }
      s.sendNow { kind := 5, src := 6, dtier := t, dpos := d.pos, off := d.roomoff + 64 * i, aop := 0, psn := psn, data := v, org := none,
                  part := p, dreg := none, tries := 1, copy := s.smbase p + d.entry, seg := i, req := none }
    | some _, some _, none => s.modPart p fun k => { k with delivered := k.delivered.put row (i + 1) }
    | _, _, _ => s

end State

def execDeliveryBeat (p row i : Nat) (s : State) : Res :=
  if !(p < 8) then .fault .noSuchUnit else .next (s.sendDelivery p row i)

/-! ## Output records and egress (16 R299 to R301) -/

namespace State

/-- A record at b_E: good or not, and what is sent in the scan that begins (16 R301). `n1` is the scan that has latched. -/
def latchRecord (s : State) (p : Nat) (n1 n : BitVec 32) (e : Nat × OutRow) : State :=
  let (k, r) := e
  let x := s.outSt p k
  let key := s.latchKey p k r
  let s := s.countRead key r.length
  let good := x.w && !staleAt x.ostamp r.limit n1 && !s.tainted key r.length
  let y : OutSt :=
    if good then { x with sel := !x.sel, src := 0 }
    else { x with src := if r.policy = 1 then 1 else if r.policy = 2 then 2 else 0 }
  let s := s.modOut p k fun _ => { y with w := false, ostamp := n, writers := [] }
  let new := s.latchKey p k r
  { s with ecc := s.ecc.filter fun u => !(new ≤ u.1 && u.1 < new + r.length && u.2 = .poison) }

/-- Where byte o of the output image as transmitted comes from: a place, or none for the flag's 0xFF (16 R300, R301). -/
def sentKey (s : State) (p o : Nat) : Option Nat :=
  match (s.outRows p).find? fun e => e.2.offset ≤ o && o < e.2.offset + e.2.length with
  | none => some (defKey p true o)
  | some (k, r) =>
    let x := s.outSt p k
    if x.src = 1 then some (defKey p true o)
    else if x.src = 2 && r.stben && o = r.offset + r.stb then none
    else some (imgKey p true x.sel o)

/-- The places of the bytes of frame f: its template and payload. -/
def frameKeys (s : State) (p : Nat) (r : FrameRow) : List (Option Nat) :=
  (List.range r.tlen).map (fun i => some (hallKey (r.tpl + i))) ++ (List.range r.paylen).map fun i => s.sentKey p (r.payoff + i)

/-- The bytes of a frame, read by class I. -/
def frameBytes (s : State) (p : Nat) (r : FrameRow) : List Byte :=
  (s.frameKeys p r).map fun k => (k.map fun k => s.readByte clsI k).getD 0xFF

/-- Counts the words that reads of single bytes meet, each once. -/
def countKeys (s : State) (keys : List Nat) : State :=
  if s.ecc.isEmpty then s else ((keys.map fun k => k / 8 * 8).eraseDups).foldl (fun s k => s.countRead k 8) s

/-- A class's window is open at a port in this instant; a port with no list is open. -/
def windowOpen (x : Port) (gt cls : Nat) : Bool :=
  x.windows.isEmpty || x.windows.any fun w => w.1 = cls && spanOpen x.cycle gt w.2.1 w.2.2

/-- The next opening of a class at a port. -/
def nextOpening (x : Port) (gt cls : Nat) : Option Nat :=
  ((x.windows.filter fun w => w.1 = cls).filterMap fun w => spanNext x.cycle gt w.2.1).foldl (fun m t => match m with
    | none => some t
    | some v => some (min v t)) none

/-- What is due at an instant of GT; a decision point comes after all else of its instant (23 R399). -/
def atGt (s : State) (t : Nat) (a : Act) : State :=
  let isDec : Act → Bool
    | .aux (.decision _) => true
    | _ => false
  let first (e : Nat × Act) : Bool := e.1 < t || (e.1 = t && (isDec a || !isDec e.2))
  { s with timed := s.timed.filter first ++ (t, a) :: s.timed.filter fun e => !first e }

/-- A frame that finds its window cut short at a port waits for the next opening (16 R300). -/
def holdFrame (s : State) (port cls p f : Nat) (n : BitVec 32) : State :=
  let s := s.modPort port fun x => { x with held := x.held ++ [(cls, p, f, n)], cut := x.cut + 1 }
  match nextOpening (s.ports.get {} port) s.gt cls with
  | some t => s.atGt t (.aux (.windowOpen port cls))
  | none => s

/-- An unpaired package, or one whose egress gates are open, sends the frames of scan n (23 R406); after a takeover the first are those of
the takeover's scan (23 R400). A frame of another is not sent. -/
def egressOpen (s : State) (p : Nat) (n : BitVec 32) : Bool :=
  let x := (s.part p).pair
  !x.en || (x.gates && x.passFrom.all fun m => 0 ≤ (n - m).toInt)

/-- The ports to which frame f of a partition is replicated (16 R292). -/
def replicated (s : State) (p f : Nat) : Option (BitVec 4) :=
  s.replicas.findSome? fun e => if e.2.1 = p && e.2.2.1 = f then some e.2.2.2 else none

/-- Frame f of a partition, of scan n, is handed to a port, with its sequence number when it is replicated. -/
def handFrame (s : State) (port p f : Nat) (n : BitVec 32) (r : FrameRow) : State :=
  if s.egressOpen p n then
    (s.modPort port fun x => { x with sent := some (s.gt, p, f, s.frameBytes p r), sentSeq := (s.replicated p f).map fun _ => Config.seqNo n })
      |>.countKeys ((s.frameKeys p r).filterMap id)
  else s

def frameRow (s : State) (p f : Nat) : Option FrameRow := (s.part p).plan.bind fun pl => pl.frames[f]?

/-- A frame comes to a port: it is handed over, or waits for its class's window. -/
def frameTo (s : State) (port p f : Nat) (n : BitVec 32) (r : FrameRow) : State :=
  if windowOpen (s.ports.get {} port) s.gt r.tclass then s.handFrame port p f n r else s.holdFrame port r.tclass p f n

/-- The ports that send frame f of a partition: its own, and those it is replicated to. -/
def egressPorts (s : State) (p f : Nat) (r : FrameRow) : List Nat :=
  match s.replicated p f with
  | some m => r.port :: (List.range 4).filter fun k => m.getLsbD k && k ≠ r.port
  | none => [r.port]

/-- The scan of a frame that is to be handed over now: that of its oldest release, or the present one. -/
def frameScan (s : State) (p f : Nat) : BitVec 32 :=
  (((s.part p).txDue.find? fun e => e.1 = f).map fun e => e.2).getD s.hall.scn

def egressEvent (s : State) (p f : Nat) : State :=
  match s.frameRow p f with
  | none => s
  | some r =>
    if !r.valid then s
    else
      let n := s.frameScan p f
      let s := s.modPart p fun t => { t with txDue := t.txDue.erase (f, n) }
      (s.egressPorts p f r).foldl (fun s port => s.frameTo port p f n r) s

/-- Frames that wait at a port for a class's opening are handed to it. -/
def openingEvent (s : State) (port cls : Nat) : State :=
  let x := s.ports.get {} port
  if !windowOpen x s.gt cls then s
  else
    let s := s.modPort port fun x => { x with held := x.held.filter fun e => e.1 ≠ cls }
    (x.held.filter fun e => e.1 = cls).foldl (fun s e => match s.frameRow e.2.1 e.2.2.1 with
      | some r => s.handFrame port e.2.1 e.2.2.1 e.2.2.2 r
      | none => s) s

/-- A port takes a new list of windows, and each frame that waits there waits for the new list's next opening. -/
def newWindows (s : State) (port cycle : Nat) (l : List (Nat × Nat × Nat)) : State :=
  let s := s.modPort port fun x => { x with cycle := cycle, windows := l }
  let x := s.ports.get {} port
  x.held.foldl (fun s e =>
    if windowOpen x s.gt e.1 then s.openingEvent port e.1
    else match nextOpening x s.gt e.1 with
      | some t => s.atGt t (.aux (.windowOpen port e.1))
      | none => s) s

end State

def execEgressFrameTransmit (p f : Nat) (s : State) : Res :=
  if !(p < 8 && f < 64) then .fault .noSuchUnit else .next (s.egressEvent p f)

def execQbvWindowOpening (port cls : Nat) (s : State) : Res :=
  if !(port < 4 && cls < 8) then .fault .noSuchUnit else .next (s.openingEvent port cls)

/-- GATE_LIST_EXCHANGE (16 R292, R300): entry n of a table of the ports takes new contents at this instant (A3). A new meter's buckets are full. -/
def execGateListExchange (n : Nat) (t : EthTable) (s : State) : Res :=
  if !t.ok n then .fault .noSuchUnit
  else .next (match t with
    | .qbv cycle l => s.newWindows n cycle l
    | .gate cycle l => { s with streamGates := s.streamGates.put n (cycle, l) }
    | .meter cir cbs eir ebs =>
      { s with meters := s.meters.put n { cir := cir, cbs := cbs, eir := eir, ebs := ebs, c := cbs * 2 ^ 32, e := ebs * 2 ^ 32, last := s.gt } }
    | .filter f => { s with filters := s.filters.put n f }
    | .pair h k reset => { s with crPairs := s.crPairs.put n (h, k, reset), recovery := s.recovery.put h {} }
    | .replicate p f ports => { s with replicas := s.replicas.put n (p, f, ports) }
    | .preempt classes k => s.modPort n fun x => { x with preempt := classes, fragment := k }
    | .slave => { s with slavePort := some n })

/-- HALL_OUTPUT_WRITE (16 R305, R306): a POS beat writes the latching half and sets W; the offset 0xFFF8 is STAMP.o's. Beats of a
task that has ended in this scan are discarded (20 R362). A PSEND's beat goes to the pair link (23 R407). -/
def execHallOutputWrite (b : Beat) (s : State) : Res :=
  if !(b.part < 8) then .fault .noSuchUnit
  else if b.dpos = 1 then .next (s.schedAux s.acc phEnd b.org (.pairData b))
  else
    let ofs := b.off % 2 ^ 16
    let task := s.taskOfOrg b.org
    .next (match s.outRow b.part (b.off / 2 ^ 16) with
      | none => s
      | some (k, r) =>
        if task.any fun t => s.ended.contains t then s
        else if ofs = 0xFFF8 then s.modOut b.part k fun x => { x with ostamp := BitVec.ofNat 32 b.data }
        else
          let n := if b.kind = 4 then 8 else 64
          let s := s.writeAt (s.latchKey b.part k r + ofs) n b.data (ones n) (if b.psn then ones n else 0)
          s.modOut b.part k fun x => { x with w := true, writers := (task.toList.filter fun t => !x.writers.contains t) ++ x.writers })

/-! ## The stamp gate (16 R302) -/

namespace State

def modGate (s : State) (c : Nat) (f : Gate → Gate) : State := { s with gates := s.gates.put c (f (s.gates.get {} c)) }

/-- The record a GREQ reads, its word and its status, at the sample cycle. -/
def gateRead (s : State) (greq : Nat) : Word × Word :=
  let core := coreAtMesh (greq % 8) (greq / 8 % 16)
  let h := greq / 128 % 256
  let fault (r : Option Rec) (st vd sub : Bool) (heff : Nat) : Word × Word :=
    (0, BitVec.ofNat 64 ((r.map fun r => r.stamp.toNat).getD 0 + 2 ^ 33 * st.toNat + 2 ^ 34 * vd.toNat + 2 ^ 35 * sub.toNat + 2 ^ 36
      + 2 ^ 40 * heff))
  let recAt (h : Nat) : Option Rec :=
    if s.tainted (roomKey core (s.recOff core h)) 64 then none
    else let r := s.sampleRec clsH core h; if r.ok then some r else none
  if 6 ≤ greq % 8 then fault none false false false h
  else match recAt h with
    | none => fault none false false false h
    | some r =>
      let st := staleAt r.stamp r.limit s.hall.scn
      let vd := decide (r.stamp = voidStamp)
      if st && r.spol = 0 then fault (some r) st vd false h
      else
        let sub := st && r.spol = 2
        let he := if sub then r.fbh else h
        match (if sub then recAt he else some r) with
        | none => fault none st vd sub he
        | some q =>
          if sub && staleAt q.stamp q.limit s.hall.scn then fault (some q) st vd sub he
          else match s.placeKey (s.partOf core) q.place with
            | none => fault (some q) st vd sub he
            | some key =>
              let key := key + 8 * (greq / 2 ^ 15)
              let psn := s.tainted key 8
              let flag := st && r.spol = 1
              (if psn then 0 else BitVec.ofNat 64 (s.readAs clsH key 8),
               BitVec.ofNat 64 (q.stamp.toNat + 2 ^ 33 * st.toNat + 2 ^ 34 * vd.toNat + 2 ^ 35 * sub.toNat + 2 ^ 37 * flag.toNat
                 + 2 ^ 38 * psn.toNat + 2 ^ 40 * he))

/-- The words that the gate's read meets: the record's, and those of the fallback record and the data where it goes on. -/
def countGate (s : State) (greq : Nat) : State :=
  let core := coreAtMesh (greq % 8) (greq / 8 % 16)
  if 6 ≤ greq % 8 then s
  else
    let h := greq / 128 % 256
    let s := s.countRead (roomKey core (s.recOff core h)) 64
    let (d, st) := s.gateRead greq
    let he := (st.extractLsb' 40 8).toNat
    let s := if st.getLsbD 35 then s.countRead (roomKey core (s.recOff core he)) 64 else s
    if st.getLsbD 36 then s
    else match s.placeKey (s.partOf core) (s.sampleRec clsH core he).place with
      | some key => if d = 0 && st.getLsbD 38 then s else s.countRead (key + 8 * (greq / 2 ^ 15)) 8
      | none => s

/-- The sample of the read that a store at cycle `start` began. -/
def gateSampleEvent (s : State) (c start : Nat) : State :=
  let g := s.gates.get {} c
  if g.start ≠ some start then s
  else
    let (d, st) := s.gateRead g.greq
    (s.countGate g.greq).modGate c fun g => { g with got := d, status := st }

/-- GDATA and GSTAT become valid. -/
def gateDone (s : State) (c : Nat) : State :=
  s.modGate c fun g => { g with data := g.got, stat := g.status ||| 2 ^ 32, start := none }

def gateResultEvent (s : State) (c start : Nat) : State :=
  if (s.gates.get {} c).start = some start then s.gateDone c else s

end State

/-- GREQ_STORE: a store with a reserved bit set is ignored. -/
def State.gateStore (s : State) (c : Nat) (v : Word) : State :=
  if 2 ^ 31 ≤ v.toNat then s
  else
    let s := s.modGate c fun g => { g with greq := v.toNat, start := some s.acc, data := 0, stat := 0 }
    (s.schedAux (s.acc + 40) phSample none (.gateSample c s.acc)).schedAux (s.acc + 96) phEdge none (.gateResult c s.acc)

def execGreqStore (c : Nat) (v : Word) (s : State) : Res := if c < 8 then .next (s.gateStore c v) else .fault .noSuchUnit

/-- GATE_RESULT: the read under way is over. -/
def execGateResult (c : Nat) (s : State) : Res :=
  if !(c < 8) then .fault .noSuchUnit
  else .next (if (s.gates.get {} c).start.any fun t => t + 96 = s.acc then s.gateDone c else s)

/-! ## PIL, POS, STAMP, STALE, SCNR, INGST (16 R303 to R308) -/

namespace State

/-- The stale trap of PIL (16 R304). -/
def pilStale (s : State) (sub : BitVec 8) (n estamp : BitVec 32) : State :=
  s.raise 0x11 sub 0 (BitVec.ofNat 64 (2 ^ 32 * n.toNat + estamp.toNat))

/-- PIL with its landing's header in hand. -/
def pilIssue (s : State) (form : LdForm) (base o : Nat) (hdr : BitVec 512) : State :=
  let (n, al) := ldFormSize form
  let estamp := hdr.extractLsb' 0 32
  let length := (hdr.extractLsb' 64 16).toNat
  let subst := hdr.getLsbD 88
  let spol := (hdr.extractLsb' 90 2).toNat
  let scn := s.scnAt s.cur.core
  let stale := staleAt estamp (hdr.extractLsb' 96 32) scn && !subst
  if length < o + n || 2 ^ 24 < base + 64 + o + n then s.raise 7 0x17 (BitVec.ofNat 32 o)
  else if o % al ≠ 0 then s.raise 8 8 (BitVec.ofNat 32 o)
  else if stale && spol = 0 then s.pilStale 5 scn estamp
  else if stale && spol = 2 then s.pilStale 6 scn estamp
  else
    let s := if stale && spol = 1 then
        s.schedRow (s.acc + 20) phRec (some s.here) (.roomWriteEffect (.used (roomKey s.cur.core base)))
      else s
    s.schedAux (s.acc + 20) phSample (some s.here) (.pilLoad s.here (base + 64 + o) o form (s.ldFormMask form))

/-- PIL's data at its sample cycle, over the core port. -/
def pilLoadEvent (s : State) (o : Org) (off ofs : Nat) (form : LdForm) (mask : Mask) : State :=
  let key := roomKey o.core off
  match s.cur.denied with
  | some den => s.portTrap o (s.bankInfo key den 1 o.pc)
  | none =>
    let n := (ldFormSize form).1
    let (s, bond) := s.bondSpan o.core key n
    let s := s.countRead key n
    s.landForm o (o.issue + 36) form mask (s.readAs clsT key n) (fun i n => bond / 2 ^ i % 2 ^ n ≠ 0 || s.tainted (key + i) n) 3
      (BitVec.ofNat 32 (ofs % 2 ^ 24))

end State

def execPil (h : Hd) (form : LdForm) (a b : SReg) (x : BitVec 48) (s : State) : Res :=
  issueOp h (.s a :: .s b :: ldFormSrcs form) s fun s =>
    let base := (s.ea a x).toNat
    if base % 64 ≠ 0 then s.raise 8 8 (BitVec.ofNat 32 base)
    else if 2 ^ 24 ≤ base then s.raise 7 0x17 (BitVec.ofNat 32 base)
    else
      let key := roomKey s.cur.core base
      if s.tainted key 64 then (s.countRead key 64).raiseFree 6 3
      else (s.countRead key 64).pilIssue form base (s.sreg b).toNat (BitVec.ofNat 512 (s.readAs clsT key 64))

namespace State

/-- The beat of POS and STAMP.o for record r at an offset, after the position check (16 R305, R306). -/
def posBeat (s : State) (r ofs n v : Nat) (psn : Bool) : State :=
  s.onSlot fun s =>
    s.sendBeat { s.beatOf (if n = 8 then 4 else 5) with dtier := 6, off := r * 2 ^ 16 + ofs, data := v, psn := psn }

/-- The record operand of POS and STAMP.o: check 1 of 16 R305. -/
def posRecord (s : State) (c : SReg) (k : State → Nat → OutRow → State) : State :=
  let r := (s.sreg c).toNat % 256
  match s.outRow s.myPart r with
  | some (_, row) => if row.owner then s.raise 7 0x18 (BitVec.ofNat 32 r) else k s r row
  | none => s.raise 7 0x18 (BitVec.ofNat 32 r)

end State

def execPos (h : Hd) (data : BeatData) (a c : SReg) (x : BitVec 48) (s : State) : Res :=
  issueOp h (.s a :: .s c :: beatSrcs data) s fun s =>
    s.posRecord c fun s r row =>
      let (n, v, psn) := s.beatData data
      let ofs := (s.ea a x).toNat
      if row.length < ofs + n then s.raise 7 0x17 (BitVec.ofNat 32 ofs)
      else if (row.offset + ofs) % n ≠ 0 then s.raise 8 8 (BitVec.ofNat 32 ofs)
      else s.posBeat r ofs n v psn

/-- STAMP.h: the write-back counts in the phase in which the instruction issues (06 R140). -/
def execStampH (h : Hd) (b : SReg) (hn : Handle) (s : State) : Res :=
  issueOp h [.s b] s fun s =>
    let off := s.recOff s.cur.core hn.toNat
    let s := s.notePhase s.here (roomKey s.cur.core off)
    s.schedRow (s.acc + 20) phRec (some s.here) (.roomWriteEffect (.stamp (some s.here) s.cur.core off ((s.sreg b).setWidth 32)))

def execStampO (h : Hd) (b c : SReg) (s : State) : Res :=
  issueOp h [.s b, .s c] s fun s => s.posRecord c fun s r _ => s.posBeat r 0xFFF8 8 ((s.sreg b).toNat % 2 ^ 32) false

namespace State

/-- STALE's status word for record h. -/
def staleWord (s : State) (h : Nat) (r : Rec) (fb : Option Rec) : Word :=
  let n := s.scnAt s.cur.core
  let st := staleAt r.stamp r.limit n
  let vd := decide (r.stamp = voidStamp)
  let sub := st && r.spol = 2
  let fbst := sub && fb.any fun f => staleAt f.stamp f.limit n
  BitVec.ofNat 64 ((if vd then 0 else (n - r.stamp).toNat) + 2 ^ 32 * st.toNat + 2 ^ 33 * vd.toNat + 2 ^ 34 * r.spol + 2 ^ 36 * sub.toNat
    + 2 ^ 37 * fbst.toNat + 2 ^ 40 * (if sub then r.fbh else h))

/-- STALE.chk and .q on a record in hand (16 R307). The TCOORD of SUB 0x07 is not stated (A15). A fallback record that is not acceptable faults
as h would (10 R203). -/
def staleIssue (s : State) (q : Bool) (d : SReg) (h : Nat) (r : Rec) : State :=
  let st := staleAt r.stamp r.limit (s.scnAt s.cur.core)
  let sub := st && r.spol = 2
  let s := if sub then s.countRecord r.fbh else s
  let fb := if sub then (s.mxRec r.fbh).toOption.bind fun f => if f.ok then some f else none else none
  let s' := s.landS (s.acc + 16) d (s.staleWord h r fb)
  if q || !st then s'
  else if r.spol = 0 then
    let (w, s) := s.freeWord
    s.raise 0x11 7 (BitVec.ofNat 32 h) w
  else if r.spol = 1 then
    s'.schedRow (s.acc + 20) phRec (some s.here) (.roomWriteEffect (.sflag none s.cur.core (s.recOff s.cur.core h)))
  else match s.staleCheck h 7 r with
    | .error t => s.raiseInfo t
    | .ok _ => if fb.isSome then s' else s.raise 5 7 (BitVec.ofNat 32 h)

end State

/-- STALE tests record h. Form .q never traps: a record that cannot be read lands an unstated word. The format trap of a reserved field is
given for both forms (16 R307; A55, DEDUCED). -/
def execStale (h : Hd) (q : Bool) (d : SReg) (hn : Handle) (s : State) : Res :=
  issueOp h [] s fun s =>
    let s := s.countRecord hn.toNat
    match s.mxRec hn.toNat with
    | .error t =>
      if q then
        let (w, s) := s.freeWord
        s.landS (s.acc + 16) d w
      else s.raiseInfo t
    | .ok r => if r.ok then s.staleIssue q d hn.toNat r else s.raise 5 7 (hn.setWidth 32)

namespace State

/-- Bytes o to o + n − 1 of the edge copy (16 R290). -/
def edgeField (s : State) (o n : Nat) : Nat := ((s.tier (s.clockOf s.cur.core)).edge.extractLsb' (8 * o) (8 * n)).toNat

/-- SCNR's values: E, P, E + P, the status word. -/
def scnrWord (s : State) (f : Nat) : Nat :=
  match f with
  | 0 => s.edgeField 0 8
  | 1 => s.edgeField 8 8
  | 2 => s.edgeField 0 8 + s.edgeField 8 8
  | _ => s.edgeField 20 4

end State

def execScnr (h : Hd) (f : BitVec 2) (d : SReg) (s : State) : Res :=
  issueOp h [] s fun s => s.landS (s.acc + 16) d (BitVec.ofNat 64 (s.scnrWord f.toNat))

def execIngst (h : Hd) (d : SReg) (form : IngForm) (s : State) : Res :=
  issueOp h [] s fun s =>
    s.landS (s.acc + 16) d (BitVec.ofNat 64 (match form with
      | .rx w => s.edgeField (32 + 8 * w.toNat) 8
      | .drop => s.edgeField 24 8))

/-! ## The hall at a scan edge (16 R288 to R291, R296, R301) -/

namespace State

/-- In b_E the entries with RX flip (16 R296). -/
def swapInputs (s : State) (p : Nat) (n : BitVec 32) : State :=
  (s.streamRows p).foldl (fun s e =>
    if (s.streamSt p e.1).rx then s.modStream p e.1 fun t => { t with sel := !t.sel, rx := false, estamp := n } else s) s

/-- The RX bitmap of the filling that an edge latches (16 R290). -/
def rxBitmap (s : State) : Nat :=
  (List.range 8).foldl (fun m p => (s.streamRows p).foldl (fun m e =>
    if (s.streamSt p e.1).rx then m ||| 2 ^ (s.smbase p + e.1) else m) m) 0

/-- The payload of an edge beat (16 R290). -/
def edgePayload (s : State) (e p : Nat) (n : BitVec 32) : BitVec 512 :=
  let (a, b, c, d) := s.seq.drops
  BitVec.ofNat 512 (e % 2 ^ 64 + 2 ^ 64 * p + 2 ^ 128 * n.toNat + 2 ^ 160 * (s.seq.sync.toNat + 2 * s.seq.hold.toNat)
    + 2 ^ 192 * (a + 2 ^ 16 * (b + 2 ^ 16 * (c + 2 ^ 16 * d))) + 2 ^ 256 * s.rxBitmap)

/-- The inverted EDGE copies of this cycle at a tier (A3). -/
def edgeInv (s : State) (t : Nat) : BitVec 2 :=
  s.upsets.foldl (fun m u => match u with
    | .edge a rx v => if a = s.acc && rx = t then m ^^^ v else m
    | _ => m) 0

/-- The replacement copy of 16 R291 in a clock: its SCN stepped by one, or by two after a missed edge. -/
def replacement (s : State) (t : Nat) : BitVec 512 :=
  let k := s.tier t
  let e := (k.edge.extractLsb' 0 64).toNat
  let p := (k.edge.extractLsb' 64 64).toNat
  let n := if k.edgeMissed then scnNext (scnNext k.scn) else scnNext k.scn
  BitVec.ofNat 512 ((e + p) % 2 ^ 64 + 2 ^ 64 * p + 2 ^ 128 * n.toNat + 2 ^ 160 * ((k.edge.extractLsb' 160 2).toNat + 4))

def countCrc (s : State) : State := { s with hall := { s.hall with crcerr := satInc 16 s.hall.crcerr } }

/-- The clocks of a tier beside its own. -/
def splitsOf (s : State) (t : Nat) : List Nat :=
  ((List.range 8).map fun p => 8 + 8 * t + p).filter fun k => (s.tiers.find? k).isSome

/-- The partitions whose cores go by a clock. -/
def clockParts (s : State) (k : Nat) : List Nat :=
  ((List.range 16).filterMap fun i =>
    let c := clockTier k * 16 + i
    if s.clockOf c = k then (s.core c).owner.map fun o => o.1 else none).eraseDups

/-- The cores of a partition look for an edge when no plan of it is active, or when the TTC of their clock is at least its L (16 R291). -/
def partLooks (s : State) (k p : Nat) : Bool :=
  !(s.part p).running || ((s.part p).plan.elim 0 fun pl => pl.len) ≤ (s.tier k).ttc

/-- The tier has no clocks, so that its cores look for none. -/
def clockStopped (s : State) (t : Nat) : Bool :=
  let w := (s.tier t).power
  w.state = 2 || (w.state = 3 && s.acc < w.wakeAt)

/-- The cores of a clock look for an edge; they do so together but for the cycle in which `splitClock` parts them. -/
def looksForEdge (s : State) (k : Nat) : Bool := s.clockStopped (clockTier k) || (s.clockParts k).all (s.partLooks k)

/-- Where some partitions of a tier look for an edge and others do not, each that does goes by a clock of its own from here on. -/
def splitClock (s : State) (t : Nat) : State :=
  let ps := s.clockParts t
  let on := ps.filter (s.partLooks t)
  if s.clockStopped t || on.isEmpty || on.length = ps.length then s
  else
    let k := s.tier t
    on.foldl (fun s p => s.setTier (8 + 8 * t + p)
      { ttc := k.ttc, scn := k.scn, edge := k.edge, edgeMissed := k.edgeMissed, edgeAt := k.edgeAt }) s

/-- The clocks of the tiers and beside them. -/
def clocks (s : State) : List Nat := List.range 6 ++ (List.range 6).flatMap s.splitsOf

/-- A clock that shows what its tier's shows is the tier's again. -/
def joinClocks (s : State) : State :=
  { s with tiers := s.tiers.filter fun e =>
      let k := s.tier (clockTier e.1)
      e.1 < 8 || !(k.ttc = e.2.ttc && k.scn = e.2.scn && k.edge = e.2.edge && k.edgeMissed = e.2.edgeMissed && k.edgeAt = e.2.edgeAt) }

/-- How the cores of a clock take a beat whose EDGE copies read `copies`; `looks` says whether they look for an edge (16 R291). -/
def takeEdge (s : State) (looks : Bool) (t : Nat) (copies : BitVec 2) (payload : BitVec 512) : State :=
  let ok := !s.beatFails (clockTier t)
  let set (x : Option (BitVec 512 × Bool)) : State := s.modTier t fun k => { k with taken := x }
  if copies = 0 then set none
  else if !looks then (set none).countCrc
  else if !ok then set (some (s.replacement t, true))
  else if copies = 3 || payload.extractLsb' 128 32 = scnNext (s.tier t).scn then set (some (payload, false))
  else (set none).countCrc

/-- The frames of a partition's plan, each at its instant (16 R300). -/
def releaseFrames (s : State) (p e : Nat) : State :=
  match (s.part p).plan with
  | none => s
  | some pl =>
    ((List.range pl.frames.length).zip pl.frames).foldl (fun s f =>
      if !f.2.valid then s
      else
        let s := s.modPart p fun x => { x with txDue := x.txDue ++ [(f.1, s.hall.scn)] }
        let t := 552 * (e + f.2.txoff)
        if t ≤ s.gt then s.schedRow s.acc phSample none (.egressFrameTransmit p f.1)
        else s.atGt t (.row (.egressFrameTransmit p f.1))) s

/-- The hall's part of an edge, in b_E: the views swap, the records latch, the sequencer and the hall's SCN step, and the edge beat
goes out, to take effect six cycles later. `looks` names the clocks whose cores look for it, under the plans active so far; the others let
it pass. -/
def hallEdge (s : State) (looks : List Nat) : State :=
  let s := s.drainHall
  let n := s.seq.scnNext
  let n1 := s.hall.scn
  let e := s.seq.next
  let payload := s.edgePayload e s.seq.per n
  let s := (List.range 8).foldl (fun s p => (s.outRows p).foldl (fun s r => s.latchRecord p n1 n r) s) s
  let s := (List.range 8).foldl (fun s p => s.swapInputs p n) s
  let s := s.clocks.foldl (fun s k => s.takeEdge (looks.contains k) k (3 ^^^ s.edgeInv (clockTier k)) payload) s
  let seq := { s.seq with scnNext := scnNext n, last := e, next := e + s.seq.per, p := s.seq.per, edgeAt := some (s.acc + 6),
                          drops := (0, 0, 0, 0) }
  let s := { s with seq := seq, hall := { s.hall with scn := n, sent := some s.acc, sentKind := 0, sentData := payload.toNat } }
  let s := looks.foldl (fun s k => s.schedAux (s.acc + 6) phMark none (.tierEdge k)) s
  let s := s.schedAux (s.acc + 6) phMark none .coreEdge
  (List.range 8).foldl (fun s p => s.releaseFrames p e) s

end State

/-- SYNC_LOCK and SYNC_LOSS (16 R418). -/
def execSyncLock (s : State) : Res := .next { s with seq := { s.seq with sync := true, hold := false } }

def execSyncLoss (s : State) : Res :=
  .next (if s.seq.sync then { s with seq := { s.seq with sync := false, hold := true } } else s)

end Sys2Proof.Machine
end

