-- ==== Sys2Proof/Machine/Courier.lean ====
section
/-! DEFINITION. Far memory and the courier: copies and their beats, translation, receipts and the instructions CPY, RCPTW, RCPTR,
TLBW, TLBI and XLGET (17 R310 to R325). The courier's own latencies are `Config.courierDelay` (A8). -/

namespace Sys2Proof.Machine

/-! ## A copy's rectangle and segments (17 R313, R315) -/

/-- Element width of a format (17 R313). -/
def eltWidth (fmt : Nat) : Nat := if fmt = 1 then 4 else if fmt = 2 || fmt = 3 then 2 else 1

def Copy.isOut (c : Copy) : Bool := c.dir = 1 || c.dir = 3
def Copy.isHall (c : Copy) : Bool := 2 ≤ c.dir
def Copy.row0 (c : Copy) : Nat := c.sb.toNat % 2 ^ 16
def Copy.col0 (c : Copy) : Nat := c.sb.toNat / 2 ^ 16 % 2 ^ 16
def Copy.nrows (c : Copy) : Nat := c.sb.toNat / 2 ^ 32 % 2 ^ 16
def Copy.ncols (c : Copy) : Nat := c.sb.toNat / 2 ^ 48
def Copy.nplanes (c : Copy) : Nat := if c.fmt = 8 then c.planes else 1

/-- Bytes of n columns. -/
def Copy.colBytes (c : Copy) (n : Nat) : Nat := if c.fmt = 8 then n / 8 else n * eltWidth c.fmt

def Copy.rowBytes (c : Copy) : Nat := c.colBytes c.ncols
def Copy.nsegs (c : Copy) : Nat := c.nplanes * c.nrows * (c.rowBytes / 64)

/-- Far or hall bytes from one row to the next. -/
def Copy.pitch (c : Copy) : Nat := if c.isHall || c.sa.toNat / 2 ^ 48 = 0 then c.rowBytes else 64 * (c.sa.toNat / 2 ^ 48)

/-- A copy into or out of a B store. -/
def Copy.inB (c : Copy) : Bool := spaceOf c.place = .bs

/-- Start of a place row: its key, or for the B store its slice-local byte (17 R313, 03 R74). -/
def Copy.rowStart (c : Copy) (plane r : Nat) : Nat :=
  let pl := plane * (if c.inB then c.cols / 8 else c.rows * c.cols / 8)
  if c.inB then offOfKey c.place / 2048 * 32 + pl + c.colBytes c.col0
  else
    let stride := if c.fmt = 8 then c.cols / 8 else if c.stride = 0 then c.colBytes c.cols else c.stride
    c.place + pl + (c.row0 + r) * stride + c.colBytes c.col0

/-- A segment of 64 bytes: its pieces as (key, first byte, bytes), its far VA or hall offset, and the coordinates of its first
element. -/
structure Seg where
  pieces : List (Nat × Nat × Nat)
  va : Nat
  row : Nat
  col : Nat
  deriving DecidableEq, Repr

/-- Segment i: rows in their order, plane by plane, each in ascending offset. -/
def Copy.segAt (c : Copy) (i : Nat) : Seg :=
  let per := c.rowBytes / 64
  let rr := i / per
  let k := i % per
  let plane := rr / c.nrows
  let r := rr % c.nrows
  let st := c.rowStart plane r + 64 * k
  let bpiece (l b : Nat) : Nat × Nat × Nat := (c.place / 2 ^ 36 * 2 ^ 36 + l / 32 * 2048 + (c.row0 + r) * 32 + l % 32, b, 32)
  { pieces := if c.inB then [bpiece st 0, bpiece (st + 32) 32] else [(st, 0, 64)],
    va := if c.isHall then c.sa.toNat + rr * c.pitch + 64 * k else (c.sa.toNat % 2 ^ 48 + rr * c.pitch + 64 * k) % 2 ^ 48,
    row := c.row0 + r, col := c.col0 + k * (if c.fmt = 8 then 512 else 64 / eltWidth c.fmt) }

/-- The core served, or the first of the cluster for a B store. -/
def Copy.core (c : Copy) : Nat := coreOfKey c.place

/-- Far or hall bytes that the copy spans. -/
def Copy.span (c : Copy) : Nat × Nat :=
  let a := if c.isHall then c.sa.toNat else c.sa.toNat % 2 ^ 48
  (a, a + (c.nplanes * c.nrows - 1) * c.pitch + c.rowBytes)

/-- Every data byte has been handled. -/
def Copy.dataDone (c : Copy) : Bool :=
  c.ended || (if c.isOut then c.done = c.nsegs else c.next = c.nsegs && c.again.isEmpty && c.buf.isEmpty)

/-- No beat of the copy can still be refused, held or written: what it makes at its place is made (17 R315, 13 R272). -/
def Copy.settled (c : Copy) : Bool := c.dataDone && (c.ended || c.isOut || (c.flying.isEmpty && c.held.isNone))

/-- An earlier copy that a later one waits for: the courier performs copies in acceptance order, which orders the writes to one
place and to the same far or hall bytes (17 R315, 13 R272); far bytes that two VAs reach are ordered at their access (`farBlocked`). -/
def Copy.before (m c : Copy) : Bool :=
  m.part = c.part && !m.settled
    && (m.core = c.core || (m.isHall = c.isHall && (m.isOut || c.isOut) && m.span.1 < c.span.2 && c.span.1 < m.span.2))

/-! ## Windows (17 R312) -/

namespace State

/-- A valid window of a partition. -/
def winRow (s : State) (p w : Nat) : Option WindowRow :=
  ((s.part p).plan.bind fun pl => pl.windows[w]?).bind fun r => if r.valid then some r else none

/-- The core that a window serves. -/
def servedCore (s : State) (p : Nat) (r : WindowRow) : Option Nat :=
  match s.physTier p r.tier with
  | some t => if s.inPart p (coreAtMesh t r.pos) then some (coreAtMesh t r.pos) else none
  | none => none

def copy? (s : State) (n : Nat) : Option Copy := s.courier.copies.find? n

def setCopy (s : State) (n : Nat) (c : Copy) : State := { s with courier := { s.courier with copies := s.courier.copies.put n c } }

def modCopy (s : State) (n : Nat) (f : Copy → Copy) : State :=
  match s.copy? n with
  | some c => s.setCopy n (f c)
  | none => s

/-- The latency of the courier's next piece of work. -/
def latency (s : State) : Nat × State :=
  (Config.courierDelay s.courier.work, { s with courier := { s.courier with work := s.courier.work + 1 } })

/-- The far or hall bytes of a segment are read when the courier comes to it. -/
def readSegment (s : State) (n seg : Nat) : State :=
  let (d, s) := s.latency
  s.schedRow (s.acc + d) phEnd none (.farMemoryAccess n seg false)

/-- Starts the copies that wait for no earlier one. -/
def startCopies (s : State) : State :=
  s.courier.copies.foldl (fun s e =>
    match s.copy? e.1 with
    | none => s
    | some c =>
      if c.started || c.ended || s.courier.copies.any fun m => m.1 < e.1 && m.2.before c then s
      else
        let s := s.setCopy e.1 { c with started := true }
        if c.isOut then
          let (d, s) := s.latency
          s.modCopy e.1 fun c => { c with ready := s.acc + d }
        else s.readSegment e.1 0) s

/-! ## Rings (17 R318, R321) -/

def ring (s : State) (core n : Nat) : Ring := (s.core core).rings.get {} n
def modRing (s : State) (core n : Nat) (f : Ring → Ring) : State :=
  s.modCore core fun k => { k with rings := k.rings.put n (f (k.rings.get {} n)) }

end State

def Copy.ringNo (c : Copy) : Nat := c.sc.toNat % 4

/-- Units of a ring, and its free ones. -/
def Ring.size (r : Ring) : Nat := r.sizem1 + 1
def Ring.freeUnits (r : Ring) : Nat := (r.rd + r.size * 2 - r.wr - 1) % r.size

/-- WR stands after the records that have taken effect (17 R321). -/
def Ring.advance (r : Ring) : Ring :=
  match ((r.recs.takeWhile fun x => x.eff.isSome).getLast?) with
  | some x => { r with wr := (x.unit + x.n) % r.size }
  | none => r

namespace State

/-- A copy is over: it leaves the courier, and later ones may start. -/
def endCopy (s : State) (n : Nat) : State :=
  ({ s with courier := { s.courier with copies := s.courier.copies.del n } }).startCopies

/-- The courier trap of a stop (17 R316); an A40 partition's copies raise none (R322). -/
def copyTrap (s : State) (c : Copy) : State :=
  if 1 ≤ c.fcode && c.fcode ≤ 6 && !((s.part c.part).row.a40) then
    s.queueFor c.org 0x14 (BitVec.ofNat 8 c.fcode) (BitVec.ofNat 32 (c.h + 2 ^ 16 * c.id)) (BitVec.ofNat 64 c.coord)
  else s

/-- A receipt is lost (17 R321). -/
def loseReceipt (s : State) (n : Nat) (c : Copy) : State :=
  let s := s.modRing c.org.core c.ringNo fun r => { r with lost := true, recs := r.recs.filter fun x => x.eff.isSome }
  let s := s.logEv 3 0x35 (tierOf c.org.core) (meshIdx c.org.core) 0 0
    (wsKey c.org.core (s.ring c.org.core c.ringNo).base % 2 ^ 48) c.id
  (s.copyTrap c).endCopy n

/-! ## Stops (17 R316, R319, R322) -/

/-- Takes back a receipt that has not taken effect. -/
def cancelReceipt (s : State) (n : Nat) (c : Copy) : State :=
  match c.rc with
  | none => s
  | some _ =>
    let mine (e : Ev) : Bool := match e.act with
      | .row (.receiptWrite m _) | .aux (.rcptBeat m _) | .aux (.rcptNack m _ _) => m = n
      | _ => false
    let s := { s with agenda := s.agenda.filter fun e => !mine e }
    (s.modRing c.org.core c.ringNo fun r => { r with recs := r.recs.filter fun x => x.eff.isSome }).modCopy n fun c => { c with rc := none }

/-- The queue of a partition's A40 messages: XLB's when both name one berth (17 R318). -/
def svQueue (s : State) (p : Nat) : Bool :=
  let x := (s.part p).xlb
  let v := (s.part p).svb
  !(x.valid && v.valid && x.tier = v.tier && x.pos = v.pos && x.berth = v.berth)

/-- Posts a message for a queue. -/
def post (s : State) (p : Nat) (m : Msg) : State := s.modPart p fun t => { t with msgs := t.msgs ++ [{ m with from_ := s.acc }] }

/-- Logical core of a copy's issuer within its partition. -/
def issuerNo (s : State) (c : Copy) : Nat :=
  match (s.core c.org.core).owner with
  | some (_, l) => l
  | none => 0

/-- A copy ends short (17 R316). -/
def endAt (s : State) (n fcode row col : Nat) : State :=
  let s := { s with courier := { s.courier with side := s.courier.side.filter fun e => e.copy ≠ n } }
  (s.modCopy n fun c => { c with ended := true, fcode := fcode, coord := row + 2 ^ 16 * col, again := [], got := [], buf := [],
                                 miss := none, redo := [] }).startCopies

/-- A copy that stops at a segment ends once each earlier segment is in its place, so that TCOORD names the first element not copied. -/
def stopDone (s : State) (n : Nat) : State :=
  match s.copy? n with
  | none => s
  | some c => match c.stop with
    | none => s
    | some (seg, fcode, row, col) =>
      if !c.ended && seg ≤ c.next && c.flying.all fun i => seg ≤ i then s.endAt n fcode row col else s

/-- A segment has come to its place. -/
def landSeg (s : State) (n seg : Nat) : State := (s.modCopy n fun c => { c with flying := c.flying.erase seg }).stopDone n

/-- The first segment that is not in its place, from `seg` down. -/
def firstOpen (c : Copy) (seg : Nat) : Nat := (c.flying ++ c.buf.map fun g => g.1).foldl min seg

/-- A segment that a stop of its copy leaves out. -/
def cutOff (c : Copy) (seg : Nat) : Bool := c.ended || c.stop.any fun t => t.1 ≤ seg

/-- A copy stops at a segment with an FCODE: later segments are not copied, and it ends when the earlier ones are in their places (A25);
after NOMAP no further byte is written; an A40 partition's copy is held and its supervisor told. -/
def stopCopy (s : State) (n fcode row col : Nat) (seg : Nat) (beat : Option Beat) : State :=
  match s.copy? n with
  | none => s
  | some c =>
    if c.ended || c.held.isSome then s
    else
      let s := s.cancelReceipt n c
      let a40 := (s.part c.part).row.a40
      if a40 && fcode ≤ 6 then
        let vpn := if fcode ≤ 3 then (c.segAt seg).va / 2 ^ 16 else 0
        let w := c.id + 2 ^ 16 * vpn + 2 ^ 48 * (decide (c.dir = 1)).toNat + 2 ^ 49 + 2 ^ 50 + 2 ^ 52 * fcode + 2 ^ 56 * s.issuerNo c
        (s.modCopy n fun c => { c with fcode := fcode, coord := row + 2 ^ 16 * col, held := some (seg, beat) }).post c.part
          { sv := s.svQueue c.part, word := w, about := n }
      else if fcode = 8 || fcode = 0xA then s.endAt n fcode row col
      else if c.stop.any fun t => t.1 ≤ seg then s
      else if fcode = 1 then
        let g := c.segAt (firstOpen c seg)
        s.endAt n fcode g.row g.col
      else
        let s := { s with courier := { s.courier with side := s.courier.side.filter fun e => e.copy ≠ n || e.seg < seg } }
        (s.modCopy n fun c => { c with stop := some (seg, fcode, row, col), buf := c.buf.filter fun g => g.1 < seg,
                                       again := c.again.filter fun (e : Nat × Beat) => e.2.seg < seg, got := c.got.filter fun g => g.1 < seg,
                                       redo := c.redo.filter fun i => i < seg, miss := c.miss.bind fun v => if c.rd < seg then some v else none }).stopDone n

/-- A stop at a segment of the copy. -/
def stopAt (s : State) (n fcode seg : Nat) (beat : Option Beat) : State :=
  match s.copy? n with
  | some c => s.stopCopy n fcode (c.segAt seg).row (c.segAt seg).col seg beat
  | none => s

end State

/-- COPY_FAULT_STOP: the stop of a copy at the element that it names. -/
def execCopyFaultStop (copy fcode row col : Nat) (s : State) : Res :=
  .next (match s.copy? copy with
    | some c =>
      let seg := ((List.range c.nsegs).find? fun i => (c.segAt i).row = row && (c.segAt i).col = col).getD c.next
      s.stopCopy copy fcode row col seg none
    | none => s)

/-! ## Translation (17 R317, R319, R320) -/

/-- Two pages, given by VPN and size, overlap. -/
def pagesMeet (v1 : Nat) (b1 : Bool) (v2 : Nat) (b2 : Bool) : Bool := if b1 || b2 then v1 / 32 = v2 / 32 else v1 = v2

def entryBig (e : Word) : Bool := e.getLsbD 3
def entryValid (e : Word) : Bool := e.getLsbD 0

inductive Xlate where
  | hit (pa : Nat)
  | miss
  | fault (fcode : Nat)
  deriving DecidableEq, Repr

namespace State

/-- The TLB indices of a partition's share. -/
def tlbShare (s : State) (p : Nat) : Nat × Nat :=
  ((s.part p).row.tlbbase, (s.part p).row.tlbcnt)

def inShare (s : State) (p i : Nat) : Bool := (s.tlbShare p).1 ≤ i && i < (s.tlbShare p).1 + (s.tlbShare p).2

/-- The partition's valid entry that a far VA matches: its page and word. -/
def tlbEntry (s : State) (p va : Nat) : Option (Nat × Word) :=
  (List.find? (fun e : Nat × TlbEntry => s.inShare p e.1 && entryValid e.2.entry && pagesMeet (va / 2 ^ 16) false e.2.vpn (entryBig e.2.entry))
      s.courier.tlb).map fun e => (e.2.vpn, e.2.entry)

/-- The translation of a far VA by an entry, for a read or a write. -/
def translateBy (s : State) (p va : Nat) (wr : Bool) (e : Option (Nat × Word)) : Xlate :=
  match e with
  | none => .miss
  | some (_, e) =>
    if !e.getLsbD (if wr then 2 else 1) then .fault 2
    else
      let pa := if entryBig e then e.toNat / 2 ^ 21 % 2 ^ 16 * 2 ^ 21 + va % 2 ^ 21
        else e.toNat / 2 ^ 16 % 2 ^ 21 * 2 ^ 16 + va % 2 ^ 16
      let r := (s.part p).row
      if 2 ^ 16 * r.fbase ≤ pa && pa < 2 ^ 16 * (r.fbase + r.fsize) then .hit pa else .fault 3

/-- The translation of a far VA for a read or a write. -/
def translate (s : State) (p va : Nat) (wr : Bool) : Xlate := s.translateBy p va wr (s.tlbEntry p va)

/-- A copy's translation of a far VA: it keeps the entry of its current page, whatever becomes of it in the TLB (17 R320). -/
def copyXlate (s : State) (n : Nat) (c : Copy) (va : Nat) : Xlate × State :=
  let e := match c.page with
    | some (vpn, e) => if pagesMeet (va / 2 ^ 16) false vpn (entryBig e) then some (vpn, e) else s.tlbEntry c.part va
    | none => s.tlbEntry c.part va
  let x := s.translateBy c.part va c.isOut e
  (x, s.modCopy n fun c => { c with page := match x with
    | .hit _ => e
    | _ => none })

/-- A copy may still touch the far bytes at a PA: by the present translation of a page it spans, or on a page that misses. -/
def mayTouch (s : State) (m : Copy) (pa : Nat) : Bool :=
  let v0 := m.span.1 / 2 ^ 16
  (List.range (m.span.2 / 2 ^ 16 + 1 - v0)).any fun i =>
    let va := (v0 + i) * 2 ^ 16 + pa % 2 ^ 16
    m.span.1 < va + 64 && va < m.span.2 && (match s.translate m.part va m.isOut with
      | .hit q => q = pa
      | .miss => true
      | .fault _ => false)

/-- A far access waits for an earlier copy that may touch the same bytes, when one of the two writes them (17 R315). -/
def farBlocked (s : State) (n : Nat) (c : Copy) (pa : Nat) : Bool :=
  s.courier.copies.any fun m => m.1 < n && m.2.part = c.part && !m.2.isHall && (m.2.isOut || c.isOut) && !m.2.dataDone && s.mayTouch m.2 pa

/-- A burst's link CRC errors are retried by the controller, counted and logged (17 R310, 20 R373, R375). -/
def linkRetry (s : State) (pa : Nat) : State :=
  s.upsets.foldl (fun s u => match u with
    | .farLink a ch k =>
      if a = s.acc && ch = pa / 256 % 16 then
        { s with hall := { s.hall with memCrc := min (2 ^ 16 - 1) (s.hall.memCrc + k) } }.logEv 1 0x14 6 0 0 0 ch k
      else s
    | _ => s) s

/-- Posts a miss message for a 64 KiB page, unless one is open (17 R319). -/
def postMiss (s : State) (p vpn : Nat) (wr : Bool) : State :=
  if (s.part p).msgs.any fun m => !m.sv && m.word / 2 ^ 50 % 4 = 0 && m.about = vpn then s
  else s.post p { sv := false, word := 2 ^ 16 * vpn + 2 ^ 48 * wr.toNat + 2 ^ 49, about := vpn }

/-- The misses of a copy: the page that its read waits for, and those of its side-log entries. -/
def missEvent (s : State) (n : Nat) : State :=
  match s.copy? n with
  | none => s
  | some c =>
    let s := match c.miss with
      | some v => s.postMiss c.part v false
      | none => s
    (s.courier.side.filter fun e => e.copy = n).foldl (fun s e => s.postMiss e.part (e.va / 2 ^ 16) true) s

end State

def execTranslationMiss (copy : Nat) (s : State) : Res := .next (s.missEvent copy)

namespace State

/-- The partition whose share holds a PA. -/
def partOfFar (s : State) (pa : Nat) : Option Part :=
  s.parts.findSome? fun e =>
    if e.2.row.valid && e.2.row.fbase ≤ pa / 2 ^ 16 && pa / 2 ^ 16 < e.2.row.fbase + e.2.row.fsize then some e.2 else none

/-- The eight bytes at a PA as the controller decrypts them: those written under another setting of FENC and keys come out as that and the
present one make them (22 R392). -/
def farValue (s : State) (pa : Nat) : Nat :=
  let v := s.readAs clsC (farKey pa) 8
  match s.farOld.find? fun e => e.1 ≤ pa && pa < e.2.1 with
  | none => v
  | some e =>
    let now := (s.partOfFar pa).bind fun t => if t.fenc then some t.keys else none
    if now = e.2.2 then v
    else
      let b := pa / 16 * 16
      (Config.xtsCross e.2.2 now b (BitVec.ofNat 128 (s.readAs clsC (farKey b) 16))).toNat / 2 ^ (8 * (pa - b)) % 2 ^ 64

/-- A far word as the controller delivers it (17 R310, R321): value, poison, and the copy's counts. -/
def farWord (s : State) (n pa va : Nat) : State × Nat × Bool :=
  let key := farKey pa
  let v := s.farValue pa
  let e := s.ecc.get .good key
  if e = .good then (s, v, false)
  else
    let code := if e = Ecc.corr then 1 else if e = Ecc.unc then 2 else 3
    let ch := pa / 256 % 16
    let s := s.logEv 0 code 6 0 0 0 pa (if e = Ecc.poison then 0 else (Config.syndrome key).toNat + 256 * ch)
    let s := { s with hall := { s.hall with
      memCorr := if e = Ecc.corr then satInc 16 s.hall.memCorr else s.hall.memCorr,
      memUnc := if e = Ecc.unc then satInc 16 s.hall.memUnc else s.hall.memUnc } }
    let s := s.modCopy n fun (c : Copy) =>
      let c := if c.corr = 0 && c.unc = 0 then { c with eva := va, dch := ch } else c
      if e = Ecc.corr then { c with corr := satInc 8 c.corr } else { c with unc := satInc 8 c.unc, fcode := if c.fcode = 0 then 7 else c.fcode }
    (s, v, e ≠ Ecc.corr)

/-- A word of the hall for a copy from it. -/
def hallWord (s : State) (n off : Nat) : State × Nat × Bool :=
  let key := hallKey off
  let psn := s.tainted key 8
  let s := s.countRead key 8
  let s := if psn then s.modCopy n fun c => { c with unc := satInc 8 c.unc, fcode := if c.fcode = 0 then 7 else c.fcode } else s
  (s, s.readAs clsC key 8, psn)

/-- The eight words of a segment: data and poison. -/
def readWords (s : State) (f : State → Nat → State × Nat × Bool) : State × Nat × Nat :=
  (List.range 8).foldl (fun (a : State × Nat × Nat) i =>
    let (s, v, p) := f a.1 i
    (s, a.2.1 + v * 2 ^ (64 * i), a.2.2 + p.toNat * 2 ^ i)) (s, 0, 0)

/-- The read of a segment's far or hall bytes: data for its inbound beat, a miss or a stop. The courier reads on to the next one. -/
def farRead (s : State) (n seg : Nat) : State :=
  match s.copy? n with
  | none => s
  | some c =>
    if cutOff c seg || c.held.isSome || seg ≠ c.rd then s
    else
      let va := (c.segAt seg).va
      let got (r : State × Nat × Nat) : State :=
        let s := r.1.modCopy n fun c => { c with buf := c.buf ++ [(seg, r.2.1, r.2.2)], rd := seg + 1 }
        if seg + 1 < c.nsegs then s.readSegment n (seg + 1) else s
      if c.isHall then got (s.readWords fun s i => s.hallWord n (va + 8 * i))
      else match s.copyXlate n c va with
        | (.hit pa, s) =>
          if s.farBlocked n c pa then s.schedRow (s.acc + 1) phEnd none (.farMemoryAccess n seg false)
          else (s.linkRetry pa).readWords (fun s i => s.farWord n (pa + 8 * i) (va + 8 * i)) |> got
        | (.miss, s) => (s.modCopy n fun c => { c with miss := some (va / 2 ^ 16) }).schedRow s.acc phEnd none (.translationMiss n)
        | (.fault fc, s) => s.stopAt n fc seg none

/-- Poison of the eight words of a segment as a byte mask. -/
def wordMask (psn : Nat) : Nat := (List.range 8).foldl (fun m i => if psn.testBit i then m + 255 * 2 ^ (8 * i) else m) 0

/-- 64 bytes of an outbound segment reach the far memory or the hall. -/
def putFar (s : State) (n seg key data psn : Nat) : State :=
  let s := s.writeUntimed clsC key 64 data (ones 64) (wordMask psn)
  let k := ((List.range 8).filter fun i => psn.testBit i).length
  (s.modCopy n fun c =>
    { c with done := c.done + 1, bytes := c.bytes + 64, unc := min 255 (c.unc + k),
             fcode := if psn ≠ 0 && c.fcode = 0 then 7 else c.fcode }).landSeg n seg

/-- The write of a segment that the hall has accepted: a page that misses takes it into the side log (17 R319). -/
def farWrite (s : State) (n seg : Nat) : State :=
  match s.copy? n with
  | none => s
  | some c =>
    if cutOff c seg || c.held.isSome then s
    else match c.got.find? fun g => g.1 = seg with
      | none => s
      | some (_, data, psn) =>
        let va := (c.segAt seg).va
        let taken (s : State) : State := s.modCopy n fun c => { c with got := c.got.filter fun g => g.1 ≠ seg }
        if c.isHall then (taken s).putFar n seg (hallKey va) data psn
        else match s.copyXlate n c va with
          | (.hit pa, s) =>
            if s.farBlocked n c pa then s.schedRow (s.acc + 1) phWrite none (.farMemoryAccess n seg true)
            else ((taken s).linkRetry pa).putFar n seg (farKey pa) data psn
          | (.miss, s) =>
            if 64 ≤ s.courier.side.length then s.schedRow (s.acc + 1) phWrite none (.farMemoryAccess n seg true) else
            let e : SideEntry := { part := c.part, copy := n, seg := seg, va := va, data := data, psn := psn }
            let s := { taken s with courier := { (taken s).courier with side := s.courier.side ++ [e] } }
            s.schedRow s.acc phEnd none (.translationMiss n)
          | (.fault fc, s) => s.stopAt n fc seg none

end State

/-- FAR_MEMORY_ACCESS (17 R310): the far or hall access of a copy's segment. -/
def execFarMemoryAccess (copy seg : Nat) (wr : Bool) (s : State) : Res :=
  .next ((if wr then s.farWrite copy seg else s.farRead copy seg).startCopies)

namespace State

/-- An entry of the side log. -/
def keepSide (s : State) (e : SideEntry) : State := { s with courier := { s.courier with side := s.courier.side ++ [e] } }

/-- The side-log entries of a page are written in their order (17 R319). From one that waits for an earlier copy on, which may touch the same
far bytes (R315), they stay in the log and are tried again in the next cycle. -/
def replaySide (s : State) (p vpn : Nat) : State :=
  let mine := s.courier.side.filter fun e => e.part = p && e.va / 2 ^ 16 = vpn
  let s := { s with courier := { s.courier with side := s.courier.side.filter fun e => !(e.part = p && e.va / 2 ^ 16 = vpn) } }
  let (s, wait) := mine.foldl (fun (a : State × Bool) e =>
    let (s, wait) := a
    if wait then (s.keepSide e, true)
    else match s.translate p e.va true with
      | .hit pa =>
        if (s.copy? e.copy).any fun c => s.farBlocked e.copy c pa then (s.keepSide e, true)
        else ((s.linkRetry pa).putFar e.copy e.seg (farKey pa) e.data e.psn, false)
      | .miss => ((s.keepSide e).schedRow s.acc phEnd none (.translationMiss e.copy), false)
      | .fault fc => ((s.keepSide e).stopAt e.copy fc e.seg none, false)) (s, false)
  (if wait then s.schedRow (s.acc + 1) phEnd none (.sideLogReplay p vpn) else s).startCopies

end State

def execSideLogReplay (part vpn : Nat) (s : State) : Res :=
  if !(part < 8) then .fault .noSuchUnit else .next (s.replaySide part vpn)

/-! ## Requests (17 R311, R320) -/

namespace State

/-- Messages about a page are answered. -/
def answerPage (s : State) (p vpn : Nat) (big : Bool) : State :=
  s.modPart p fun t => { t with msgs := t.msgs.filter fun m => !(!m.sv && m.word / 2 ^ 50 % 4 = 0 && pagesMeet m.about false vpn big) }

/-- Copies whose read waits for the page. -/
def waiters (s : State) (p vpn : Nat) (big : Bool) : List (Nat × Copy) :=
  s.courier.copies.filter fun e => e.2.part = p && e.2.miss.any fun v => pagesMeet v false vpn big

/-- Pages of the side log that the page covers. -/
def sidePages (s : State) (p vpn : Nat) (big : Bool) : List SideEntry :=
  s.courier.side.filter fun e => e.part = p && pagesMeet (e.va / 2 ^ 16) false vpn big

/-- TLBW.w in the courier (17 R320). Any TLBW of a page answers its message; one with V = 0 maps nothing, and the copies wait on. -/
def tlbWrite (s : State) (p : Nat) (va entry : Word) (idx : Nat) : State :=
  let big := entryBig entry
  let vpn0 := va.toNat / 2 ^ 16 % 2 ^ 32
  let vpn := if big then vpn0 / 32 * 32 else vpn0
  if entry.getLsbD 4 then
    let w := s.waiters p vpn big
    let sd := s.sidePages p vpn big
    let s := s.answerPage p vpn big
    let s := w.foldl (fun s e => s.stopAt e.1 1 e.2.rd none) s
    ((sd.map fun e => e.copy).eraseDups).foldl (fun s n =>
      s.stopAt n 1 ((s.courier.side.filter fun e => e.copy = n).foldl (fun m e => min m e.seg) (2 ^ 40)) none) s
  else
    let i := (s.tlbShare p).1 + idx
    let inval (e : Nat × TlbEntry) : Nat × TlbEntry :=
      if e.1 ≠ i && s.inShare p e.1 && entryValid e.2.entry && pagesMeet e.2.vpn (entryBig e.2.entry) vpn big then
        (e.1, { e.2 with entry := e.2.entry &&& ~~~1 })
      else e
    let tlb : Tbl TlbEntry := if entryValid entry then s.courier.tlb.map inval else s.courier.tlb
    let s := { s with courier := { s.courier with tlb := tlb.put i { vpn := vpn, entry := entry &&& ~~~16 } } }
    if !entryValid entry then s.answerPage p vpn big
    else
      let w := s.waiters p vpn big
      let pages := ((s.sidePages p vpn big).map fun e => e.va / 2 ^ 16).eraseDups
      let s := s.answerPage p vpn big
      let s := w.foldl (fun s e => (s.modCopy e.1 fun c => { c with miss := none }).readSegment e.1 e.2.rd) s
      pages.foldl (fun s v => s.schedRow s.acc phEnd none (.sideLogReplay p v)) s

/-- TLBI in the courier. -/
def tlbInval (s : State) (p : Nat) (f : TlbiForm) (va : Word) : State :=
  let hit (e : Nat × TlbEntry) : Bool := s.inShare p e.1 && (match f with
    | .va _ => pagesMeet (va.toNat / 2 ^ 16 % 2 ^ 32) false e.2.vpn (entryBig e.2.entry)
    | .idx i => e.1 = (s.tlbShare p).1 + i.toNat
    | .all => true)
  { s with courier := { s.courier with
      tlb := s.courier.tlb.map fun e => if hit e then (e.1, { e.2 with entry := e.2.entry &&& ~~~1 }) else e } }

/-- A copy that was held goes on: the accesses that it did not make are made. -/
def resumeCopy (s : State) (n : Nat) : State :=
  match s.copy? n with
  | none => s
  | some c =>
    let due (seg : Nat) (wr : Bool) : Bool := s.agenda.any fun e => e.act = .row (.farMemoryAccess n seg wr)
    if c.isOut then
      let s := (c.got.filter fun g => !due g.1 true).foldl (fun s g => s.schedRow (s.acc + 1) phWrite none (.farMemoryAccess n g.1 true)) s
      let pages := ((s.courier.side.filter fun e => e.copy = n).map fun e => e.va / 2 ^ 16).eraseDups
      pages.foldl (fun s v => s.schedRow s.acc phEnd none (.sideLogReplay c.part v)) s
    else if c.rd < c.nsegs && !due c.rd false then
      (s.modCopy n fun c => { c with miss := none }).readSegment n c.rd
    else s

/-- The failing unit of a held copy is tried again: its beat, the place's read (FCODE 0x04), or the far access. -/
def retryHeld (s : State) (n : Nat) (c : Copy) (seg : Nat) (beat : Option Beat) : State :=
  let s := s.setCopy n { c with held := none, fcode := if c.unc ≠ 0 then 7 else 0, coord := 0 }
  let s := match beat with
    | some b => s.modCopy n fun c => { c with again := c.again ++ [(s.acc + 1, { b with tries := 1 })] }
    | none => if c.isOut && c.fcode = 4 then s.modCopy n fun c => { c with redo := c.redo ++ [seg] } else s
  s.resumeCopy n

/-- TLBW.res in the courier (17 R320, R322). -/
def resolve (s : State) (p id core : Nat) (abandon : Bool) : State :=
  match List.find? (fun e : Nat × Copy => e.2.part = p && e.2.id = id && s.issuerNo e.2 = core && e.2.held.isSome) s.courier.copies with
  | none => s
  | some (n, c) =>
    let s := s.modPart p fun t => { t with msgs := t.msgs.filter fun m => !(m.word / 2 ^ 50 % 4 = 1 && m.about = n) }
    match c.held with
    | none => s
    | some (seg, beat) =>
      if abandon then
        let s := { s with courier := { s.courier with side := s.courier.side.filter fun e => e.copy ≠ n } }
        (s.setCopy n { c with held := none, ended := true, again := [], got := [], buf := [], miss := none, redo := [] }).startCopies
      else s.retryHeld n c seg beat

/-- A CPY's request is accepted (17 R311, R315). A copy for a tier asleep is not made (R316). -/
def acceptCopy (s : State) (c : Copy) : State :=
  let n := s.courier.next
  let c := if s.tierAway (tierOf c.core) then { c with ended := true, fcode := 8 } else c
  ({ s with courier := { s.courier with next := n + 1, copies := s.courier.copies.put n c } }).startCopies

end State

/-- COURIER_REQUEST_ACCEPT (17 R311): a request takes effect in the courier. -/
def execCourierRequestAccept (part : Nat) (org : Org) (r : CReq) (s : State) : Res :=
  if !(part < 8 && coreOk org.core && org.berth < 16) then .fault .noSuchUnit
  else .next (match r with
    | .copy dir place fmt planes rows cols stride sa sb sc h win id =>
      s.acceptCopy { part := part, org := org, dir := dir, place := place, fmt := fmt, planes := planes, rows := rows, cols := cols,
                     stride := stride, sa := sa, sb := sb, sc := sc, h := h, win := win, id := id }
    | .tlbw va entry idx => s.tlbWrite part va entry idx
    | .res copy core abandon => s.resolve part copy core abandon
    | .tlbi f va => s.tlbInval part f va
    | .psend .. => s)

/-! ## Data beats (17 R311, R315) -/

namespace State

/-- KIND of a courier beat by the space of its place (17 R311). -/
def courierKind (key : Nat) : Nat :=
  match spaceOf key with
  | .room => 9
  | .ws => 10
  | _ => 11

/-- The beat of a segment. `aop` holds the mask of its poisoned words. -/
def dataBeat (n seg : Nat) (c : Copy) (data psn : Nat) : Beat :=
  let key := ((c.segAt seg).pieces.head?.map fun p => p.1).getD c.place
  { kind := courierKind c.place, src := if c.isOut then tierOf c.core else 6, dtier := if c.isOut then 6 else tierOf c.core,
    dpos := meshIdx c.core, off := offOfKey key % 2 ^ 24, aop := psn, psn := psn ≠ 0, data := data, org := some c.org, part := c.part,
    dreg := none, tries := 1, copy := n, seg := seg, req := none }

/-- A courier beat is on the bus in this cycle. -/
def onBus (s : State) (kind : Nat) (data : Nat := 0) : State :=
  { s with hall := { s.hall with sent := some s.acc, sentKind := kind, sentData := data } }

/-- A data beat's CRC outcome in its beat cycle: what follows at its target, or a NACK. -/
def beatOutcome (s : State) (n rx : Nat) (b : Beat) (ok : State → State) : State :=
  if s.beatFails rx then s.schedAux (s.acc + 4) phEnd none (.courierNack n b (some ((s.failChan rx).getD 0x1FF))) else ok s

/-- A NACK of a data beat: it is sent again in the window, at most four times in all. -/
def courierNackEvent (s : State) (n : Nat) (b : Beat) (chan : Option Nat) : State :=
  match s.copy? n with
  | none => s
  | some c =>
    if cutOff c b.seg then s
    else if 4 ≤ b.tries then
      if c.held.isSome then s.setCopy n { c with again := c.again ++ [(s.acc + 1, { b with tries := 1 })] }
      else
        let place := if c.isOut then hallKey 0 else ((c.segAt b.seg).pieces.head?.map fun p => p.1).getD c.place
        (s.logGiveUp b.dtier b.dpos place (s.acc - 4)).stopAt n 6 b.seg (some b)
    else
      let s := { s with hall := { s.hall with retry := satInc 16 s.hall.retry } }
      s.setCopy n { c with again := c.again ++ [(s.acc + 1, { b with tries := b.tries + 1 })], retry := satInc 8 c.retry,
                           cch := chan.getD c.cch }

/-- Both copies of a data beat's NACK are lost (12 R245): it is not sent again, and its segment counts as come though it has not been
written. -/
def courierMissed (s : State) (n : Nat) (b : Beat) : State :=
  match s.copy? n with
  | none => s
  | some c => if cutOff c b.seg then s else (s.modCopy n fun c => { c with bytes := c.bytes + 64, done := c.done + 1 }).landSeg n b.seg

/-- A beat whose write is not made stops its copy; one of a copy that is held already is sent again when the copy goes on (17 R322, A40). -/
def refuse (s : State) (n : Nat) (c : Copy) (fcode : Nat) (b : Beat) : State :=
  if c.held.isSome then s.modCopy n fun c => { c with again := c.again ++ [(s.acc + 1, { b with tries := 1 })] }
  else s.stopAt n fcode b.seg (some b)

/-- The write of an inbound beat at its place. -/
def courierPutEvent (s : State) (n : Nat) (b : Beat) : State :=
  match s.copy? n with
  | none => s
  | some c =>
    if cutOff c b.seg then s
    else if s.tierAway (tierOf c.core) then s.stopAt n 8 b.seg none
    else if s.cur.denied.isSome then s.refuse n c 4 b
    else
      let pcs := (c.segAt b.seg).pieces
      let lost := pcs.any fun p => s.lostBytes p.1 p.2.2 (ones p.2.2) ≠ 0
      let task := s.taskOfOrg (some c.org)
      let s := pcs.foldl (fun s p =>
        let m := ones p.2.2 - s.lostBytes p.1 p.2.2 (ones p.2.2)
        let s := if spaceOf p.1 = .room then s.noteRoom task p.1 p.2.2 m else s
        s.writeUntimed clsC p.1 p.2.2 (b.data / 256 ^ p.2.1 % 256 ^ p.2.2) m (wordMask b.aop / 2 ^ p.2.1 % 2 ^ p.2.2)) s
      if lost then s.refuse n c (if c.inB then 5 else 4) b
      else (s.modCopy n fun c => { c with bytes := c.bytes + 64, done := c.done + 1 }).landSeg n b.seg

/-- An agent's read of a segment for its beat four cycles later (17 R311). A failing unit is carried poisoned. -/
def courierReadEvent (s : State) (n seg b : Nat) : State :=
  match s.copy? n with
  | none => s
  | some c =>
    if cutOff c seg then s
    else if c.held.isSome then s.setCopy n { c with redo := c.redo ++ [seg] }
    else if s.cur.denied.isSome then s.stopAt n 4 seg none
    else
      let pcs := (c.segAt seg).pieces
      let s := pcs.foldl (fun s p => match spaceOf p.1 with
        | .ws => (s.checkParity p.1 p.2.2).1
        | _ => s.countRead p.1 p.2.2) s
      let data := pcs.foldl (fun v p => v + s.readAs clsC p.1 p.2.2 * 256 ^ p.2.1) 0
      let psn := (List.range 8).foldl (fun m i =>
        if pcs.any fun p => p.2.1 ≤ 8 * i && 8 * i < p.2.1 + p.2.2 && s.tainted (p.1 + (8 * i - p.2.1)) 8 then m + 2 ^ i else m) 0
      s.schedRow b phSample none (.courierOutboundBeat n seg (dataBeat n seg c data psn))

end State

/-- COURIER_INBOUND_BEAT (17 R311, R315): the beat cycle of an inbound data beat, whose effect comes ten cycles later. -/
def execCourierInboundBeat (copy _seg : Nat) (b : Beat) (s : State) : Res :=
  if !(b.dtier < 6 && b.dpos < 16) then .fault .noSuchUnit
  else .next ((s.onBus b.kind b.data).beatOutcome copy b.dtier b fun s => s.schedAux (s.acc + 10) phWrite none (.courierPut copy b))

/-- COURIER_OUTBOUND_BEAT: the beat cycle of an outbound data beat, which the hall accepts six cycles later. -/
def execCourierOutboundBeat (copy seg : Nat) (b : Beat) (s : State) : Res :=
  if !(b.src < 6) then .fault .noSuchUnit
  else .next ((s.onBus b.kind b.data).beatOutcome copy 6 b fun s =>
    (s.modCopy copy fun c => { c with got := c.got ++ [(seg, b.data, b.aop)] }).schedRow (s.acc + 6) phWrite none (.farMemoryAccess copy seg true))

/-! ## Receipts (17 R321) -/

namespace State

/-- A copy whose receipt may go out now (17 R315): for a copy into a place, that it ends short changes nothing of the wait for its last beat. -/
def receiptDue (s : State) (c : Copy) : Bool :=
  c.held.isNone && c.dataDone && (c.isOut || c.lastb = 0 || c.lastb + (if c.inB then 11 else 5) ≤ s.acc)

/-- A receipt of the ring is on its way, or one waits in the overflow store for longer than this copy's: no later one passes it. -/
def ringBusy (s : State) (n : Nat) (c : Copy) : Bool :=
  (s.ring c.org.core c.ringNo).recs.any (fun r => r.eff.isNone)
    || s.courier.copies.any fun e => e.1 ≠ n && e.2.org.core = c.org.core && e.2.ringNo = c.ringNo
      && (e.2.rc.isSome || (match e.2.spill, c.spill with
        | some a, some b => a < b || (a = b && e.1 < n)
        | some _, none => true
        | none, _ => false))

/-- An earlier receipt of the ring waits in the overflow store. -/
def ringWaits (s : State) (n : Nat) (c : Copy) : Bool :=
  s.courier.copies.any fun e => e.1 ≠ n && e.2.org.core = c.org.core && e.2.ringNo = c.ringNo && e.2.spill.isSome

/-- A receipt that does not fit waits in the overflow store, which all rings share, or is lost when that is full (17 R321). -/
def spillReceipt (s : State) (n : Nat) (c : Copy) : State :=
  if c.spill.isSome then s
  else if s.tierAway (tierOf c.org.core) || 16 ≤ (s.courier.copies.filter fun e => e.2.spill.isSome).length then s.loseReceipt n c
  else (s.modRing c.org.core c.ringNo fun r => { r with ovf := true }).modCopy n fun c => { c with spill := some s.acc }

/-- Finds the place of a receipt in its ring: with a PAD before it, in the overflow store, or lost. `tries` sendings were made before. -/
def placeReceipt (s : State) (n tries : Nat) : State :=
  match s.copy? n with
  | none => s
  | some c =>
    let core := c.org.core
    let r := s.ring core c.ringNo
    if s.tierAway (tierOf core) then s.loseReceipt n c
    else
      let k := if c.fcode ≠ 0 || c.corr ≠ 0 || c.retry ≠ 0 then 2 else 1
      let pad := k = 2 && r.wr + 1 = r.size
      if r.freeUnits < k + pad.toNat then s.spillReceipt n c
      else
        let u := if pad then 0 else r.wr
        let recs := (if pad then [{ unit := r.wr, n := 1, pad := true, eff := none : RingRec }] else []) ++ [{ unit := u, n := k, pad := false, eff := none }]
        (s.modRing core c.ringNo fun r => { r with recs := r.recs ++ recs }).modCopy n fun c =>
          let x : Rcpt := { unit := u, n := k, pad := if pad then some r.wr else none, padFrom := s.acc, tries := tries, from_ := s.acc }
          { c with spill := none, rc := some x }

/-- Receipts that are due take their places: in the overflow store behind an earlier one of the ring that waits there, else in the ring. -/
def placeReceipts (s : State) : State :=
  s.courier.copies.foldl (fun s e =>
    match s.copy? e.1 with
    | none => s
    | some c =>
      if c.rc.isSome || !s.receiptDue c then s
      else if c.spill.isNone && s.ringWaits e.1 c then s.spillReceipt e.1 c
      else if s.ringBusy e.1 c then s
      else s.placeReceipt e.1 0) s

/-- A PAD or receipt beat goes out in this cycle. -/
def rcptBeatEvent (s : State) (n : Nat) (pad : Bool) : State :=
  match s.copy? n with
  | none => s
  | some c =>
    let t := tierOf c.org.core
    let s := s.onBus 10
    let s := s.modCopy n fun c => { c with rc := c.rc.map fun r =>
      if pad then { r with padTries := r.padTries + 1, padOut := true } else { r with tries := r.tries + 1, out := true } }
    if s.beatFails t then s.schedAux (s.acc + 4) phEnd none (.rcptNack n pad (some ((s.failChan t).getD 0x1FF)))
    else s.schedRow (s.acc + 10) phWrite none (.receiptWrite n pad)

/-- A PAD is in its place or passed over: a copy whose receipt is in place is over. -/
def padDone (s : State) (n : Nat) : State :=
  match (s.copy? n).bind fun c => c.rc with
  | some r => if r.placed then s.endCopy n else s.modCopy n fun c => { c with rc := some { r with pad := none, padOut := false } }
  | none => s

/-- A PAD's unit is passed over. -/
def dropPad (s : State) (n : Nat) (c : Copy) (u : Nat) : State :=
  (s.modRing c.org.core c.ringNo fun r => ({ r with recs := r.recs.map fun (x : RingRec) =>
    if x.pad && x.unit = u && x.eff.isNone then { x with eff := some s.acc } else x }).advance).padDone n

/-- Logs a PAD or receipt beat given up: it was NACKed four cycles after its beat cycle, or not served ten cycles after it. -/
def giveUpRcpt (s : State) (c : Copy) (unit : Nat) (chan : Option Nat) : State :=
  s.logGiveUp (tierOf c.org.core) (meshIdx c.org.core) (wsKey c.org.core ((s.ring c.org.core c.ringNo).base + 32 * unit))
    (s.acc - (if chan.isSome then 4 else 10))

/-- A PAD or receipt beat was NACKed, or its bank did not serve it: it is sent again, and the fourth failure loses the receipt, or
drops the PAD. A receipt that becomes extended by its first resending is placed anew. -/
def rcptNackEvent (s : State) (n : Nat) (pad : Bool) (chan : Option Nat) : State :=
  match s.copy? n with
  | none => s
  | some c =>
    match c.rc with
    | none => s
    | some r =>
      let up (s : State) : State :=
        { s with hall := { s.hall with retry := satInc 16 s.hall.retry } }.modCopy n fun c =>
          { c with retry := satInc 8 c.retry, cch := chan.getD c.cch }
      if pad then
        if 4 ≤ r.padTries then (s.giveUpRcpt c (r.pad.getD 0) chan).dropPad n c (r.pad.getD 0)
        else up (s.setCopy n { c with rc := some { r with padOut := false, padFrom := s.acc + 1 } })
      else if 4 ≤ r.tries then (s.giveUpRcpt c r.unit chan).loseReceipt n c
      else if r.n = 1 then
        let s := s.modRing c.org.core c.ringNo fun k => { k with recs := k.recs.filter fun x => x.eff.isSome }
        (up (s.setCopy n { c with rc := none })).placeReceipt n r.tries
      else up (s.setCopy n { c with rc := some { r with out := false, from_ := s.acc + 1 } })

/-- The words of a receipt (17 R321). -/
def receiptWords (s : State) (c : Copy) (k : Nat) : Nat :=
  let st := if c.fcode = 0 then 0 else if c.fcode = 7 then 1 else if c.fcode = 8 then 2 else 3
  let w0 := st + 2 ^ 8 * c.fcode + 2 ^ 16 * (c.sc.toNat / 2 ^ 16 % 2 ^ 16) + 2 ^ 32 * c.id + 2 ^ 48 * c.h + 2 ^ 56 * c.dir + 2 ^ 59 * (k - 1)
  let w1 := c.bytes % 2 ^ 32 + 2 ^ 32 * c.retry + 2 ^ 40 * c.corr
  let w5 := c.dch + 2 ^ 8 * c.unc + 2 ^ 32 * c.cch
  let v := w0 + 2 ^ 64 * (w1 + 2 ^ 64 * (s.acc % 2 ^ 64 + 2 ^ 64 * c.sb.toNat))
  if k = 1 then v else v + 2 ^ 256 * (c.eva % 2 ^ 48 + 2 ^ 64 * w5)

/-- A B store that a copy has filled is drained for every class from the cycle after its receipt (13 R273). -/
def drainB (s : State) (c : Copy) : State :=
  if !c.inB then s
  else { s with undrained := s.undrained.map fun u =>
    if u.cls = clsC && spaceOf u.key = .bs && coreOfKey u.key = c.core then
      { u with drains := (List.range 7).map (fun k => (k, s.acc + 1)) ++ u.drains }
    else u }

/-- A PAD or receipt counts as in its place from this cycle on. -/
def rcptDone (s : State) (n : Nat) (pad : Bool) (c : Copy) (r : Rcpt) : State :=
  let u := if pad then r.pad.getD 0 else r.unit
  let s := s.modRing c.org.core c.ringNo fun q => ({ q with recs := q.recs.map fun (x : RingRec) =>
    if x.unit = u && x.pad = pad && x.eff.isNone then { x with eff := some s.acc } else x }).advance
  if pad then s.padDone n
  else
    let s := (s.drainB c).copyTrap c
    if r.pad.isSome then s.modCopy n fun c => { c with rc := some { r with placed := true, out := true } } else s.endCopy n

/-- Both copies of the NACK of a PAD or receipt are lost: it counts as written, though no byte of it is. -/
def rcptMissed (s : State) (n : Nat) (pad : Bool) : State :=
  match s.copy? n with
  | none => s
  | some c => match c.rc with
    | some r => s.rcptDone n pad c r
    | none => s

/-- A PAD or receipt at its place: bytes that a landing of the same cycle writes are not made, and it counts as not served (13 R270). -/
def receiptEffect (s : State) (n : Nat) (pad : Bool) (c : Copy) (r : Rcpt) : State :=
  let core := c.org.core
  let q := s.ring core c.ringNo
  let u := if pad then r.pad.getD 0 else r.unit
  let k := if pad then 1 else r.n
  let key := wsKey core (q.base + 32 * u)
  let lost := s.lostBytes key (32 * k) (ones (32 * k))
  let s := s.writeUntimed clsC key (32 * k) (if pad then 0xFF else s.receiptWords c k) (ones (32 * k) - lost) 0
  if lost ≠ 0 then s.rcptNackEvent n pad none else s.rcptDone n pad c r

end State

/-- RECEIPT_WRITE (17 R321): the effect cycle of a receipt or PAD beat. -/
def execReceiptWrite (copy : Nat) (pad : Bool) (s : State) : Res :=
  .next (match s.copy? copy with
    | none => s
    | some c =>
      match c.rc with
      | none => s
      | some r =>
        if s.tierAway (tierOf c.org.core) then (if r.placed then s.endCopy copy else s.loseReceipt copy c)
        else if s.cur.denied.isSome then s.rcptNackEvent copy pad none
        else s.receiptEffect copy pad c r)

/-! ## Messages (17 R318, R319, R322) -/

namespace State

/-- The core and queue of XLB or SVB. -/
def queueOf (s : State) (p : Nat) (sv : Bool) : Option (Nat × Nat) :=
  let r := if sv then (s.part p).svb else (s.part p).xlb
  if !r.valid then none else (s.physTier p r.tier).map fun t => (coreAtMesh t r.pos, r.queue)

/-- Changes one message, found by its word and queue. -/
def modMsg (s : State) (p : Nat) (m : Msg) (f : Msg → Msg) : State :=
  s.modPart p fun t => { t with msgs := t.msgs.map fun x => if x.sv = m.sv && x.word = m.word && !x.posted then f x else x }

/-- The next message of a queue: in their order, one on its way at a time, at most 16 unanswered. -/
def nextMsg (s : State) (p : Nat) (sv : Bool) : Option Msg :=
  let l := (s.part p).msgs.filter fun m => m.sv = sv
  if l.any (fun m => m.out) || 16 ≤ (l.filter fun m => m.posted).length then none
  else (l.find? fun m => !m.posted).bind fun m => if m.from_ ≤ s.acc then some m else none

def msgBeatEvent (s : State) (p : Nat) (m : Msg) : State :=
  let s := (s.onBus 10).modMsg p m fun x => { x with tries := x.tries + 1, out := true }
  match s.queueOf p m.sv with
  | none => s.modMsg p m fun x => { x with out := false }
  | some (core, _) =>
    if s.beatFails (tierOf core) then s.schedAux (s.acc + 4) phEnd none (.msgNack p m)
    else s.schedAux (s.acc + 10) phWrite none (.msgWrite p m)

/-- A message's beat was NACKed or not served: it is sent again. After the fourth sending it is given up and logged (A26). -/
def msgNackEvent (s : State) (p : Nat) (m : Msg) (nack : Bool) : State :=
  let gone (x : Msg) : Bool := x.sv = m.sv && x.word = m.word && !x.posted && 4 ≤ x.tries
  if (s.part p).msgs.any gone then
    let s := s.modPart p fun t => { t with msgs := t.msgs.filter fun x => !gone x }
    match s.queueOf p m.sv with
    | some (core, base) =>
      let tail := if m.sv then (s.part p).svTail else (s.part p).xlTail
      s.logGiveUp (tierOf core) (meshIdx core) (wsKey core (base + 8 * tail)) (s.acc - (if nack then 4 else 10))
    | none => s
  else
    { s with hall := { s.hall with retry := satInc 16 s.hall.retry } }.modMsg p m fun x => { x with out := false, from_ := s.acc + 1 }

/-- A message counts as posted at the tail of its queue. -/
def msgPosted (s : State) (p : Nat) (m : Msg) : State :=
  let s := s.modPart p fun t => if m.sv then { t with svTail := (t.svTail + 1) % 16 } else { t with xlTail := (t.xlTail + 1) % 16 }
  s.modMsg p m fun x => { x with out := false, posted := true }

/-- A message's entry at the tail of its queue. -/
def msgWriteEvent (s : State) (p : Nat) (m : Msg) : State :=
  match s.queueOf p m.sv with
  | none => s.msgNackEvent p m false
  | some (core, base) =>
    let tail := if m.sv then (s.part p).svTail else (s.part p).xlTail
    let key := wsKey core (base + 8 * tail)
    let lost := s.lostBytes key 8 255
    if s.cur.denied.isSome then s.msgNackEvent p m false
    else if lost ≠ 0 then (s.writeUntimed clsC key 8 m.word (255 - lost) 0).msgNackEvent p m false
    else (s.writeUntimed clsC key 8 m.word 255 0).msgPosted p m

/-! ## What the courier sends in a position (17 R312) -/

/-- An inbound data beat goes out. -/
def sendInbound (s : State) (n : Nat) (b : Beat) : State :=
  (s.modCopy n fun c => { c with lastb := s.acc, flying := if c.flying.contains b.seg then c.flying else c.flying ++ [b.seg] }).schedRow s.acc
    phSample none (.courierInboundBeat n b.seg b)

/-- The beat of a receipt that has its place, or of the PAD before it. -/
def sendReceipt (s : State) (n : Nat) (r : Rcpt) : Option State :=
  if r.pad.isSome && !r.padOut && r.padFrom ≤ s.acc then some (s.schedAux s.acc phSample none (.rcptBeat n true))
  else if !r.out && r.from_ ≤ s.acc then some (s.schedAux s.acc phSample none (.rcptBeat n false))
  else none

/-- An inbound beat of a copy that was NACKed, or not served, and is to be sent again in this cycle (17 R311, R321). -/
def copyResend (s : State) (n : Nat) (c : Copy) : Option State :=
  match (if c.isOut || c.held.isSome then none else c.again.find? fun e => e.1 ≤ s.acc) with
  | some e => some ((s.setCopy n { c with again := c.again.erase e }).sendInbound n e.2)
  | none => c.rc.bind fun r => if r.tries = 0 && r.padTries = 0 then none else s.sendReceipt n r

/-- An inbound item of a copy in this cycle: the segment in hand, or its receipt. -/
def copyInbound (s : State) (n : Nat) (c : Copy) : Option State :=
  match c.isOut || c.ended || c.held.isSome, c.buf with
  | false, (seg, data, psn) :: rest => some ((s.setCopy n { c with buf := rest, next := seg + 1 }).sendInbound n (dataBeat n seg c data psn))
  | _, _ => if s.receiptDue c then c.rc.bind fun r => s.sendReceipt n r else none

/-- The inbound beat of a window in this hall position: one that was NACKed comes first (17 R311), then messages, then the copies in their
order. A copy for a tier asleep ends ABSENT. -/
def courierInbound (s : State) (p : Nat) : Option State :=
  (s.windowsAt p s.hall.ttc).findSome? fun w =>
    let copies := s.courier.copies.filter fun e => e.2.part = p && e.2.win = w.1
    let msgs := [false, true].filterMap fun sv =>
      if (s.queueOf p sv).map (fun q => q.1) = s.servedCore p w.2 then s.nextMsg p sv else none
    let send (m : Msg) : State := s.schedAux s.acc phSample none (.msgBeat p m)
    (((msgs.find? fun m => 0 < m.tries).map send).or (copies.findSome? fun e => s.copyResend e.1 e.2)).or <|
      (msgs.head?.map send).or <| copies.findSome? fun e =>
        if s.tierAway (tierOf e.2.core) && !e.2.ended && !e.2.dataDone then some (s.stopAt e.1 8 e.2.next none)
        else s.copyInbound e.1 e.2

/-- The far page of a segment misses. -/
def segMisses (s : State) (c : Copy) (seg : Nat) : Bool := !c.isHall && s.translate c.part (c.segAt seg).va true = .miss

/-- Room in the side log for another outbound beat of a copy that meets a page that misses, beside the beats under way (17 R319). -/
def sideRoom (s : State) (c : Copy) (seg : Nat) : Bool :=
  !(s.segMisses c seg || c.flying.any (s.segMisses c)) || s.courier.side.length + ((s.courier.copies.filter fun e => e.2.isOut).map fun e =>
    (e.2.flying.filter fun i => s.segMisses e.2 i && !s.courier.side.any fun x => x.copy = e.1 && x.seg = i).length).sum < 64

/-- An outbound copy whose agent works. -/
def agentWorks (s : State) (c : Copy) : Bool :=
  c.isOut && c.started && !c.ended && c.held.isNone && c.ready ≤ s.acc && !s.tierAway (tierOf c.core)

/-- What the agent of a served core reads for the beat four cycles on. -/
def copyOutbound (s : State) (n : Nat) (c : Copy) : Option State :=
  if !s.agentWorks c then none
  else match c.redo with
    | i :: rest => some ((s.setCopy n { c with redo := rest }).schedAux s.acc phSample none (.courierRead n i (s.acc + 4)))
    | [] =>
      if c.next < c.nsegs && !cutOff c c.next && s.sideRoom c c.next then
        some ((s.setCopy n { c with next := c.next + 1, flying := c.flying ++ [c.next] }).schedAux s.acc phSample none
          (.courierRead n c.next (s.acc + 4)))
      else none

/-- The outbound window of a partition that has the position k cycles on: its index. -/
def agentWindow (s : State) (p k : Nat) : Option Nat :=
  let ttc := s.ttcIn s.hall.ttc k
  ((s.windowsAt p ttc).find? fun w => (w.2.dir = 1 || w.2.dir = 2) && s.ownIn p (ttc % 64) k = w.2.tier).map fun w => w.1

/-- A beat that was NACKed takes the window's next position; the segment read for it is read again for a later one (17 R311). -/
def resendOutbound (s : State) (p w : Nat) : State :=
  match s.courier.copies.findSome? fun e =>
      if e.2.part = p && e.2.win = w && s.agentWorks e.2 then (e.2.again.find? fun b => b.1 ≤ s.acc).map fun b => (e.1, b) else none with
  | none => s
  | some (n, b) =>
    let mine (e : Ev) : Bool := e.at_ = s.acc && (match e.act with
      | .row (.courierOutboundBeat m _ _) => (s.copy? m).any fun c => c.part = p && c.win = w
      | _ => false)
    let s := (s.agenda.filter mine).foldl (fun s e => match e.act with
      | .row (.courierOutboundBeat m seg _) => s.modCopy m fun c => { c with redo := seg :: c.redo }
      | _ => s) s
    let s := { s with agenda := s.agenda.filter fun e => !mine e }
    (s.modCopy n fun c => { c with again := c.again.erase b }).schedRow s.acc phSample none (.courierOutboundBeat n b.2.seg b.2)

/-- The agents' work: a beat sent again in this position, and the read for the position four cycles on (17 R311, R312). -/
def courierOutbound (s : State) : State :=
  if s.courier.copies.isEmpty then s
  else
    let s := if s.edgeBeatIn 0 then s
      else (List.range 8).foldl (fun s p => match s.agentWindow p 0 with
        | some w => s.resendOutbound p w
        | none => s) s
    if s.edgeBeatIn 4 then s
    else (List.range 8).foldl (fun s p => match s.agentWindow p 4 with
      | some w => ((s.courier.copies.filter fun e => e.2.part = p && e.2.win = w).findSome? fun e => s.copyOutbound e.1 e.2).getD s
      | none => s) s

/-- A new plan ends the copies of a partition (17 R316, 0x0A). -/
def endCopies (s : State) (p : Nat) : State :=
  (s.courier.copies.filter fun e => e.2.part = p).foldl (fun s e =>
    (s.modCopy e.1 fun c => { c with held := none }).stopCopy e.1 0xA 0 0 0 none) s

end State

/-! ## CPY (17 R313, R314) -/

namespace State

/-- Bytes of a place's space. -/
def spaceSize (key : Nat) : Nat :=
  match spaceOf key with
  | .ws => 2 ^ 19
  | .room => 2 ^ 24
  | _ => 2 ^ 23

/-- Check 2 of 17 R314: the place belongs to the core served by the window, or its cluster. -/
def cpyPlaceOk (s : State) (p : Nat) (c : Copy) : Bool :=
  match s.winRow p c.win with
  | none => false
  | some w => match s.servedCore p w with
    | none => false
    | some k => match spaceOf c.place with
      | .ws | .room => coreOfKey c.place = k
      | .bs => clusterOf (coreOfKey c.place) = clusterOf k
      | _ => false

/-- Check 3: the sub-rectangle lies in the tensor and its place, and the hall range in the partition's share. -/
def cpyRangeOk (s : State) (p : Nat) (c : Copy) : Bool :=
  let r := (s.part p).row
  let hall := r.hbase ≤ c.span.1 && c.span.2 ≤ r.hbase + r.hsize
  let fin := c.rowStart (c.nplanes - 1) (c.nrows - 1) + c.rowBytes
  0 < c.nrows && 0 < c.ncols && c.row0 + c.nrows ≤ c.rows && c.col0 + c.ncols ≤ c.cols
    && (if c.inB then c.rows ≤ 64 && fin ≤ 2 ^ 17 else offOfKey c.place + (fin - c.place) ≤ spaceSize c.place)
    && (!c.isHall || (c.sa.toNat < 2 ^ 25 && hall))

/-- Check 4: place rows start and span multiples of 64 bytes, and the far or hall address is aligned. -/
def cpyAligned (c : Copy) : Bool :=
  c.rowBytes % 64 = 0 && c.sa.toNat % 64 = 0 && (c.fmt ≠ 8 || (c.col0 % 512 = 0 && c.ncols % 512 = 0))
    && (List.range c.nplanes).all fun p => (List.range c.nrows).all fun r => c.rowStart p r % 64 = 0

/-- Check 5: the ring is valid, and the window's DIR admits the direction. -/
def cpyRingOk (s : State) (p : Nat) (c : Copy) : Bool :=
  (s.ring c.org.core c.ringNo).valid && match s.winRow p c.win with
    | some w => if c.isOut then w.dir = 1 || w.dir = 2 else w.dir = 0 || w.dir = 2
    | none => false

/-- Checks 2 to 6: the trap words. -/
def cpyFault (s : State) (p : Nat) (c : Copy) : Option TrapInfo :=
  let fin := ((s.winRow p c.win).map fun w => w.fin).getD 0
  let ttc := s.ttcOf c.org.core
  let win : TrapInfo := { cause := 7, sub := 0x19, tinfo := BitVec.ofNat 32 c.h }
  if !s.cpyPlaceOk p c || !s.cpyRangeOk p c then some win
  else if !cpyAligned c then some { cause := 8, sub := 9, tinfo := c.sa.setWidth 32 }
  else if !s.cpyRingOk p c then some win
  else if fin ≤ ttc then
    some { cause := 0xB, sub := 7, tinfo := BitVec.ofNat 32 (ttc - fin), tcoord := State.slipCoord ttc fin }
  else none

/-- The copy that a CPY asks for. -/
def cpyOf (s : State) (dir : BitVec 2) (a b c : SReg) (h win : Nat) (r : Rec) (place : Nat) : Copy :=
  { part := s.myPart, org := s.here, dir := dir.toNat, place := place, fmt := r.fmt, planes := r.planes, rows := r.rows, cols := r.cols,
    stride := r.stride, sa := s.sreg a, sb := s.sreg b, sc := s.sreg c, h := h, win := win,
    id := ((s.core s.cur.core).copies + 1).toNat }

end State

/-- CPY: a commit point. -/
def execCpy (h : Hd) (dir : BitVec 2) (d a b c : SReg) (hn : Handle) (win : BitVec 6) (s : State) : Res :=
  issueOp h [.s a, .s b, .s c] s fun s =>
    let s := s.countRecord hn.toNat
    match s.mxRec hn.toNat with
    | .error t => s.raiseInfo t
    | .ok r =>
      if !r.ok || !([1, 2, 3, 6, 7, 8].contains r.fmt) then s.raise 5 7 (hn.setWidth 32)
      else match s.recPlace r with
        | none => s.raise 7 0x19 (hn.setWidth 32)
        | some place =>
          let k := s.cpyOf dir a b c hn.toNat win.toNat r place
          match s.cpyFault s.myPart k with
          | some t => s.raiseInfo t
          | none => s.onSlot fun s =>
            let s := s.modCore s.cur.core fun x => { x with copies := x.copies + 1 }
            let s := s.landS (s.acc + 16) d (BitVec.ofNat 64 k.id)
            (s.sendBeat { s.beatOf 8 with dtier := 6, req := some (.copy k.dir k.place k.fmt k.planes k.rows k.cols k.stride k.sa k.sb k.sc
              k.h k.win k.id) }).commit

/-! ## RCPTW and RCPTR (17 R323, R324) -/

def execRcptw (h : Hd) (d : SReg) (ring : BitVec 2) (win : BitVec 6) (s : State) : Res :=
  issueOp h [] s fun s =>
    let c := s.cur.core
    let p := s.myPart
    let i := s.ttcOf c
    if !(s.ring c ring.toNat).valid then s.raise 7 0x19 (ring.setWidth 32)
    else match s.winRow p win.toNat with
      | none => s.raise 7 0x19 (win.setWidth 32)
      | some w =>
        if s.servedCore p w ≠ some c then s.raise 7 0x19 (win.setWidth 32)
        else if w.fin ≤ i then s.raise 0xB 7 (BitVec.ofNat 32 (i - w.fin)) (State.slipCoord i w.fin)
        else s.waitFor (.receipts s.here ring.toNat w.fin d)

/-- The turn at which a receipt is present: the count lands now, and the next group issues. -/
def execRcptwReceiptSeen (b : BId) (s : State) : Res :=
  if !b.ok then .fault .noSuchUnit
  else .next (match (s.berth b.core b.berth).wait with
    | .receipts o r _ d =>
      let n := (s.ring b.core r).receipts
      (s.endWait b.core b.berth).schedRow s.acc phLand (some o) (.landing { org := o, dests := [.s d (BitVec.ofNat 64 n)], flags := 0 })
    | _ => s)

/-- The turn at which the window has ended with no receipt: slip, SUB 0x07. -/
def execRcptwDeadline (b : BId) (s : State) : Res :=
  if !b.ok then .fault .noSuchUnit
  else .next (match (s.berth b.core b.berth).wait with
    | .receipts o _ fin _ =>
      let i := s.ttcOf b.core
      (s.endWait b.core b.berth).takeTrap b.core b.berth s.acc
        { cause := 0xB, sub := 7, tinfo := BitVec.ofNat 32 (i - fin), tcoord := State.slipCoord i fin, tipc := o.pc }
    | _ => s)

/-- Drops the PADs at RD. -/
def Ring.skipPads (r : Ring) : Ring :=
  let ps := r.recs.takeWhile fun x => x.pad && x.eff.isSome
  { r with recs := r.recs.drop ps.length, rd := (r.rd + ps.length) % r.size }

/-- The record that stands at RD. -/
def Ring.head? (r : Ring) : Option RingRec := r.recs.head?.bind fun x => if x.eff.isSome && !x.pad then some x else none

/-- RD passes a record. -/
def Ring.consume (r : Ring) (x : RingRec) : Ring := { r with recs := r.recs.drop 1, rd := (x.unit + x.n) % r.size }

namespace State

/-- Lands what an RCPTR has read. -/
def landReceipt (s : State) (o : Org) (d : VReg) (v : Nat) (tag : BitVec 4) : State :=
  s.schedRow (o.issue + 16) phLand (some o)
    (.landing { org := o, dests := [.v d (BitVec.ofNat 2048 v) (BitVec.allOnes 256) tag], flags := 0 })

/-- RCPTR at its sample cycle with a receipt. A parity failure takes the read back. -/
def rcptReadEvent (s : State) (o : Org) (ring : Nat) (x : RingRec) (d : VReg) : State :=
  let key := wsKey o.core ((s.ring o.core ring).base + 32 * x.unit)
  match s.cur.denied with
  | some den => s.collide o den
  | none =>
    match s.checkParity key (32 * x.n) with
    | (s, some u) => (s.modRing o.core ring fun r => { r with recs := x :: r.recs, rd := x.unit }).lateFault o (parityTrap u o.pc)
    | (s, none) => s.landReceipt o d (s.readAs clsC key (32 * x.n)) (if s.psnUnit key (32 * x.n) then 15 else 0)

/-- RCPTR when no receipt stood at RD at issue: one that has come since is read, else EMPTY lands (17 R324). Of two RCPTRs the one that
issued first takes the first receipt. -/
def rcptLateEvent (s : State) (o : Org) (ring : Nat) (d : VReg) : State :=
  let s := s.modRing o.core ring fun r => { r with claims := r.claims - 1 }
  let r := (s.ring o.core ring).skipPads
  match r.head? with
  | some x => (s.modRing o.core ring fun _ => r.consume x).rcptReadEvent o ring x d
  | none => (s.modRing o.core ring fun _ => r).landReceipt o d 0xFE 0

end State

/-- RCPTR: a commit point. -/
def execRcptr (h : Hd) (d : VReg) (ring : BitVec 2) (s : State) : Res :=
  issueOp h [] s fun s =>
    let c := s.cur.core
    let n := ring.toNat
    if !(s.ring c n).valid then s.raise 7 0x19 (ring.setWidth 32)
    else
      let r := (s.ring c n).skipPads
      match (if r.claims = 0 then r.head? else none) with
      | some x => ((s.modRing c n fun _ => r.consume x).schedAux (s.acc + 2) phSample (some s.here) (.rcptRead s.here n x d)).commit
      | none =>
        ((s.modRing c n fun _ => { r with claims := r.claims + 1 }).schedAux (s.acc + 2) phSample (some s.here) (.rcptLate s.here n d)).commit

/-! ## TLBW, TLBI, XLGET (17 R320) -/

/-- An entry word with no reserved bit set (17 R317). -/
def entryOk (e : Word) : Bool := e &&& 0xFFFFFFE00000FFE0 = 0 && (!entryBig e || e.toNat / 2 ^ 16 % 32 = 0)

def execTlbwW (h : Hd) (a b : SReg) (idx : BitVec 10) (s : State) : Res :=
  issueOp h [.s a, .s b] s fun s =>
    if (s.tlbShare s.myPart).2 ≤ idx.toNat || !entryOk (s.sreg b) then s.raise 7 0x19 (idx.setWidth 32)
    else s.onSlot fun s =>
      (s.sendBeat { s.beatOf 8 with dtier := 6, req := some (.tlbw (s.sreg a) (s.sreg b) idx.toNat) }).commit

def execTlbwRes (h : Hd) (a b : SReg) (s : State) : Res :=
  issueOp h [.s a, .s b] s fun s =>
    if !(s.part s.myPart).row.a40 then s.raiseFree 7 0x19
    else s.onSlot fun s =>
      let v := (s.sreg a).toNat
      (s.sendBeat { s.beatOf 8 with dtier := 6, req := some (.res (v % 2 ^ 16) (v / 2 ^ 16 % 2 ^ 7) ((s.sreg b).getLsbD 0)) }).commit

def execTlbi (h : Hd) (form : TlbiForm) (s : State) : Res :=
  let (srcs, idx) : List Src × Option Nat := match form with
    | .va a => ([.s a], none)
    | .idx i => ([], some i.toNat)
    | .all => ([], none)
  issueOp h srcs s fun s =>
    if idx.any fun i => (s.tlbShare s.myPart).2 ≤ i then s.raise 7 0x19 (BitVec.ofNat 32 (idx.getD 0))
    else s.onSlot fun s =>
      let va := match form with
        | .va a => s.sreg a
        | _ => 0
      s.sendBeat { s.beatOf 8 with dtier := 6, req := some (.tlbi form va) }

namespace State

/-- The berth at hand is named by XLB or SVB. -/
def namedBy (s : State) (p : Nat) (sv : Bool) : Bool :=
  let r := if sv then (s.part p).svb else (s.part p).xlb
  r.valid && r.berth = s.cur.berth && (s.queueOf p sv).any fun q => q.1 = s.cur.core

/-- XLGET at its sample cycle: a valid entry lands, its head advances and it is written to zero; otherwise 0 lands. -/
def xlReadEvent (s : State) (o : Org) (p : Nat) (sv : Bool) (d : SReg) : State :=
  let head := if sv then (s.part p).svHead else (s.part p).xlHead
  let base := if sv then (s.part p).svb.queue else (s.part p).xlb.queue
  let off := base + 8 * head
  match s.cur.denied with
  | some den => s.collide o den
  | none =>
    let key := wsKey o.core off
    match s.checkParity key 8 with
    | (s, some u) => s.lateFault o (parityTrap u o.pc)
    | (s, none) =>
      match s.psnFirst key 8 with
      | some u => s.lateFault o (poisonTrap u o.pc)
      | none =>
        let v := s.readAs clsC key 8
        if !v.testBit 49 then s.schedRow (o.issue + 16) phLand (some o) (.landing { org := o, dests := [.s d 0], flags := 0 })
        else
          let s := s.modPart p fun t => if sv then { t with svHead := (head + 1) % 16 } else { t with xlHead := (head + 1) % 16 }
          let s := s.schedAux s.acc phWrite (some o) (.xlZero o key)
          s.schedRow (o.issue + 16) phLand (some o) (.landing { org := o, dests := [.s d (BitVec.ofNat 64 v)], flags := 0 })

end State

/-- XLGET writes the entry that it has read to zero, in the cycle of its sample, through class C. Bytes that a landing of that cycle writes
stand, and the write takes the trap of a data-port write (13 R270). -/
def State.xlZeroEvent (s : State) (o : Org) (key : Nat) : State :=
  let s' := s.writeUntimed clsC key 8 0 (255 - s.lostBytes key 8 255) 0
  match s.lostPlace key 8 255 with
  | some k => s'.takeTrap o.core o.berth s.acc (s.lostInfo k o.pc)
  | none => s'

/-- XLGET: a commit point. -/
def execXlget (h : Hd) (d : SReg) (s : State) : Res :=
  issueOp h [] s fun s =>
    let p := s.myPart
    if s.namedBy p false then (s.schedAux (s.acc + 2) phSample (some s.here) (.xlRead s.here p false d)).commit
    else if s.namedBy p true then (s.schedAux (s.acc + 2) phSample (some s.here) (.xlRead s.here p true d)).commit
    else s.raise 0x16 3

end Sys2Proof.Machine
end

