-- ==== Sys2Proof/Machine/Journey.lean ====
section
/-! DEFINITION. Journeys: window, budget, parking, carry and resume, and JYLD, JBUD and PREQ (18 R326 to R340). -/

namespace Sys2Proof.Machine

def rowBerths (r : JourneyRow) : List Nat := (List.range 16).filter fun b => r.berths.getLsbD b
def rowTiles (r : JourneyRow) : List Nat := (List.range 4).filter fun a => r.tiles.getLsbD a

/-- Bytes of a save record of one tile (10 R214), and of a save area (18 R333). -/
def saveBytes : Nat := 16448
def areaBytes (r : JourneyRow) : Nat := 0x1040 + saveBytes * (rowTiles r).length

/-- The set of numbers as a mask. -/
def maskOf (l : List Nat) : Nat := l.foldl (fun m i => m ||| 2 ^ i) 0

namespace State

def journey (s : State) (p j : Nat) : JourneySt := (s.part p).journeys.get {} j

/-- The row of a journey in use. -/
def activeRow (s : State) (p j : Nat) : Option JourneyRow :=
  if (s.part p).running then (s.journeyRow p j).bind fun r => if r.valid then some r else none else none

/-- The placement of run `runs`: its index and core; one that is out of service is passed over (18 R328). -/
def placementOf (s : State) (p : Nat) (r : JourneyRow) (runs : Nat) : Option (Nat × Nat) :=
  let n := r.nplc + 1
  (List.range n).findSome? fun k =>
    let i := (runs + k) % n
    match s.physCore p (r.plc.getD i 0) with
    | some c => if s.posOut p (tierOf c) (meshIdx c) then none else some (i, c)
    | none => none

/-- The journey's berths are those of one of its placement cores; on the others they are asleep. -/
def placeJourney (s : State) (p j c : Nat) : State :=
  s.mapBerths fun c' _ x =>
    if x.journey = some (p, j) then { x with used := decide (c' = c), run := if c' = c then x.run else 0 } else x

/-- A berth takes its plan entry, which acts as a waymark (01 R26, R31, 07 R164). A fault of its MMAC that is still to be delivered stays
held: each is delivered once, at the first turn from its cycle on (10 R211). -/
def enterBerth (s : State) (c b : Nat) : State :=
  let s := s.modBerth c b fun x =>
    { x with pc := x.entry, mode := x.entryMode, intrap := false, pmode := false, pdef := false, run := 1, wait := .none, pstop := false,
             stops := [], branch := none, forceWm := true, backAt := none, endAt := none, overDue := false, slipTrap := false,
             undo := none }
  s.setWpc c b (s.berth c b).entry s.acc

/-- The island clock stands at v and runs, or is held while a berth handles a slip (06 R141). -/
def startItc (s : State) (p j v : Nat) : State :=
  let hold := (s.journeyBerths p j).any fun e => (s.berth e.1 e.2).slipTrap
  s.modJourney p j fun x => { x with itc := { x.itc with base := s.acc + 2 ^ 32 - v, held := if hold then some v else none } }

def stopItc (s : State) (p j : Nat) : State := s.modJourney p j fun x => { x with itc := { x.itc with held := some (s.itcOf x.itc) } }

/-! ## Fresh start and resume (18 R329) -/

/-- A fresh start at START. The stamp of a record that is poisoned there is not stated (A15). -/
def freshStart (s : State) (p j : Nat) (r : JourneyRow) : State :=
  match s.placementOf p r 0 with
  | none => s
  | some (i, c) =>
    let at_ := roomKey c (s.recOff c r.inh) + 0x28
    let s := s.countRead at_ 4
    let (w, s) := if s.tainted at_ 4 then s.freeWord else (BitVec.ofNat 64 (s.readAs clsM at_ 4), s)
    let stamp := w.setWidth 32
    let s := (s.placeJourney p j c).modJourney p j fun _ =>
      { state := 1, runs := 0, jstamp := stamp, itc := { base := s.acc }, pidx := i, core := some c }
    let s := (rowBerths r).foldl (fun s b => s.enterBerth c b) s
    s.schedRow (s.acc + r.budget) phMark none (.budgetEnd p j)

/-- The save header, when it is valid. -/
def saveHead (s : State) (c : Nat) (r : JourneyRow) : Option Nat :=
  let key := roomKey c r.saveoff
  let v := s.readAs clsM key 64
  let w (i : Nat) : Nat := v / 2 ^ (64 * i) % 2 ^ 64
  if s.tainted key 64 then none
  else if w 0 % 2 ^ 24 = 0x14A53 && w 0 / 2 ^ 30 % 4 = 0 && w 2 / 2 ^ 36 = 0 && v / 2 ^ 256 = 0 then some v else none

/-- The tiles to restore: the tile, its record's offset, header and B load; none when a record is not usable. -/
def tileRecs (s : State) (p j c : Nat) (r : JourneyRow) : Option (List (Nat × Nat × Nat × BLoad)) :=
  let ts := rowTiles r
  ((List.range ts.length).zip ts).mapM fun e =>
    let off := r.saveoff + 0x1040 + saveBytes * e.1
    let hdr := s.readAs clsM (roomKey c off) 64
    if s.tainted (roomKey c off) 64 || !headerOk hdr then none
    else match ({ s with cur := { s.cur with core := c } }).checkB (headerBh hdr) with
      | .error _ => none
      | .ok (q, row) => some (e.2, off, hdr,
          { org := none, task := some (.journey p j), core := c, origin := q.origin, fmt := q.fmt, cols := q.cols, row := row, per := sliceBytes q,
            first := 0, eff := 0 })

/-- The record of a tile's B operand is read as an instruction of the core would read it, and counted. -/
def countBRec (s : State) (c bh : Nat) : State :=
  { { s with cur := { s.cur with core := c } }.countRecord bh with cur := s.cur }

/-- What a resume reads of the save area over the core port, with its counts: the header and the state blocks, then each tile's header and the
record of its B operand; and whether all came over the bonds whole (20 R357, R358). A word that is poisoned or fails there makes the save area
unusable (A27). -/
def readSave (s : State) (c : Nat) (r : JourneyRow) : State × Bool :=
  let read (a : State × Bool) (off n : Nat) : State × Bool :=
    let (s, bond) := a.1.bondSpan c (roomKey c off) n
    (s.countRead (roomKey c off) n, a.2 && bond = 0)
  (List.range (rowTiles r).length).foldl (fun a i =>
    let off := r.saveoff + 0x1040 + saveBytes * i
    let a := read a off 64
    let hdr := a.1.readAs clsM (roomKey c off) 64
    (if a.1.tainted (roomKey c off) 64 || !headerOk hdr then a.1 else a.1.countBRec c (headerBh hdr), a.2))
    (read (s, true) r.saveoff (64 + 256 * (rowBerths r).length))

/-- Every state block is readable. -/
def blocksOk (s : State) (c : Nat) (r : JourneyRow) : Bool := !s.tainted (roomKey c (r.saveoff + 0x40)) (256 * (rowBerths r).length)

/-- A berth's state block, restored (18 R334). -/
def loadBlock (s : State) (c b off : Nat) : State :=
  let v := s.readAs clsM (roomKey c off) 256
  let w (o : Nat) : Nat := v / 2 ^ (8 * o) % 2 ^ 64
  let ts := w 8
  let entry (e : Nat) : AsyncTrap :=
    let o := 0x20 + 40 * e
    let cw := w o
    { info := { cause := BitVec.ofNat 8 cw, sub := BitVec.ofNat 8 (cw / 256), tinfo := BitVec.ofNat 32 (cw / 2 ^ 32), tipc := w (o + 8),
                tcoord := BitVec.ofNat 64 (w (o + 16)) },
      wsp := w (o + 24) }
  s.modBerth c b fun x =>
    { x with wcnt := BitVec.ofNat 32 (w 0), intrap := ts.testBit 0, pmode := ts.testBit 1, dbl := ts.testBit 2, aovf := ts.testBit 3,
             queue := (List.range (ts / 16 % 8)).map entry, pstop := (w 16).testBit 4 }

/-- A berth's state block as it is saved. -/
def blockOf (x : Berth) : Nat :=
  let entries := ((List.range 4).zip x.queue).foldl (fun m e =>
    m + 2 ^ (8 * (0x20 + 40 * e.1)) * (causeWord e.2.info true + 2 ^ 64 * (e.2.info.tipc + 2 ^ 64 * (e.2.info.tcoord.toNat + 2 ^ 64 * e.2.wsp)))) 0
  x.wcnt.toNat + 2 ^ 64 * tstatWord x + 2 ^ 128 * (16 * x.pstop.toNat) + entries

/-- The restores run one after another from this cycle on: the state, and RS. -/
def restoreTiles (s : State) (p j c : Nat) (l : List (Nat × Nat × Nat × BLoad)) : State × Nat :=
  l.foldl (fun (a : State × Nat) e =>
    let (s, n) := a
    let (t, off, hdr, b) := e
    let m : TileMove := { org := none, task := some (.journey p j), core := c, tile := t, off := off, first := 0, hdr := hdr }
    let s := (s.startRestore m b (s.acc + n)).modTile (clusterOf c) t fun k => { k with busy := true }
    (s, n + 265 + 64 * b.per / 512)) (s, 0)

/-- Takes the array for the journey, when it is free (18 R331). -/
def reserveArray (s : State) (c : Nat) (op : MacroOp) (tile : Nat) : State :=
  s.modCluster (clusterOf c) fun k => if k.array.isSome then k else { k with array := some { org := none, op := op, tile := tile } }

/-- Gives back an array that a journey holds. -/
def releaseArray (s : State) (c : Nat) : State :=
  if (s.cluster (clusterOf c)).array.any fun a => a.org.isNone && (a.op = .msave || a.op = .mrestore) then s.freeArray (clusterOf c) else s

/-- The save area cannot be used: the window goes unused, and the journey starts fresh in the next scan. -/
def refuseResume (s : State) (p j c : Nat) : State :=
  (s.failJourney p j c).modJourney p j fun x => { x with state := 0, runs := 0 }

/-- A resume at START. -/
def resumeJourney (s : State) (p j c : Nat) (r : JourneyRow) : State :=
  let (s, whole) := s.readSave c r
  match (if whole && s.blocksOk c r then s.saveHead c r else none), s.tileRecs p j c r with
  | some h, some ts =>
    let w (i : Nat) : Nat := h / 2 ^ (64 * i) % 2 ^ 64
    let bs := rowBerths r
    let idx := (s.placementOf p r ((s.journey p j).runs + 1)).bind fun e => if e.2 = c then some e.1 else none
    let s := s.modJourney p j fun x =>
      { x with state := 1, runs := x.runs + 1, jstamp := BitVec.ofNat 32 (w 1), failed := false, pidx := idx.getD x.pidx }
    let s := ((List.range bs.length).zip bs).foldl (fun s e => s.loadBlock c e.2 (r.saveoff + 0x40 + 256 * e.1)) s
    let s := bs.foldl (fun s b => if (w 2 / 2 ^ 16).testBit b then s.modBerth c b fun x => { x with run := 2 } else s) s
    let s := s.startItc p j (w 0 / 2 ^ 32)
    let s := if ts.isEmpty then s else s.reserveArray c .mrestore ((ts.head?.map fun e => e.1).getD 0)
    let (s, rs) := s.restoreTiles p j c ts
    let s := s.schedAux (s.acc + rs) phMark none (.journeyStart p j (w 2 % 2 ^ 16))
    s.schedRow (s.acc + r.budget) phMark none (.budgetEnd p j)
  | _, _ => s.refuseResume p j c

/-- The core at which the journey's window opens now. -/
def journeyCore (s : State) (p j : Nat) (r : JourneyRow) : Option Nat :=
  let x := s.journey p j
  match (if x.state = 3 then x.core else none) with
  | some c => if s.posOut p (tierOf c) (meshIdx c) then (s.placementOf p r 0).map fun e => e.2 else some c
  | none => (s.placementOf p r 0).map fun e => e.2

/-- The window of a journey opens. A tier that sleeps, or that has missed the edge, opens none. -/
def windowOpens (s : State) (p j : Nat) : State :=
  match s.activeRow p j with
  | none => s
  | some r =>
    match s.journeyCore p j r with
    | none => s
    | some c =>
      let x := s.journey p j
      if s.ttcOf c ≠ r.start || 2 ≤ (s.tier (tierOf c)).power.state then s
      else if x.state = 3 && x.core = some c then s.resumeJourney p j c r
      else if x.state = 0 || x.state = 3 then s.freshStart p j r
      else s

/-- Restores are done, and the stopped berths start. -/
def journeyStartEvent (s : State) (p j mask : Nat) : State :=
  let x := s.journey p j
  match x.core, s.activeRow p j with
  | some c, some r =>
    let s := (rowTiles r).foldl (fun s t => s.modTile (clusterOf c) t fun k => { k with busy := false }) (s.releaseArray c)
    if x.state = 1 then (rowBerths r).foldl (fun s b => if mask.testBit b then s.restart c b else s) s else s
  | _, _ => s

/-! ## Stop, save and parking (18 R331 to R334) -/

/-- Every berth of the journey is stopped or halted. -/
def journeyStill (s : State) (p j : Nat) : Bool :=
  (s.journeyBerths p j).all fun e => (s.berth e.1 e.2).run = 0 || (s.berth e.1 e.2).run = 2

/-- The journey is parked from this cycle on (step 1 of 18 R331 has begun). -/
def beginPark (s : State) (p j : Nat) : State :=
  match (s.journey p j).core, s.activeRow p j with
  | some c, some r =>
    let s := s.modJourney p j fun x => { x with state := 2, tiles := rowTiles r, saving := none, lastAt := s.acc }
    (s.reserveArray c .msave ((rowTiles r).head?.getD 0)).schedAux s.acc phEnd none (.journeySave p j)
  | _, _ => s

/-- A journey that is not to be saved ends its run: it starts fresh at its next window. -/
def dropJourney (s : State) (p j : Nat) : State := (s.stopItc p j).modJourney p j fun x => { x with state := 0, runs := 0 }

/-- The journey's berths that run are to stop, as budget end asks. -/
def stopJourney (s : State) (p j : Nat) : State :=
  (s.journeyBerths p j).foldl (fun s e =>
    if (s.berth e.1 e.2).run = 0 || (s.berth e.1 e.2).run = 2 then s
    else s.modBerth e.1 e.2 fun x => { x with stops := x.stops ++ [{ q := s.acc, sub := 1 }] }) s

/-- Budget end of a journey that runs. -/
def budgetEvent (s : State) (p j : Nat) : State :=
  let x := s.journey p j
  if x.state ≠ 1 then s
  else if s.ended.contains (.journey p j) then s.dropJourney p j
  else if x.failed then (s.stopJourney p j).dropJourney p j
  else (s.stopJourney p j).beginPark p j

/-- Starts the save of the next tile, when it is not BUSY and the array is the journey's (step 4). -/
def nextSave (s : State) (p j c : Nat) (r : JourneyRow) : State :=
  let x := s.journey p j
  let k := s.cluster (clusterOf c)
  match x.saving, x.tiles with
  | none, t :: _ =>
    if (k.tiles.get {} t).busy || k.array.any fun a => a.org.isSome || a.op ≠ .msave then s
    else
      let off := r.saveoff + 0x1040 + saveBytes * ((rowTiles r).length - x.tiles.length)
      let m : TileMove := { org := none, task := some (.journey p j), core := c, tile := t, off := off, first := s.acc + 19 }
      let s := (s.reserveArray c .msave t).modTile (clusterOf c) t fun k => { k with busy := true }
      (s.schedAux (s.acc + 19) phWrite none (.saveGroup m 0)).modJourney p j fun x => { x with saving := some (t, s.acc + 265) }
  | _, _ => s

/-- A save that is complete in this cycle. -/
def endSave (s : State) (p j c : Nat) : State :=
  match (s.journey p j).saving with
  | some (t, e) =>
    if e ≤ s.acc then
      (s.modTile (clusterOf c) t fun k => { k with busy := false }).modJourney p j fun x =>
        { x with saving := none, tiles := x.tiles.drop 1, lastAt := max x.lastAt e }
    else s
  | none => s

/-- The journey in a cycle between its stop and its parking. One that completes meanwhile saves no further tile, and gives the array back
once the save under way is over (18 R330). -/
def journeySaveEvent (s : State) (p j : Nat) : State :=
  match (s.journey p j).core, s.activeRow p j with
  | some c, some r =>
    if (s.journey p j).state ≠ 2 then
      let s := s.endSave p j c
      if (s.journey p j).saving.isSome then s.schedAux (s.acc + 1) phEnd none (.journeySave p j) else s.releaseArray c
    else
      let s := ((s.endSave p j c).reserveArray c .msave ((rowTiles r).head?.getD 0)).nextSave p j c r
      let x := s.journey p j
      if !s.journeyStill p j then
        (s.modJourney p j fun x => { x with lastAt := max x.lastAt (s.acc + 1) }).schedAux (s.acc + 1) phEnd none (.journeySave p j)
      else if x.tiles.isEmpty then s.schedRow (x.lastAt + 200) phEnd none (.journeyParked p j)
      else s.schedAux (s.acc + 1) phEnd none (.journeySave p j)
  | _, _ => s

/-- The save header. -/
def headOf (s : State) (p j c : Nat) (r : JourneyRow) : Nat :=
  let x := s.journey p j
  let bs := rowBerths r
  let stopped := bs.filter fun b => (s.berth c b).run = 0
  let halted := bs.filter fun b => (s.berth c b).run = 2
  let itc := match stopped with
    | b :: l => l.foldl (fun m b => min m (s.berth c b).witc) (s.berth c b).witc
    | [] => s.itcOf x.itc
  (0x14A53 + 2 ^ 24 * j + 2 ^ 28 * x.pidx + 2 ^ 32 * itc)
    + 2 ^ 64 * ((x.jstamp.toNat + 2 ^ 32 * (x.runs % 2 ^ 32))
      + 2 ^ 64 * ((maskOf stopped + 2 ^ 16 * maskOf halted + 2 ^ 32 * r.tiles.toNat) + 2 ^ 64 * (s.acc % 2 ^ 64)))

/-- The parked cycle: the header and the state blocks are written (step 5). -/
def parkEvent (s : State) (p j : Nat) : State :=
  match (s.journey p j).core, s.activeRow p j with
  | some c, some r =>
    if (s.journey p j).state ≠ 2 then s.releaseArray c
    else if (s.journey p j).failed || s.ended.contains (.journey p j) then (s.dropJourney p j).releaseArray c
    else
      let task := some (Task.journey p j)
      let bs := rowBerths r
      let s := s.writeRoom task (roomKey c r.saveoff) 64 (s.headOf p j c r) (ones 64) 0
      let s := ((List.range bs.length).zip bs).foldl (fun s e =>
        s.writeRoom task (roomKey c (r.saveoff + 0x40 + 256 * e.1)) 256 (blockOf (s.berth c e.2)) (ones 256) 0) s
      ((s.stopItc p j).modJourney p j fun x => { x with state := 3 }).releaseArray c
  | _, _ => s

/-! ## Carry (18 R328) -/

/-- E or W hops first, then N or S (11 R219). -/
def carryHops (a b : Nat) : List Nat :=
  let rep (n d : Nat) : List Nat := List.replicate n d
  rep (b % 4 - a % 4) 2 ++ rep (a % 4 - b % 4) 4 ++ rep (b / 4 - a / 4) 3 ++ rep (a / 4 - b / 4) 1

/-- Beats of a journey's carry: its workspaces, the save area and the carry span. -/
def carryLen (r : JourneyRow) : Nat := 128 * (rowBerths r).length + areaBytes r / 64 + r.clen / 64

/-- Beat i: into a room or not, and the offset there. -/
def carryPlace (s : State) (c : Nat) (r : JourneyRow) (i : Nat) : Bool × Nat :=
  let bs := rowBerths r
  if i < 128 * bs.length then (false, (s.berth c (bs.getD (i / 128) 0)).wsp + 64 * (i % 128))
  else
    let k := i - 128 * bs.length
    if k < areaBytes r / 64 then (true, r.saveoff + 64 * k) else (true, r.coff + 64 * (k - areaBytes r / 64))

/-- Poisoned bytes among 64 at a place, as a carry beat takes them. -/
def carryBytes (s : State) (key : Nat) (ws : Bool) : Nat :=
  if ws then (unitsOf 4 key 64).foldl (fun m u => if s.psnUnits.contains u || s.badUnits.contains u then m ||| (15 * 2 ^ (u - key)) else m) 0
  else (unitsOf 8 key 64).foldl (fun m u => if s.tainted u 8 then m ||| (255 * 2 ^ (u - key)) else m) 0

/-- The first journey from number j on that is to be carried: it, and its placement in the coming scan. -/
def carryNext (s : State) (p j : Nat) : Option (Nat × Nat × Nat) :=
  ((List.range 16).filter fun k => j ≤ k).findSome? fun k =>
    let x := s.journey p k
    match (if x.state = 3 then s.activeRow p k else none) with
    | none => none
    | some r => match s.placementOf p r (x.runs + 1) with
      | some (i, c) => if x.core = some c then none else some (k, i, c)
      | none => none

/-- The next carry of a partition begins in this cycle. -/
def carryFrom (s : State) (p j : Nat) : State :=
  match s.carryNext p j with
  | some (k, _, _) => s.schedRow s.acc phSample none (.journeyCarry p k)
  | none => s

/-- Beat i of a carry. A word of a workspace whose parity fails is repaired from its duplicate (01 R22); without one it goes poisoned. -/
def carryBeatEvent (s : State) (p j to_ i : Nat) : State :=
  match (s.journey p j).core, s.activeRow p j with
  | some c, some r =>
    let (up, off) := s.carryPlace c r i
    let src := if up then roomKey c off else wsKey c off
    let s := if up then s.countRead src 64 else (s.checkParity src 64).1
    let dst := if up then roomKey to_ off else wsKey to_ off
    let hops := carryHops (meshIdx c) (meshIdx to_)
    let eff := s.acc + (if up then 11 else 8) + 2 * hops.length
    let s := s.injectAct eff phWrite (carryOrg c p j s.acc) (.aux (.carryPut p j dst (s.readRaw src 64) (s.carryBytes src (!up))))
      (fwdLinks (tierOf c) (meshIdx c) hops up s.acc) 1
    if i + 1 < carryLen r then s.schedAux (s.acc + 1) phSample none (.carryBeat p j to_ (i + 1))
    else
      let s := s.schedAux eff phEnd none (.carryDone p j to_)
      match s.carryNext p (j + 1) with
      | some (k, _, _) => s.schedRow (s.acc + 1) phSample none (.journeyCarry p k)
      | none => s
  | _, _ => s

/-- A carry beat at its place. One that fails its check, or that its bank does not serve, fails the journey, and so does one that loses bytes to a higher write of its cycle (13 R270). -/
def carryPutEvent (s : State) (p j key data psn : Nat) : State :=
  let c := coreOfKey key
  let (hdr, flits) := s.flitUpset c
  let s := s.countFlits c flits 8
  let s := if hdr then s.modPosStat c fun k => { k with hdr := satInc 8 k.hdr } else s
  if hdr || s.cur.denied.isSome then s.failJourney p j c
  else
    let s' := s.writePlace none key 64 data (ones 64 - s.lostBytes key 64 (ones 64)) (psn ||| flitBytes flits 64)
    if flits = 0 && (s.lostPlace key 64 (ones 64)).isNone then s' else s'.failJourney p j c

/-- The last beat of a carry has taken effect. -/
def carryDoneEvent (s : State) (p j to_ : Nat) : State :=
  let x := s.journey p j
  if x.state ≠ 3 then s
  else if x.failed then s.modJourney p j fun x => { x with state := 0, runs := 0 }
  else match s.activeRow p j, x.core with
    | some r, some c =>
      let s := (rowBerths r).foldl (fun s b => s.modBerth to_ b fun y =>
        { y with slipTrap := (s.berth c b).slipTrap, lastPc := (s.berth c b).lastPc, witc := (s.berth c b).witc, held := (s.berth c b).held,
                 heldAt := (s.berth c b).heldAt, run := 0 }) s
      let idx := ((s.placementOf p r (x.runs + 1)).map fun e => e.1).getD 0
      (s.placeJourney p j to_).modJourney p j fun x => { x with core := some to_, pidx := idx }
    | _, _ => s

end State

/-! ## Rows -/

def execBudgetEnd (p j : Nat) (s : State) : Res := if p < 8 && j < 16 then .next (s.budgetEvent p j) else .fault .noSuchUnit
def execJourneyParked (p j : Nat) (s : State) : Res := if p < 8 && j < 16 then .next (s.parkEvent p j) else .fault .noSuchUnit
def execJourneyWindowOpen (p j : Nat) (s : State) : Res := if p < 8 && j < 16 then .next (s.windowOpens p j) else .fault .noSuchUnit

/-- JOURNEY_CARRY: the first beat of a journey's carry goes out in this cycle. -/
def execJourneyCarry (p j : Nat) (s : State) : Res :=
  if !(p < 8 && j < 16) then .fault .noSuchUnit
  else .next (match s.carryNext p j with
    | some (k, _, c) => if k = j then s.schedAux s.acc phSample none (.carryBeat p j c 0) else s
    | none => s)

/-! ## JYLD, JBUD, PREQ (18 R336 to R339) -/

/-- The stop of JYLD with its issue cycle as trap cycle. -/
def State.jyldEvent (s : State) (o : Org) (p j : Nat) : State :=
  let s := s.preempt o.core o.berth 4 o.issue
  if (s.journey p j).state = 1 && s.journeyStill p j then s.beginPark p j else s

/-- JYLD: a commit point, then the berth stops at issue. In the lower slot of a pair it waits for the other word, which may be a branch or
a wait. -/
def execJyld (h : Hd) (s : State) : Res :=
  issueOp h [] s fun s =>
    match s.me.journey with
    | none => s.raise 0xE 0x25
    | some (p, j) =>
      if s.words.isEmpty then s.commit.jyldEvent s.here p j
      else s.commit.schedAux s.acc phTurn (some s.here) (.settle s.here .jyld)

namespace State

/-- JBUD's values; 0 for a berth that is not a journey's. -/
def jbudWord (s : State) (f : Nat) : Nat :=
  match s.me.journey with
  | none => 0
  | some (p, j) =>
    let x := s.journey p j
    match f with
    | 0 => match s.journeyRow p j with
      | some r => r.start + r.budget - s.ttcOf s.cur.core
      | none => 0
    | 1 => x.jstamp.toNat
    | _ => x.runs % 2 ^ 32 + 2 ^ 32 * x.pidx + 2 ^ 34 * j

end State

def execJbud (h : Hd) (f : Fin 3) (d : SReg) (s : State) : Res :=
  issueOp h [] s fun s => s.landS (s.acc + 16) d (BitVec.ofNat 64 (s.jbudWord f.val))

/-- The core and berths that a PREQ names, after its check. -/
def preqOp (h : Hd) (a b : SReg) (s : State) (f : State → Nat → List Nat → State) : Res :=
  issueOp h [.s a, .s b] s fun s =>
    let bs := (List.range 16).filter fun i => (s.sreg b).getLsbD i
    match s.physCore s.myPart ((s.sreg a).toNat % 128) with
    | none => s.raise 7 0x1A ((s.sreg a).setWidth 32)
    | some c =>
      if bs.any fun i => (s.berth c i).journey.isSome then s.raise 7 0x1A ((s.sreg a).setWidth 32) else f s c bs

def execPreqStop (h : Hd) (d a b : SReg) (s : State) : Res :=
  preqOp h a b s fun s c bs =>
    let m := maskOf (bs.filter fun i => (s.shown c i).run ≠ 0)
    (s.landS (s.acc + 16) d (BitVec.ofNat 64 m)).schedAux (s.acc + 128) phSample none (.preqStop c (BitVec.ofNat 16 m))

/-- The stop request at q. A berth that is stopped or halted is not stopped again (18 R335). -/
def State.preqStopEvent (s : State) (c : Nat) (m : BitVec 16) : State :=
  (List.range 16).foldl (fun s b =>
    if !m.getLsbD b || (s.berth c b).run = 0 || (s.berth c b).run = 2 then s
    else s.modBerth c b fun x => { x with pstop := true, stops := x.stops ++ [{ q := s.acc, sub := 2 }] }) s

def execPreqRel (h : Hd) (d a b : SReg) (s : State) : Res :=
  preqOp h a b s fun s c bs =>
    let m := maskOf (bs.filter fun i => (s.berth c i).pstop)
    bs.foldl (fun s i => s.schedRow (s.acc + 128) phSample none (.berthRelease ⟨c, i⟩)) (s.landS (s.acc + 16) d (BitVec.ofNat 64 m))

end Sys2Proof.Machine
end

