-- ==== Sys2Proof/Machine/Plan.lean ====
section
/-! DEFINITION. Partitions and plans: the plan port, the loader's checks, load, activation, stop, spare sites and fallback variants (01
R31, 09 R199, R200, 18 R341 to R347). -/

namespace Sys2Proof.Machine

/-! ## The loader's checks (18 R343, R344) -/

/-- Cycles of n ns at a clock step. -/
def cyclesOf (ns step : Nat) : Nat := 552 * ns / gtStep step

/-- No two elements stand in the relation. -/
def noneMeet {α : Type} (f : α → α → Bool) : List α → Bool
  | [] => true
  | a :: l => l.all (fun b => !f a b) && noneMeet f l

/-- [a, b) and [c, d) meet; an empty one meets none. -/
def spansMeet (a b c d : Nat) : Bool := max a c < min b d

/-- Latency of a journey's pre-emption (18 R332). -/
def preemptLatency (r : JourneyRow) : Nat := 856 + 265 * (rowTiles r).length

def validJourneys (l : List JourneyRow) : List JourneyRow := l.filter fun r => r.valid

/-- Cycles of a plan's carries, one after another, with the last beat's flight of at most 6 hops (18 R328). -/
def carryCycles (l : List JourneyRow) : Nat :=
  let n := ((validJourneys l).map fun r => if r.nplc = 0 then 0 else State.carryLen r).sum
  if n = 0 then 0 else n + 23

/-- ERR 0x04: a slot map that names a sender the partition does not have, or gives one a position that is not the partition's (12 R246, 18
R341, A28). -/
def slotsOk (row : PartRow) (pl : Plan) : Bool :=
  let tiers := ((List.range 6).filter fun t => row.clmask.toNat / 2 ^ (4 * t) % 16 ≠ 0).length
  pl.slotmaps.all fun m => m.length ≤ 64 && ((List.range m.length).zip m).all fun e =>
    e.2 = 7 || ((e.2 < tiers || e.2 = 6) && row.slots.getLsbD e.1)

/-- ERR 0x04: courier windows that overlap in TTC (17 R312). -/
def windowsOk (pl : Plan) : Bool :=
  noneMeet (fun a b : WindowRow => spansMeet a.start a.fin b.start b.fin) (pl.windows.filter fun w => w.valid)

/-- ERR 0x05: owner-map rows that overlap, or with START ≥ END (09 R189). -/
def ownersOk (l : List (Nat × List OwnerRow)) : Bool :=
  l.all fun e =>
    let rows := e.2.filter fun r => r.valid
    rows.all (fun r => r.start < r.fin) && noneMeet (fun a b : OwnerRow => spansMeet a.start a.fin b.start b.fin) rows

/-- ERR 0x06 for a journey table: a window with its latency ends by L, and the latency within PRELAT (18 R331, R332). -/
def journeysOk (pl : Plan) (prelat : Nat) (l : List JourneyRow) : Bool :=
  (validJourneys l).all fun r => r.start + r.budget + preemptLatency r ≤ pl.len && preemptLatency r ≤ prelat

/-- ERR 0x06: L fits the period at f_min with the edge beat, the carries and the rollback (06 R137, R138, 16 R288, 18 R328, 20 R364). -/
def timingOk (pl : Plan) (per prelat : Nat) : Bool :=
  let c := cyclesOf per pl.fmin
  let tables := pl.journeys :: pl.variants.map fun v => v.journeys
  let carry := (tables.map carryCycles).foldl max 0
  pl.len % 16 = 0 && pl.len + 16 ≤ c && pl.len + carry + 22 ≤ c && pl.len + 4112 + carry ≤ c
    && tables.all fun l => journeysOk pl prelat l

def validStreams (l : List StreamRow) : List StreamRow := l.filter fun r => r.valid
def validOuts (l : List OutRow) : List OutRow := l.filter fun r => r.valid

/-- The plans in force of the other partitions: those that run or are stopped, and those staged. -/
def State.otherPlans (s : State) (p : Nat) : List Plan :=
  s.parts.flatMap fun e => if e.1 = p then [] else
    e.2.plan.toList ++ (if e.2.plstat = 2 || e.2.plstat = 3 then e.2.staged.toList else [])

/-- ERR 0x07: the stream map and the output map (16 R295, R299). An entry or a record overlaps none of its own plan, nor one of another
partition in the map that they share. -/
def streamsOk (others : List Plan) (pl : Plan) : Bool :=
  let rows := validStreams pl.streams
  let meet (a b : StreamRow) : Bool := spansMeet a.offset (a.offset + a.length) b.offset (b.offset + b.length)
  rows.all (fun r => 1 ≤ r.length && r.length ≤ 1500 && r.offset + r.length ≤ 2 ^ 16)
    && noneMeet meet rows && others.all fun o => (validStreams o.streams).all fun b => rows.all fun a => !meet a b

/-- A record that lies wholly in a frame's payload, and in the image of 64 KiB (00 R4). -/
def outsOk (others : List Plan) (pl : Plan) : Bool :=
  let rows := validOuts pl.outrecs
  let frames := pl.frames.filter fun f => f.valid
  let meet (a b : OutRow) : Bool := spansMeet a.offset (a.offset + a.length) b.offset (b.offset + b.length)
  rows.all (fun r => r.offset % 8 = 0 && 1 ≤ r.length && r.length ≤ 1500 && r.offset + r.length ≤ 2 ^ 16
      && frames.any fun f => f.payoff ≤ r.offset && r.offset + r.length ≤ f.payoff + f.paylen)
    && noneMeet meet rows && others.all fun o => (validOuts o.outrecs).all fun b => rows.all fun a => !meet a b

/-- A delivery row names an entry of the map, and a landing within the room. -/
def deliversOk (pl : Plan) : Bool :=
  pl.delivers.all fun d => !d.valid || (d.roomoff % 64 = 0 && (pl.streams[d.entry]?).any fun r =>
    r.valid && d.roomoff + 64 * (1 + (r.length + 63) / 64) ≤ 2 ^ 24)

/-- ERR 0x08: table sizes and the partition's shares (16 R295, R299, 17 R312, 18 R326, R341). -/
def quotaOk (row : PartRow) (pl : Plan) : Bool :=
  pl.streams.length ≤ row.smcnt && pl.outrecs.length ≤ row.omcnt && pl.delivers.length ≤ 64 && pl.frames.length ≤ 64
    && pl.windows.length ≤ 64 && pl.slotmaps.length ≤ 8 && pl.variants.length ≤ 4 && pl.journeys.length ≤ 16
    && pl.cores.all (fun c => c.phases.length ≤ 16 && c.rings.length ≤ 4 && c.berths.all fun b => b.isl < 64)
    && pl.owners.all fun e => e.2.length ≤ 32

/-- The Qbv window of a frame's class is open at its release in the present gate list (16 R300). -/
def State.txOk (s : State) (pl : Plan) : Bool :=
  pl.frames.all fun f => !f.valid || State.windowOpen (s.ports.get {} f.port) (552 * (s.seq.next + f.txoff)) f.tclass

/-- ERR 0x03: the plan's cores, clusters, targets and placements lie in the partition. -/
def State.shapeOk (s : State) (p : Nat) (pl : Plan) : Bool :=
  let tierOk (t m : Nat) : Bool := (s.physTier p t).any fun q => s.inPart p (coreAtMesh q m)
  let coresOk (l : List CorePlan) : Bool := l.all fun c => (s.physCore p c.core).isSome && c.berths.all fun b => b.berth < 16
  let ownOk (l : List (Nat × List OwnerRow)) : Bool := l.all fun e => (s.physCore p (4 * e.1)).isSome
  let plcOk (l : List JourneyRow) : Bool := (validJourneys l).all fun r =>
    (List.range (r.nplc + 1)).all fun k => (s.physCore p (r.plc.getD k 96)).isSome
  coresOk pl.cores && ownOk pl.owners && plcOk pl.journeys
    && (pl.windows.all fun w => !w.valid || tierOk w.tier w.pos) && (pl.delivers.all fun d => !d.valid || tierOk d.tier d.pos)
    && pl.variants.all fun v => coresOk v.cores && ownOk v.owners && plcOk v.journeys

/-- PLSTAT.ERR of a verification; 0 when the plan is accepted. Of several refusals the lowest code is given. -/
def State.planErr (s : State) (p : Nat) (pl : Plan) : Nat :=
  let row := (s.part p).row
  let others := s.otherPlans p
  if !pl.sigOk then 1
  else if pl.version < s.fuses.plan then 2
  else if !(row.valid && s.shapeOk p pl) then 3
  else if !(slotsOk row pl && windowsOk pl) then 4
  else if !(ownersOk pl.owners && pl.variants.all fun v => ownersOk v.owners) then 5
  else if !timingOk pl (pl.period.getD s.seq.per) row.prelat then 6
  else if !(streamsOk others pl && outsOk others pl && deliversOk pl && s.txOk pl) then 7
  else if !quotaOk row pl then 8
  else if !pl.reservedOk then 9
  else 0

/-! ## The plan port (18 R344) -/

namespace State

def planWork (s : State) : Nat × State := (s.courier.work, { s with courier := { s.courier with work := s.courier.work + 1 } })

/-- The end of a verification. -/
def verifyEvent (s : State) (p : Nat) : State :=
  let t := s.part p
  if t.plstat ≠ 1 then s
  else match t.staged with
    | none => s.setPart p { t with plstat := 0 }
    | some pl =>
      let e := s.planErr p pl
      if e = 0 then s.setPart p { t with plstat := 2, plerr := 0 } else s.setPart p { t with plstat := 0, plerr := e, staged := none }

/-- F_MIN as a clock step: the fastest f_min of the running plans (22 R383). -/
def fMin (s : State) : Nat :=
  s.parts.foldl (fun m e => match (if e.2.running then e.2.plan else none) with
    | some pl => min m pl.fmin
    | none => m) 4

/-- f_min lies above the current step, or above one that is active or queued (22 R383). -/
def tooSlow (s : State) (fmin : Nat) : Bool :=
  fmin < s.freq.cur || (s.freq.act.any fun a => fmin < a.1) || s.freq.queue.any fun q => fmin < q

/-- PLSTAT.STATE when a command is cancelled: the running plan's, or stopped, or idle. -/
def restState (t : Part) : Nat := if t.running then 4 else if t.plan.isSome then 5 else 0

end State

/-- STAGE: the image is verified; a verification or load under way is not disturbed. With no firmware running the plan port is closed (22
R389). ERR keeps the last refusal until the outcome. -/
def State.stageCmd (s : State) (p : Nat) (img : Plan) : State :=
  let t := s.part p
  if s.boot.fw.isNone || t.plstat = 1 || t.plstat = 3 || t.activateReq then s
  else
    let (n, s) := s.planWork
    let s := s.modPart p fun t => { t with plstat := 1, staged := some img }
    s.schedAux (s.acc + Config.verifyDelay n) phEnd none (.planVerify p)

/-- PLCMD 1 at the port: the image that PLADDR and PLLEN name (A10); where none lies there, no signature is valid. -/
def State.stageAt (s : State) (p : Nat) : State :=
  let t := s.part p
  match s.planImages.find? fun e => e.1 = (t.pladdr, t.pllen) with
  | some (_, img) => s.stageCmd p img
  | none =>
    if s.boot.fw.isNone || t.plstat = 1 || t.plstat = 3 || t.activateReq then s
    else s.setPart p { t with plstat := 0, plerr := 1, staged := none }

/-- PLCMD_STAGE. -/
def execPlcmdStage (p : Nat) (img : Plan) (s : State) : Res := if p < 8 then .next (s.stageCmd p img) else .fault .noSuchUnit

/-- PLAN_VERIFY_DONE. -/
def execPlanVerifyDone (p : Nat) (s : State) : Res := if p < 8 then .next (s.verifyEvent p) else .fault .noSuchUnit

/-- PLCMD_ACTIVATE, from state 2: the stop comes at the next edge. A plan that the clock is too slow for is refused. -/
def State.activateCmd (s : State) (p : Nat) : State :=
  let t := s.part p
  match (if t.plstat = 2 then t.staged else none) with
  | none => s
  | some pl => if s.tooSlow pl.fmin then s.setPart p { t with plerr := 6 } else s.setPart p { t with activateReq := true }

def execPlcmdActivate (p : Nat) (s : State) : Res := if p < 8 then .next (s.activateCmd p) else .fault .noSuchUnit

/-- PLCMD_ABORT cancels states 1 to 3. -/
def State.abortCmd (s : State) (p : Nat) : State :=
  let t := s.part p
  if 1 ≤ t.plstat && t.plstat ≤ 3 then
    s.setPart p { t with plstat := restState t, staged := none, activateReq := false, loaded := false }
  else s

def execPlcmdAbort (p : Nat) (s : State) : Res := if p < 8 then .next (s.abortCmd p) else .fault .noSuchUnit

/-- PLCMD_STOP. -/
def State.stopCmd (s : State) (p : Nat) : State :=
  if (s.part p).running then s.modPart p fun t => { t with stopReq := true } else s

def execPlcmdStop (p : Nat) (s : State) : Res := if p < 8 then .next (s.stopCmd p) else .fault .noSuchUnit

/-! ## Load (01 R31, 02 R39) -/

namespace State

/-- E96 cores of a partition. -/
def coresOf (s : State) (p : Nat) : List Nat := (List.range 96).filter fun c => s.inPart p c

/-- Takes every byte out of memory whose place satisfies f; any write to a line clears its SENT bit (23 R404). -/
def eraseMem (s : State) (f : Nat → Bool) : State :=
  { s with mem := s.mem.filter fun e => !f e.1, rsySent := s.rsySent.filter fun l => !((List.range 64).any fun i => f (l + i)) }

def putBytes (s : State) (l : List (Nat × Byte)) : State :=
  { s with mem := l.foldl (fun m e => Memory.put m e.1 e.2) s.mem,
           rsySent := s.rsySent.filter fun k => !(l.any fun e => k ≤ e.1 && e.1 < k + 64) }

/-- The marks of all units and words that satisfy f are good, and nothing is undrained there. -/
def clearMarks (s : State) (f : Nat → Bool) : State :=
  { s with badUnits := s.badUnits.filter fun u => !f u, psnUnits := s.psnUnits.filter fun u => !f u,
           ecc := s.ecc.filter fun e => !f e.1, undrained := s.undrained.filter fun u => !f u.key }

/-- Writes the code store of a logical core: the plan's lines, with a variant's in their place, and fill lines. -/
def loadCode (s : State) (c l : Nat) (lines vlines : List (Nat × BitVec 512)) : State :=
  let s := s.eraseMem fun k => spaceOf k = .code && coreOfKey k = c
  let mine (t : List (Nat × BitVec 512)) := t.filter fun e => e.1 / 4096 = l
  (mine lines ++ mine vlines).foldl (fun s e =>
    { s with mem := Memory.write s.mem (codeKey c (e.1 % 4096 * 64)) 64 e.2.toNat (ones 64) }) s

/-- Writes the workspace store of a core: the reset values of 01 R14 in each workspace, then the image's bytes, with parity good and the
reserved bits of 01 R17, R18 and R21 as they read. -/
def loadStore (s : State) (c : Nat) (wsps : List Nat) (image : List (Nat × Byte)) : State :=
  let mine (k : Nat) : Bool := spaceOf k = .ws && coreOfKey k = c
  let s := s.eraseMem fun k => mine k && wsps.any fun w => wsKey c w ≤ k && k < wsKey c w + 0x2000
  let s := s.putBytes (wsps.map fun w => (wsKey c w + 8, 1))
  wsps.foldl (fun s w => s.enterWs c w) ((s.putBytes (image.filter fun e => mine e.1)).clearMarks mine)

/-- The image's bytes by key. -/
def imageKeys (s : State) (p : Nat) (pl : Plan) : List (Nat × Byte) :=
  pl.image.filterMap fun e => (s.placeKey p e.1).map fun k => (k, e.2)

/-- The tables of a core: a variant's in place of the base plan's. -/
def corePlanOf (pl : Plan) (v : Option Variant) (l : Nat) : Option CorePlan :=
  match (v.bind fun v => v.cores.find? fun c => c.core = l) with
  | some c => some c
  | none => pl.cores.find? fun c => c.core = l

/-- Workspaces of a core's berths in a plan. -/
def planWsps (cp : Option CorePlan) : List Nat := (cp.map fun c => c.berths.map fun b => b.wsp).getD []

/-- Logical core of an E96 core of a partition. -/
def logCore (s : State) (p c : Nat) : Nat := 16 * s.logTier p (tierOf c) + c % 16

/-- Code and workspace store of one core, as at plan activation. -/
def loadCore (s : State) (p : Nat) (pl : Plan) (v : Option Variant) (image : List (Nat × Byte)) (c : Nat) : State :=
  let l := s.logCore p c
  (s.loadCode c l pl.lines ((v.map fun v => v.lines).getD [])).loadStore c (planWsps (corePlanOf pl v l)) image

/-- The load's writes: code stores, workspaces, rooms, B stores and the default images. -/
def loadEvent' (s : State) (p : Nat) : State :=
  let t := s.part p
  match (if t.plstat = 3 then t.staged else none) with
  | none => s
  | some pl =>
    let image := s.imageKeys p pl
    let s := (s.coresOf p).foldl (fun s c =>
      (s.loadCore p pl none image c).modCore c fun k => { k with refetch := [], badLines := [], deadLines := [] }) s
    let rest := image.filter fun e => spaceOf e.1 = .room || spaceOf e.1 = .bs
    let words := rest.map fun e => e.1 / 8
    let s := (s.putBytes rest).clearMarks fun k => (spaceOf k = .room || spaceOf k = .bs) && words.contains (k / 8)
    let s := s.eraseMem fun k => [false, true].any fun o => defKey p o 0 ≤ k && k < defKey p o 0 + 2 ^ 16
    let s := s.putBytes (pl.defIn.map fun e => (defKey p false e.1, e.2))
    let s := s.putBytes (pl.defOut.map fun e => (defKey p true e.1, e.2))
    s.modPart p fun t => { t with loaded := true }

end State

/-- PLAN_LOAD_DONE. -/
def execPlanLoadDone (p : Nat) (s : State) : Res := if p < 8 then .next (s.loadEvent' p) else .fault .noSuchUnit

/-! ## Stop and activation at an edge (18 R344, R345) -/

namespace State

/-- Berths of a partition become asleep, its MMACs stop and its journeys are dropped. -/
def stopPlan (s : State) (p : Nat) : State :=
  let s := s.stopMmacs fun o => s.inPart p o.core
  let s := s.mapBerths fun c _ x => if s.inPart p c then { x with used := false, run := 0, wait := .none, held := [], stops := [], overDue := false } else x
  s.modPart p fun t => { t with running := false, stopReq := false, journeys := [] }

/-- The edge cycle of a partition with a stop or an activation asked for. A plan that is to be replaced has its copies ended (17 R316). -/
def stopAtEdge (s : State) (p : Nat) : State :=
  let t := s.part p
  if t.activateReq then
    let s := (s.stopPlan p).endCopies p
    let (n, s) := s.planWork
    (s.modPart p fun t => { t with activateReq := false, plstat := 3 }).schedAux (s.acc + Config.loadDelay n) phEnd none (.planLoad p)
  else if t.stopReq then (s.stopPlan p).modPart p fun t => { t with plstat := 5 }
  else s

/-- In b_E a loaded plan's hall tables and images come into force: both halves hold the default images, with SEL = 0 and VOID stamps. -/
def activateHall (s : State) (p : Nat) : State :=
  let t := s.part p
  match (if t.loaded && t.plstat = 3 then t.staged else none) with
  | none => s
  | some pl =>
    let s := s.eraseMem fun k => [false, true].any fun o => [false, true].any fun h => imgKey p o h 0 ≤ k && k < imgKey p o h 0 + 2 ^ 16
    let s := s.putBytes (pl.defIn.flatMap fun e => [(imgKey p false false e.1, e.2), (imgKey p false true e.1, e.2)])
    let s := s.putBytes (pl.defOut.flatMap fun e => [(imgKey p true false e.1, e.2), (imgKey p true true e.1, e.2)])
    let s := s.clearMarks fun k => [false, true].any fun o => imgKey p o false 0 ≤ k && k < imgKey p o true 0 + 2 ^ 16
    let s := match pl.period with
      | some n => if 31250 ≤ n && n ≤ 100000000 then { s with seq := { s.seq with per := n } } else s
      | none => s
    s.modPart p fun t =>
      { t with plan := some pl, staged := none, plvar := 0, loaded := false, activating := true, streams := [], outs := [], delivered := [],
               slotEntry := 0, slotPend := none, xlb := pl.xlb, svb := pl.svb, xlHead := 0, xlTail := 0, svHead := 0, svTail := 0, msgs := [] }

/-- A berth as the plan gives it; one that the plan leaves asleep has a workspace alone (01 R31, 08 R180). -/
def berthOf (live : Bool) (b : BerthPlan) : Berth :=
  { wsp := b.wsp, isl := b.isl, win0 := b.win0 &&& winMask, win1 := b.win1 &&& winMask, uword := b.uword, used := live && !b.asleep,
    entry := b.entry, entryMode := b.super, mode := b.super, run := 0 }

/-- The 16 berths of a core under a plan: one that it does not use is asleep. R31 gives such a berth no WSP: the model gives 0, so block 0 of
the store counts as a workspace (A54, DESIGN CHOICE). -/
def berthsOf (live : Bool) (l : List BerthPlan) : Tbl Berth :=
  let asleep : Berth := { run := 0 }
  (List.range 16).map fun b => (b, ((l.find? fun x => x.berth = b).map (berthOf live)).getD asleep)

def ringOf (r : RingRow) : Ring := { base := r.base, sizem1 := r.sizem1, valid := r.valid }

/-- FREE of a core's senders: 8, or 15 while the receiving tier sleeps, until the cycle w of its wake (12 R252, R263). -/
def freshSenders (s : State) (c : Nat) : State :=
  let gone (w : TierPower) : Bool := w.state = 2 || (w.state = 3 && s.acc < w.wakeAt)
  let free (dn : Bool) : Nat := match s.stairTo c dn with
    | some r => if gone (s.tier (tierOf r)).power then 15 else 8
    | none => 8
  (s.setSender c false { free := free false }).setSender c true { free := free true }

/-- A core's tables and registers as the plan gives them; its counters stay, and lines under refetch or without a readable room copy stay so
until a plan load writes the room anew (02 R38). In a DEGRADED cluster MXEN is 0 and no berth runs (09
R200). -/
def applyCore (s : State) (c : Nat) (cp : Option CorePlan) : State :=
  let k := s.core c
  let base : Core :=
    { stat := k.stat, owner := k.owner, foldEnd := k.foldEnd, copies := k.copies, dtcause := k.dtcause, dtipc := k.dtipc,
      dbgmark := k.dbgmark, mapAt := k.mapAt, refetch := k.refetch, badLines := k.badLines, deadLines := k.deadLines,
      berths := berthsOf false [] }
  let live := (s.cluster (clusterOf c)).health ≠ 2
  match cp with
  | none => s.setCore c base
  | some p =>
    let ym := (List.range 16).foldl (fun m b =>
      if p.yieldm.getLsbD b && p.berths.any (fun x => x.berth = b && x.isl ≠ 0) then m + 2 ^ b else m) 0
    let isls := (p.berths.filterMap fun b => if b.isl = 0 then none else some b.isl).eraseDups
    let clocks := isls.foldl (fun (m : Tbl Island) i => m.put i { base := s.acc }) []
    let s := s.setCore c { base with
      islands := clocks, berths := berthsOf live p.berths, tvec := p.tvec, yieldm := BitVec.ofNat 16 ym, yieldNow := BitVec.ofNat 16 ym,
      trtb := p.trtb.toNat % 2 ^ 24 / 2 ^ 14 * 2 ^ 14, owned := s.ownedOk c (p.mxown.setWidth 32),
      mxen := p.mxown.getLsbD 32 && live, dbgctl := p.dbgctl &&& 0x1F, dbgaddr := p.dbgaddr &&& 0x7FFFF,
      phases := p.phases, fifoUp := { base := p.fifoUp }, fifoDn := { base := p.fifoDn },
      rings := ((List.range p.rings.length).zip p.rings).map fun e => (e.1, ringOf e.2) }
    s.freshSenders c

/-- The berths of a journey are asleep until its window opens; on each of its placements they belong to it (18 R326). -/
def markJourneys (s : State) (p : Nat) (rows : List JourneyRow) : State :=
  let cores (r : JourneyRow) : List Nat := (List.range (r.nplc + 1)).filterMap fun k => s.physCore p (r.plc.getD k 96)
  let of (c b : Nat) : Option (Nat × Nat) :=
    (((List.range rows.length).zip rows).find? fun e => e.2.valid && e.2.berths.getLsbD b && (cores e.2).contains c).map fun e => (p, e.1)
  s.mapBerths fun c b x =>
    if !s.inPart p c then x
    else match of c b with
      | none => { x with journey := none }
      | some pj => if x.journey = some pj then x else { x with journey := some pj, used := false, run := 0 }

/-- Owner maps of the plan, with a variant's in their place (09 R189). -/
def applyOwners (s : State) (p : Nat) (l : List (Nat × List OwnerRow)) : State :=
  l.foldl (fun s e => match s.physCore p (4 * e.1) with
    | some c => s.modCluster (clusterOf c) fun k => { k with owners := e.2 }
    | none => s) s

/-- Clusters of a partition. -/
def clustersOf (s : State) (p : Nat) : List Nat := (List.range 24).filter fun k => (s.clmask p).getLsbD k

/-- Sites of a cluster that have failed. -/
def failedSites (x : Cluster) : List Nat := (if x.outsite < 7 then [x.outsite] else []) ++ x.lost.filter (· ≠ x.outsite)

/-- A plan activation ends DEGRADED where the repair has left at most one failed site, and the MXE and the B store work (09 R200). -/
def reviveCluster (s : State) (k : Nat) : State :=
  let x := s.cluster k
  if x.health ≠ 2 || x.engine then s
  else match failedSites x with
    | [] => s.modCluster k fun c => { c with health := 0, outsite := 7, lost := [] }
    | [i] => s.modCluster k fun c => { c with health := (i < 4 : Bool).toNat, outsite := i, lost := [] }
    | _ => s

/-- A partition's FENC comes into force: what its far memory holds was written under the setting before (22 R392). -/
def applyFenc (s : State) (p : Nat) : State :=
  if (s.part p).fenc = (s.part p).row.fenc then s
  else { s.modPart p fun t => { t with fenc := t.row.fenc } with farOld := s.farOld ++ (s.part p).farSpan }

/-- The activation edge in the tiers: tables, zeroed tiles and engine state, no landings pending. -/
def activateCores (s : State) (p : Nat) (n : BitVec 32) : State :=
  match (if (s.part p).activating then (s.part p).plan else none) with
  | none => s
  | some pl =>
    let mine (e : Ev) : Bool := e.org.any fun (o : Org) => s.inPart p o.core
    let s := { s with agenda := s.agenda.filter fun e => !mine e }
    let s := (s.clustersOf p).foldl (fun s k => (s.reviveCluster k).modCluster k fun c =>
      { c with tiles := [], array := none, drain := none, mmac := none, owners := [] }) s
    let s := s.applyOwners p pl.owners
    let s := (s.coresOf p).foldl (fun s c => s.applyCore c (corePlanOf pl none (s.logCore p c))) s
    let s := (s.markJourneys p pl.journeys).applyFenc p
    s.modPart p fun t => { t with activating := false, running := true, plstat := 4, ascn := n, journeys := [], gazMask := t.row.clmask }

/-! ## DEGRADED clusters and variants (09 R200, 18 R346) -/

/-- DEGRADED clusters of a partition. -/
def degraded (s : State) (p : Nat) : List Nat := (s.clustersOf p).filter fun k => (s.cluster k).health = 2

/-- Variant v of the plan (0 the base plan) covers the DEGRADED clusters. -/
def covers (s : State) (p : Nat) (pl : Plan) (v : Nat) : Bool :=
  (s.degraded p).all fun k => v ≠ 0 && ((pl.variants[v - 1]?).any fun x => x.dmask.getLsbD k)

/-- The lowest variant that covers them. -/
def fitVariant (s : State) (p : Nat) (pl : Plan) : Option Nat :=
  ((List.range pl.variants.length).map fun i => i + 1).find? fun v => s.covers p pl v

/-- An effect under way in a core's own workspace store or registers: a site that is loaded anew has none pending (01 R31, 09 R199). -/
def coreEffect (c : Nat) (e : Ev) : Bool :=
  match e.act with
  | .row (.storeEffect w) => spaceOf w.key = .ws && coreOfKey w.key = c
  | .aux (.regWrite k ..) | .aux (.yieldWrite k _) => k = c
  | .row (.landing _) | .aux (.load ..) | .aux (.roomLoad ..) | .aux (.atomic ..) | .aux (.vload ..) | .aux (.vsegs ..) | .aux (.tepc ..)
  | .aux (.stackLoad ..) | .aux (.stairRead ..) | .aux (.pilLoad ..) | .aux (.rcptRead ..) | .aux (.rcptLate ..) | .aux (.xlRead ..) =>
    e.org.any fun (o : Org) => o.core = c
  | _ => false

def dropPending (s : State) (c : Nat) : State := { s with agenda := s.agenda.filter fun e => !coreEffect c e }

/-- A fetch line of the base plan, or of a variant of it. -/
def planLine (pl : Plan) (v : Option Variant) (k : Nat) : Option (BitVec 512) :=
  let last (l : List (Nat × BitVec 512)) : Option (BitVec 512) := ((l.filter fun e => e.1 = k).getLast?).map fun e => e.2
  (last ((v.map fun v => v.lines).getD [])).or (last pl.lines)

/-- Code or tables of a logical core differ between two variants of a plan (none the base plan). -/
def coreDiffers (pl : Plan) (v w : Option Variant) (l : Nat) : Bool :=
  let keys (x : Option Variant) : List Nat := ((x.map fun x => x.lines).getD []).map fun e => e.1
  corePlanOf pl v l ≠ corePlanOf pl w l
    || (keys v ++ keys w).any fun k => k / 4096 = l && planLine pl v k ≠ planLine pl w k

/-- A berth that had not reached HALT at an edge is cut off (06 R137). -/
def cutBerth (s : State) (c b : Nat) : State :=
  let x := s.berth c b
  if x.used && x.journey.isNone && (x.run = 1 || x.run = 3 || x.run = 4) then
    (s.discardFrom c b s.acc).modCoreStat c fun k => { k with ovrn := satInc 8 k.ovrn }
  else s

/-- A core is loaded anew at an edge: its berths are cut off, and nothing of it is pending (01 R31, 09 R194). A line whose copy in the room
cannot be read stays out of use, as after a refetch (02 R38; A59, DEDUCED). -/
def reload (s : State) (p : Nat) (pl : Plan) (v : Option Variant) (c : Nat) : State :=
  let s := (List.range 16).foldl (fun s b => s.cutBerth c b) (s.stopMmacs fun o => o.core = c)
  let s := ((s.dropPending c).loadCore p pl v (s.imageKeys p pl) c).applyCore c (corePlanOf pl v (s.logCore p c))
  (s.core c).badLines.foldl (fun s l => if (s.core c).deadLines.contains l then s else s.noImage c l) s

/-- A variant becomes active in place of the base plan or of another one: the cores whose code or tables differ are loaded again; other
state is kept. -/
def applyVariant (s : State) (p : Nat) (pl : Plan) (v : Nat) (x : Variant) : State :=
  let old := s.variantOf p
  let s := s.modPart p fun t => { t with plvar := v }
  let s := (s.clustersOf p).foldl (fun s k => s.modCluster k fun c => { c with owners := [] }) s
  let s := (s.applyOwners p pl.owners).applyOwners p x.owners
  let s := (s.coresOf p).foldl (fun s c =>
    if coreDiffers pl old (some x) (s.logCore p c) then s.reload p pl (some x) c else s) s
  (s.markJourneys p x.journeys).logEv 3 0x32 6 0 0 0 0 v

/-- A journey whose placement is in a DEGRADED cluster starts fresh. -/
def dropDegraded (s : State) (p : Nat) : State :=
  s.modPart p fun t => { t with journeys := t.journeys.map fun e =>
    if (e.2.core.any fun c => (s.cluster (clusterOf c)).health = 2) then (e.1, { e.2 with state := 0, runs := 0, core := none }) else e }

/-- The edge cycle of a running partition with DEGRADED clusters that its active variant does not cover. Where none fits, the supervisor
is alarmed, and the partner by the heartbeats that cease (23 R397). -/
def fallback (s : State) (p : Nat) : State :=
  let t := s.part p
  match (if t.running then t.plan else none) with
  | none => s
  | some pl =>
    if s.covers p pl t.plvar then s
    else match s.fitVariant p pl with
      | some v => match pl.variants[v - 1]? with
        | some x => (s.applyVariant p pl v x).dropDegraded p
        | none => s
      | none => (s.stopPlan p).modPart p fun t => { t with plstat := 5, plerr := 0x10, alarms := t.alarms + 1 }

/-- A cluster becomes DEGRADED at this edge: its cores lose MXEN and its berths issue nothing. -/
def degradeCluster (s : State) (k : Nat) : State :=
  let s := s.modCluster k fun c => { c with health := 2 }
  let s := (List.range 4).foldl (fun s i => s.modCore (4 * k + i) fun c => { c with mxen := false }) s
  let s := s.stopMmacs fun o => clusterOf o.core = k
  let s := s.mapBerths fun c _ x => if clusterOf c = k then { x with used := false, run := 0, wait := .none, held := [] } else x
  s.logEv 3 0x31 (k / 4) 0 0 0 0 (k % 4)

/-! ## The spare site (09 R199) -/

/-- The position takes another site: code and workspace stores are loaded as at activation, and its tasks count as ended; MXOWN, the
owner map and the tiles stay. What the old site's store held is lost, and a packet still on its way is dropped when it comes (11
R229). -/
def changeSite (s : State) (c old new : Nat) : State :=
  let p := s.partOf c
  let k := s.core c
  let tasks := ((k.berths.filter fun b => b.2.used && b.2.journey.isNone).map fun b => s.taskOf c b.1).eraseDups
  let s := s.eraseMem fun x => spaceOf x = .ws && coreOfKey x = c
  let s := match (s.part p).plan with
    | some pl =>
      let s := (s.reload p pl (s.variantOf p) c).modCore c fun x => { x with owned := k.owned, mxen := k.mxen }
      s.modCore c fun x => { x with berths := x.berths.map fun (b : Nat × Berth) =>
        match (k.berths : Tbl Berth).find? b.1 with
        | some o => if o.journey.isSome then (b.1, { b.2 with journey := o.journey, used := o.used }) else b
        | none => b }
    | none => s
  let s := (s.modCore c fun x => { x with mapAt := some s.acc }).modCoreStat c fun x => { x with ended := min 255 (x.ended + tasks.length) }
  s.logEv 3 0x30 (tierOf c) (meshIdx c) 0 0 (wsKey c 0 % 2 ^ 48) (old + 8 * new)

/-- The site at position i of a cluster has failed: the spare takes its place, or the cluster is DEGRADED (09 R199, R200). -/
def failSite (s : State) (k i : Nat) : State :=
  let x := s.cluster k
  if x.health = 0 && x.outsite = 7 then (s.modCluster k fun c => { c with outsite := i, health := 1 }).changeSite (4 * k + i) i 4
  else
    let site := if x.outsite = i then 4 else i
    let s := s.modCluster k fun c => { c with lost := setIns c.lost site }
    if x.health = 2 then s else s.degradeCluster k

/-- The site that was mapped out works again: its position returns to it, but a DEGRADED cluster stays so until a plan activation. -/
def returnSite (s : State) (k : Nat) : State :=
  let x := s.cluster k
  if !(x.outsite < 4) then s
  else if x.health = 1 then (s.modCluster k fun c => { c with outsite := 7, health := 0 }).changeSite (4 * k + x.outsite) 4 x.outsite
  else s.modCluster k fun c => { c with outsite := 7 }

/-- What the firmware asked for of a cluster, at this edge. -/
def repairEdge (s : State) (k : Nat) : State :=
  let x := s.cluster k
  let s := s.modCluster k fun c => { c with mapOut := [], degrade := false, engine := c.engine || x.degrade }
  let s := x.mapOut.foldl (fun s i => if i < 4 then s.failSite k i else s.returnSite k) s
  if x.degrade && (s.cluster k).health ≠ 2 then s.degradeCluster k else s

end State

/-! ## Partitions (18 R341) -/

/-- Every core is owned by the valid partition that its cluster is given to. -/
def State.ownCores (s : State) : State :=
  (List.range 96).foldl (fun s c =>
    let o := ((List.range 8).find? fun p => s.inPart p c).map fun p => (p, s.logCore p c)
    if (s.core c).owner = o then s else s.modCore c fun k => { k with owner := o }) s

/-- Two rows share a cluster, a slot position, or a share of a map, of hall SRAM, of far memory or of the TLB. -/
def rowsMeet (a b : PartRow) : Bool :=
  a.clmask &&& b.clmask ≠ 0 || a.slots &&& b.slots ≠ 0 || spansMeet a.smbase (a.smbase + a.smcnt) b.smbase (b.smbase + b.smcnt)
    || spansMeet a.ombase (a.ombase + a.omcnt) b.ombase (b.ombase + b.omcnt) || spansMeet a.hbase (a.hbase + a.hsize) b.hbase (b.hbase + b.hsize)
    || spansMeet a.fbase (a.fbase + a.fsize) b.fbase (b.fbase + b.fsize)
    || spansMeet a.tlbbase (a.tlbbase + a.tlbcnt) b.tlbbase (b.tlbbase + b.tlbcnt)

/-- A partition that is created gets two keys from the TRNG (22 R392); the number p has had others before, under which far memory may have
been written. -/
def State.createKeys (s : State) (p : Nat) (r : PartRow) : State :=
  if !r.valid || (s.part p).row.valid then s
  else
    let (n, s) := { s with farOld := s.farOld ++ (s.part p).farSpan }.planWork
    s.modPart p fun t => { t with keys := Config.xtsKeys n, fenc := false }

/-- PARTITION_CONFIGURE: the firmware sets a partition row; with none running there is none to set it (22 R389). Two valid rows never
share anything: one that would is not set (A29, DESIGN CHOICE). -/
def execPartitionConfigure (p : Nat) (r : PartRow) (s : State) : Res :=
  if !(p < 8) then .fault .noSuchUnit
  else if s.boot.fw.isNone || (r.valid && s.parts.any fun e => e.1 ≠ p && e.2.row.valid && rowsMeet r e.2.row) then .next s
  else .next ((s.createKeys p r).modPart p fun t => { t with row := r }).ownCores

end Sys2Proof.Machine
end

