-- ==== Sys2Proof/Machine/Pair.lean ====
section
/-! DEFINITION. The redundant pair: frames of the pair link, heartbeats and digests, takeover, resync, and PSEND, PDIG, PROLE and PTAKE
(23 R395 to R411). -/

namespace Sys2Proof.Machine

/-- 180 ns, the latency of the pair link, and 2 µs, in units of GT (23 R395, R396). -/
def linkTime : Nat := 552 * 180
def resendTime : Nat := 552 * 2000

/-- Bytes of payload by KIND: a DIG's digest, an RSY line, a NACK's SEQ. The coding of DATA's operands is not stated; its payload counts
as 64 bytes (A47). -/
def pairLen (f : PairFrame) : Nat :=
  match f.kind with
  | 2 => 8
  | 5 | 6 => 64
  | 7 => 2
  | _ => 0

/-- The header of a frame (23 R395). -/
def pairHeader (f : PairFrame) : BitVec 128 :=
  BitVec.ofNat 128 (f.kind % 16 + 2 ^ 4 * (f.part % 8) + 2 ^ 7 * f.pairid.toNat + 2 ^ 8 * (f.mark % 256) + 2 ^ 16 * (f.seq % 2 ^ 16)
    + 2 ^ 32 * f.scn.toNat + 2 ^ 64 * (f.role % 4 + 4 * f.fit.toNat + 8 * f.taken.toNat + 16 * f.alarm.toNat + 32 * f.psn.toNat))

/-- The CRC-32 register after n bits of v, each byte's least significant bit first, its output reflected (23 R395). -/
def crc32 (init : BitVec 32) (n v : Nat) : BitVec 32 := (crcOf 0x04C11DB7 init ((List.range n).map v.testBit)).reverse

/-- The CRC-32 that a frame carries. -/
def pairCrc32 (f : PairFrame) : BitVec 32 :=
  ~~~crc32 (BitVec.allOnes 32) (128 + 8 * pairLen f) ((pairHeader f).toNat + 2 ^ 128 * f.payload)

/-- A copy with these inverted bits fails its CRC: the check is linear, so the frame's contents do not enter (A23). -/
def copyFails (f : PairFrame) (flips : Nat) : Bool :=
  let n := 128 + 8 * pairLen f
  crc32 0 n flips ^^^ BitVec.ofNat 32 (flips / 2 ^ n) ≠ 0

/-- Copies of a frame that fail. -/
def badCopies (f : PairFrame) : Nat := (copyFails f f.flips.1).toNat + (copyFails f f.flips.2).toNat

namespace State

def pair (s : State) (p : Nat) : PairSt := (s.part p).pair
def modPair (s : State) (p : Nat) (f : PairSt → PairSt) : State := s.modPart p fun t => { t with pair := f t.pair }

/-! ## Frames (23 R395, R396) -/

/-- A thermal ALARM is set in the package (22 R385). -/
def anyAlarm (s : State) : Bool := s.hall.therm.alarm || s.clusters.any fun e => e.2.therm.alarm

/-- A frame of a partition with its header as it stands. -/
def frameOf (s : State) (p kind : Nat) : PairFrame :=
  let x := s.pair p
  { kind := kind, part := p, pairid := x.pairid, mark := 0, seq := x.seq, scn := s.hall.scn, role := x.role, fit := x.fit, taken := x.taken,
    alarm := s.anyAlarm, psn := false, payload := 0, a := 0, tier := 0, entry := 0, itin := ⟨false, 0⟩, form := 0, wb := 0, flips := (0, 0) }

/-- Hands a frame to the link, with its deadline. The record of a frame that can no longer be refused is dropped: its NACK comes at most
2 µs after its last arrival, resent ones included. -/
def sendFrame (s : State) (f : PairFrame) (org : Option Org) (deadline : Nat) : State :=
  let s := s.modPair f.part fun x =>
    let keep := x.wait.filter fun w => s.gt ≤ w.deadline + 2 * linkTime + resendTime
    { x with seq := (x.seq + 1) % 2 ^ 16, sent := some f, wait := keep ++ [{ frame := f, org := org, deadline := deadline, last := s.gt }] }
  s.atGt deadline (.row (.pairFrameDeadline f.part f.seq))

/-- A frame of a kind that has no due instant. -/
def sendPlain (s : State) (f : PairFrame) (org : Option Org) : State := s.sendFrame f org (s.gt + resendTime)

def waitOf (s : State) (p seq : Nat) : Option PairWait := (s.pair p).wait.find? fun w => w.frame.seq = seq

/-- A frame is lost: a DATA frame queues a peer-absent trap at its PSEND, and an RSY line is to be sent again (23 R404, R407). -/
def loseFrame (s : State) (p seq : Nat) : State :=
  match s.waitOf p seq with
  | none => s
  | some w =>
    let s := s.modPair p fun x => { x with lost := satInc 8 x.lost, wait := x.wait.filter fun v => v.frame.seq ≠ seq }
    let s := if w.frame.kind = 6 then { s with rsySent := s.rsySent.filter fun k => some k ≠ s.placeKey p w.frame.a } else s
    match (if w.frame.kind = 5 then w.org else none) with
    | some o => s.queueFor o 0xF 6
    | none => s

/-- A refused frame goes out again while its deadline has not come. -/
def resendFrame (s : State) (p seq : Nat) : State :=
  match s.waitOf p seq with
  | none => s
  | some w =>
    if w.deadline ≤ s.gt then s.loseFrame p seq
    else s.modPair p fun x =>
      { x with retry := satInc 8 x.retry, sent := some w.frame,
               wait := x.wait.map fun v => if v.frame.seq = seq then { v with last := s.gt } else v }

/-- The deadline of a frame: one whose last sending cannot have arrived is lost. -/
def frameDeadline (s : State) (p seq : Nat) : State :=
  match s.waitOf p seq with
  | none => s
  | some w => if w.deadline ≤ s.gt && w.deadline < w.last + linkTime then s.loseFrame p seq else s

end State

def execPairNackResend (p seq : Nat) (s : State) : Res := if p < 8 then .next (s.resendFrame p seq) else .fault .noSuchUnit
def execPairFrameDeadline (p seq : Nat) (s : State) : Res := if p < 8 then .next (s.frameDeadline p seq) else .fault .noSuchUnit

/-! ## Heartbeats, digests and due instants (23 R397, R398, R402, R403) -/

/-- CRC-64 over bytes in order, most significant bit first. -/
def crc64Byte (c : BitVec 64) (b : Byte) : BitVec 64 :=
  (List.range 8).foldl (fun c _ => if c.msb then (c <<< 1) ^^^ 0x42F0E1EBA9EA3693 else c <<< 1) (c ^^^ (b.setWidth 64 <<< 56))

def crc64 (c : BitVec 64) (l : List Byte) : BitVec 64 := l.foldl crc64Byte c

/-- Bytes of a word, the lowest first. -/
def wordBytes (w : Word) : List Byte := (List.range 8).map fun i => w.extractLsb' (8 * i) 8

namespace State

/-- due(n, k) in GT units, from E(n) of the last edge. -/
def dueAt (s : State) (p mark : Nat) : Nat :=
  552 * s.seq.last + (mark + 6) * gtStep s.freq.cur + linkTime + 552 * (s.pair p).hbtol

/-- Byte o of the output image as class I transmits it. -/
def sentByte (s : State) (p o : Nat) : Byte := ((s.sentKey p o).map fun k => s.readByte clsI k).getD 0xFF

/-- The digest that the edge under way sends: the DACCs and what the coming scan transmits. `n` is the coming scan. -/
def ownDigest (s : State) (p : Nat) : Nat :=
  let c := (s.coresOf p).foldl (fun c k => crc64 c (wordBytes (s.core k).dacc)) (BitVec.allOnes 64)
  let c := (s.outRows p).foldl (fun c e => crc64 c ((List.range e.2.length).map fun i => s.sentByte p (e.2.offset + i))) c
  (c ^^^ BitVec.allOnes 64).toNat

/-- A standby loses FIT: a resync is pending, which a pass under way serves. -/
def loseFit (s : State) (p : Nat) : State := s.modPair p fun x => { x with fit := false, rsyPend := true }

/-- Compares the two digests of a scan, once both are there. -/
def matchDigest (s : State) (p : Nat) (scn : BitVec 32) : State :=
  let x := s.pair p
  match x.digGot.find? (fun e => e.1 = scn), x.digOwn.find? (fun e => e.1 = scn) with
  | some (_, d, q), some (_, e, r) =>
    let s := s.modPair p fun x => { x with digGot := x.digGot.filter fun e => e.1 ≠ scn, digOwn := x.digOwn.filter fun e => e.1 ≠ scn }
    let bad := d ≠ e || (x.role = 2 && (q || r))
    let s := if bad then s.modPair p fun x => { x with digmis := satInc 8 x.digmis } else s
    if x.role ≠ 2 then s
    else if bad then s.loseFit p
    else if x.rsyPend then s
    else s.modPair p fun x => { x with fit := true }
  | _, _ => s

/-- Frames of scan m may still be due in scan n: HBTOL is at most 65,535 ns and the period at least 31,250, so one is due at most three
scans on. -/
def dueStill (n m : BitVec 32) : Bool := (n - m).toNat ≤ 4

/-- In b_E: the digest of the scan that ends, under the SCN of the one that begins. -/
def digestEdge (s : State) (p : Nat) (n : BitVec 32) : State :=
  let x := s.pair p
  if !x.en || !(s.part p).running then s.modPair p fun x => { x with ran := false }
  else
    let psn := (s.coresOf p).any fun c => (s.core c).dpsn
    let d := s.ownDigest p
    let s := s.modPair p fun x => { x with hbGot := x.hbGot.filter fun e => dueStill n e.1 }
    let s := s.modPair p fun x => { x with digGot := x.digGot.filter fun e => dueStill n e.1 }
    (s.modPair p fun x => { x with ran := true, digOwn := (x.digOwn.filter fun e => dueStill n e.1) ++ [(n, d, psn)] }).matchDigest p n

/-- A heartbeat for mark k. -/
def sendHb (s : State) (p k mark : Nat) : State :=
  if !(s.pair p).en || !(s.part p).running then s else s.sendFrame { s.frameOf p 1 with mark := k } none (s.dueAt p mark)

/-- The DIG of the scan that has ended. -/
def sendDig (s : State) (p : Nat) : State :=
  let x := s.pair p
  match (if x.en && x.ran && (s.part p).running then x.digOwn.find? fun e => e.1 = s.hall.scn else none) with
  | some (_, d, q) => s.sendFrame { s.frameOf p 2 with payload := d, psn := q } none (s.dueAt p 0)
  | none => s

/-- Least TXOFF of the valid frames (16 R300). -/
def leastTxoff (s : State) (p : Nat) : Option Nat :=
  match (s.part p).plan with
  | some pl => (pl.frames.filter fun f => f.valid).foldl (fun m f => match m with
      | none => some f.txoff
      | some v => some (min v f.txoff)) none
  | none => none

/-- The scan, counted from the one that begins, whose decision point lies in it: TDEC may exceed the least TXOFF by several periods. -/
def decisionScan (s : State) (p t : Nat) : Nat := ((s.pair p).tdec - t + s.seq.p - 1) / s.seq.p

/-- The decision point from the edge of scan n on: D(n + j) of 23 R399 that lies between E(n) and E(n + 1). -/
def decisionAt (s : State) (p : Nat) : Option Nat :=
  (s.leastTxoff p).map fun t => 552 * (s.seq.last + s.decisionScan p t * s.seq.p + t - (s.pair p).tdec)

/-- The edge cycle of a paired partition that runs: the due instants of the scan, and its decision point. -/
def pairDues (s : State) (p : Nat) : State :=
  let x := s.pair p
  if !x.en || !(s.part p).running then s
  else
    let n := s.hall.scn
    let marks := (0 :: s.marksOf p 0).eraseDups
    let s := ((List.range marks.length).zip marks).foldl (fun s e => s.atGt (s.dueAt p e.2) (.row (.hbDue p e.1 false n))) s
    let s := if x.ran then s.atGt (s.dueAt p 0) (.row (.hbDue p 0 true n)) else s
    match s.decisionAt p with
    | some t => s.atGt t (.aux (.decision p))
    | none => s

/-- A due instant: a frame that has not come is missing. -/
def dueEvent (s : State) (p mark : Nat) (dig : Bool) (scn : BitVec 32) : State :=
  let x := s.pair p
  if !x.en then s
  else
    let got := if dig then x.hbGot.contains (scn, 256) else x.hbGot.contains (scn, mark)
    let s := s.modPair p fun x => { x with hbGot := x.hbGot.filter fun e => e ≠ (scn, if dig then 256 else mark) }
    if got then (if dig then s else s.modPair p fun x => { x with peer := true })
    else s.modPair p fun x => { x with peer := x.peer && dig, miss := true, hbmiss := satInc 16 x.hbmiss }

end State

def execHbDue (p mark : Nat) (dig : Bool) (scn : BitVec 32) (s : State) : Res :=
  if p < 8 then .next (s.dueEvent p mark dig scn) else .fault .noSuchUnit

/-! ## Takeover (23 R399 to R401) -/

namespace State

/-- A standby takes over at D(m): the frames of scan m are the first to pass. -/
def takeOver (s : State) (p : Nat) : State :=
  let j := ((s.leastTxoff p).map (s.decisionScan p)).getD 0
  let m := (List.range j).foldl (fun n _ => scnNext n) s.hall.scn
  s.modPair p fun x =>
    { x with role := 1, taken := true, gates := true, takes := satInc 8 x.takes, rscn := s.hall.scn, passFrom := some m, takeAt := none,
             rsy := false, rsyPend := false }

/-- A primary closes its gates and becomes standby. -/
def giveWay (s : State) (p : Nat) (fit : Bool) : State :=
  s.modPair p fun x =>
    { x with role := 2, gates := false, fit := fit, rscn := s.hall.scn, yieldAt := none, rsy := false, rsyPend := !fit }

/-- The decision point. -/
def decisionEvent (s : State) (p : Nat) : State :=
  let x := s.pair p
  let s' :=
    if x.role = 2 && x.en && ((x.fit && (x.miss || x.resigned)) || x.takeAt.any fun t => t ≤ s.gt) then s.takeOver p
    else match (if x.role = 1 then x.yieldAt else none) with
      | some (t, fit) => if t ≤ s.gt then s.giveWay p fit else s
      | none => s
  s'.modPair p fun x => { x with miss := false, resigned := false }

end State

def execDecisionPoint (p : Nat) (s : State) : Res := if p < 8 then .next (s.decisionEvent p) else .fault .noSuchUnit

/-! ## Resync (23 R404) -/

namespace State

/-- Keys of the lines of the designated set, in ascending place order. -/
def rsyLines (s : State) (p : Nat) : List Nat :=
  let rows := (s.pair p).desig.filterMap fun e => (s.placeKey p e.2.1).map fun k => (e.2.1, k, e.2.2)
  let lines := rows.flatMap fun r => (List.range (r.2.2 / 64)).map fun i => (r.1 + 64 * i, r.2.1 + 64 * i)
  let ins := lines.foldl (fun (t : Tbl Nat) e => t.put e.1 e.2) []
  ins.map fun e => e.2

/-- The place address of a line of the designated set. -/
def rsyPlace (s : State) (p key : Nat) : Nat :=
  ((s.pair p).desig.findSome? fun e => (s.placeKey p e.2.1).bind fun k =>
    if k ≤ key && key < k + e.2.2 then some (e.2.1 + (key - k)) else none).getD 0

/-- The edge cycle: a resync begins, goes on, completes a pass or is over. -/
def rsyEdge (s : State) (p : Nat) : State :=
  let x := s.pair p
  let want := x.en && x.peer && ((x.role = 1 && !x.peerFit) || (x.role = 2 && !x.fit))
  if !want then (if x.rsy then s.modPair p fun x => { x with rsy := false } else s)
  else
    let lines := s.rsyLines p
    if !x.rsy then { s.modPair p fun x => { x with rsy := true } with rsySent := s.rsySent.filter fun k => !lines.contains k }
    else if lines.all fun k => s.rsySent.contains k then s.modPair p fun x => { x with rsy := false, rsyPend := false }
    else s

/-- The line that the primary sends next. -/
def rsyNext (s : State) (p : Nat) : Option Nat :=
  let x := s.pair p
  if x.rsy && x.role = 1 && x.en && x.peer && !x.peerFit then (s.rsyLines p).find? fun k => !s.rsySent.contains k else none

/-- The words of a line as the pair's path reads them (13 R271), with its checks (01 R20, R22, 20 R357). An RSY frame has no mark for a
word that is poisoned or fails its check: what it carries of it is not stated (A15). -/
def lineData (s : State) (key : Nat) : Nat × State :=
  let s := if spaceOf key = .ws then (s.checkParity key 64).1 else s.countRead key 64
  (List.range 8).foldl (fun (r : Nat × State) i =>
    let k := key + 8 * i
    if r.2.tainted k 8 then
      let (w, s) := r.2.freeWord
      (r.1 + w.toNat * 2 ^ (64 * i), s)
    else (r.1 + r.2.readAs clsP k 8 * 2 ^ (64 * i), r.2)) (0, s)

/-- Samples a line and sends it. -/
def sendLine (s : State) (p key : Nat) : State :=
  let (d, s) := s.lineData key
  let s := s.sendPlain { s.frameOf p 6 with payload := d, a := s.rsyPlace p key } none
  { s with rsySent := setIns s.rsySent key }

/-- One line every 8 cycles of the idle part of the scan, until 2 µs before the next edge. -/
def rsyTurnEvent (s : State) (p : Nat) : State :=
  if 552 * s.seq.next ≤ s.gt + resendTime then s
  else match s.rsyNext p with
    | some k => (s.sendLine p k).schedAux (s.acc + 8) phSample none (.rsyTurn p)
    | none => s

/-- RSY_LINE_SEND: line number `line` of the designated set. -/
def rsyLine (s : State) (p line : Nat) : State :=
  match (s.rsyLines p)[line]? with
  | some k => if s.rsyNext p = some k then s.sendLine p k else s
  | none => s

end State

def execRsyLineSend (p line : Nat) (s : State) : Res := if p < 8 then .next (s.rsyLine p line) else .fault .noSuchUnit

/-! ## What the partner does (23 R395, R401, R404, R407) -/

namespace State

/-- A write by the pair link, as class P. -/
def pairWrite (s : State) (key n v mask psn : Nat) : State :=
  let s := if spaceOf key = .room then s.noteRoom none key n mask else s
  s.writeUntimed clsP key n v mask psn

/-- The first cycle from t on in which a write of the pair link to these bytes keeps the order of the frames (13 R272). -/
def pairTurn (s : State) (key n t : Nat) : Nat :=
  s.agenda.foldl (fun m e =>
    match e.act with
    | .aux (.pairPut _ k l ..) => if k < key + n && key < k + l then max m e.at_ else m
    | .aux (.rsyPut k _) => if k < key + n && key < k + 64 then max m e.at_ else m
    | _ => m) t

/-- An RSY line at its place. Bytes that a landing or a record-port write of the same cycle writes stand (13 R270), and the line then counts
as not sent. -/
def rsyPutEvent (s : State) (key data : Nat) : State :=
  let lost := s.lostPlace key 64 (ones 64)
  let s := s.pairWrite key 64 data (ones 64 - s.lostBytes key 64 (ones 64)) 0
  if lost.isSome then s else { s with rsySent := setIns s.rsySent key }

def countRoute (s : State) (p : Nat) : State := s.modPair p fun x => { x with route := satInc 8 x.route }

/-- The hall delivers a DATA frame into the entry position of its tier, as a packet that starts there, in time for the order of the
frames. -/
def deliverData (s : State) (f : PairFrame) : State :=
  let p := f.part
  let vec := f.form % 2 = 1
  let n := if vec then 64 else 8
  match s.physTier p f.tier with
  | none => s.countRoute p
  | some t =>
    let c := coreAtMesh t f.entry
    if !s.inPart p c then s.countRoute p
    else match s.routeCheck c f.itin .plain with
      | .error _ => s.countRoute p
      | .ok r =>
        if f.a % (if vec then 32 else 8) ≠ 0 || (if r.up then 2 ^ 24 else 2 ^ 19) < f.a + n then s.countRoute p
        else
          let dest := r.core t
          let key := if r.up then roomKey dest f.a else wsKey dest f.a
          let flight := (if r.up then 11 else 8) + 2 * r.hops.length
          let eff := s.pairTurn key n (s.acc + flight)
          let o : Org := { core := c, berth := 256 + p, issue := eff - flight, slot := 0, pc := 0, wsp := 0 }
          let wb := if 2 ≤ f.form then some f.wb else none
          s.injectAct eff phWrite o (.aux (.pairPut p key n f.payload (if f.psn then ones n else 0) wb))
            (fwdLinks t f.entry r.hops r.up (eff - flight)) 1

/-- A DATA packet at its place: a wake follows the write. One that its bank does not serve, or whose header fails, is dropped, and one for a
site mapped out since its injection is dropped and counted as R229 says. -/
def pairPutEvent (s : State) (p key n data psn : Nat) (wb : Option Nat) : State :=
  let c := coreOfKey key
  let (hdr, flits) := s.flitUpset c
  let s := s.countFlits c flits 8
  let s := if hdr then s.modPosStat c fun k => { k with hdr := satInc 8 k.hdr } else s
  let lost := s.lostBytes key n (ones n)
  if spaceOf key = .ws && s.cur.org.any fun o => s.staleFor c o.issue then s.countDrop c
  else if hdr || s.cur.denied.isSome || lost = ones n then s.countRoute p
  else
    let s := s.pairWrite key n data (ones n - lost) (psn ||| flitBytes flits n)
    match wb with
    | some b => s.modBerth c b fun x => { x with wcnt := x.wcnt + 1 }
    | none => s

/-- A primary hears another primary: which of the two gives way (23 R401). -/
def twoPrimaries (s : State) (f : PairFrame) : State :=
  let x := s.pair f.part
  if x.role = 1 && f.role = 1 && ((f.taken && !x.taken) || (f.taken = x.taken && x.pairid)) then
    s.modPair f.part fun x => { x with yieldAt := some (s.gt, false) }
  else s

/-- A good frame of a paired partition, by its kind. -/
def frameKind (s : State) (f : PairFrame) : State :=
  let p := f.part
  match f.kind with
  | 1 =>
    let s := s.modPair p fun x => { x with palarm := f.alarm, hbGot := (x.hbGot.filter fun e => e ≠ (f.scn, f.mark)) ++ [(f.scn, f.mark)] }
    s.twoPrimaries f
  | 2 =>
    let s := s.modPair p fun x =>
      { x with hbGot := (x.hbGot.filter fun e => e ≠ (f.scn, 256)) ++ [(f.scn, 256)],
               digGot := (x.digGot.filter fun e => e.1 ≠ f.scn) ++ [(f.scn, f.payload % 2 ^ 64, f.psn)] }
    s.matchDigest p f.scn
  | 3 => s.modPair p fun x => { x with resigned := true }
  | 4 => if (s.pair p).role = 1 then s.modPair p fun x => { x with yieldAt := some (s.gt, false) } else s
  | 5 => s.deliverData f
  | 6 =>
    match (if (s.pair p).role = 2 then s.placeKey p f.a else none) with
    | some k => s.schedAux (s.pairTurn k 64 s.acc) phWrite none (.rsyPut k f.payload)
    | none => s
  | _ => s.resendFrame p (f.payload % 2 ^ 16)

def pairCrc (s : State) (p n : Nat) : State := s.modPair p fun x => { x with crcerr := min 255 (x.crcerr + n) }

/-- A frame of the pair link arrives. -/
def pairReceive (s : State) (f : PairFrame) : State :=
  let p := f.part
  let s := s.pairCrc p (badCopies f)
  if badCopies f = 2 then (if (s.pair p).en then s.sendPlain { s.frameOf p 7 with payload := f.seq } none else s)
  else if !(1 ≤ f.kind && f.kind ≤ 7) || !(s.part p).row.valid then s.pairCrc p 1
  else if !(s.pair p).en then s
  else (s.modPair p fun x => { x with peerFit := f.fit }).frameKind f

end State

def execPairFrameReceive (f : PairFrame) (s : State) : Res := if f.part < 8 then .next (s.pairReceive f) else .fault .noSuchUnit

/-! ## PSEND, PDIG, PROLE, PTAKE (23 R405 to R409) -/

namespace State

/-- The role word (23 R406). -/
def roleWord (s : State) (p : Nat) : Nat :=
  let x := s.pair p
  (if x.en then x.role % 4 else 0) + 4 * x.fit.toNat + 8 * x.peer.toNat + 16 * (x.gates || !x.en).toNat + 32 * x.rsy.toNat + 64 * x.taken.toNat
    + 128 * x.palarm.toNat + 256 * x.pairid.toNat + 2 ^ 32 * x.rscn.toNat

/-- The hall sends the DATA frame of a PSEND's beat. -/
def pairDataEvent (s : State) (b : Beat) : State :=
  match b.req with
  | some (.psend a tier entry it form wb) =>
    s.sendPlain { s.frameOf b.part 5 with payload := b.data, psn := b.psn, a := a, tier := tier, entry := entry, itin := it, form := form,
                                          wb := wb } b.org
  | _ => s

end State

/-- PSEND: a commit point. -/
def execPsend (h : Hd) (wk : Bool) (data : BeatData) (a c : SReg) (it : Itin) (nd : BitVec 8) (s : State) : Res :=
  issueOp h (.s a :: .s c :: beatSrcs data) s fun s =>
    let x := s.pair s.myPart
    let v := (s.sreg c).toNat
    if !x.en || !x.peer then s.raise 0xF 5
    else if (s.physTier s.myPart (v % 8)).isNone then s.raise 7 0x15 ((s.sreg c).setWidth 32)
    else s.onSlot fun s =>
      let (n, d, psn) := s.beatData data
      let req := CReq.psend ((s.sreg a).toNat + 32 * nd.toNat) (v % 8) (v / 8 % 16) it ((if n = 8 then 0 else 1) + 2 * wk.toNat) (v / 256 % 16)
      (s.sendBeat { s.beatOf (if n = 8 then 4 else 5) with dtier := 6, dpos := 1, data := d, psn := psn, req := some req }).commit

namespace State

/-- A range of the core's own room lies inside a row of the designation table. -/
def inDesig (s : State) (p key n : Nat) : Bool :=
  (s.pair p).desig.any fun e => (s.placeKey p e.2.1).any fun k => k ≤ key && key + n ≤ k + e.2.2

/-- Line i of a PDIG.add at its sample cycle, over the core port. -/
def pdigLineEvent (s : State) (o : Org) (off n i : Nat) (words : List Word) (psn : Bool) : State :=
  let key := roomKey o.core (off + 64 * i)
  match s.cur.denied with
  | some den => (s.modCore o.core fun k => { k with foldEnd := s.acc }).portTrap o (s.bankInfo key den 1 o.pc)
  | none =>
    let (s, bond) := s.bondSpan o.core key 64
    let s := s.countRead key 64
    let bad (j : Nat) : Bool := bond.testBit (8 * j) || s.tainted (key + 8 * j) 8
    let ws := (List.range 8).map fun j => if bad j then BitVec.allOnes 64 else BitVec.ofNat 64 (s.readAs clsT (key + 8 * j) 8)
    let psn := psn || (List.range 8).any bad
    if 64 * (i + 1) < n then s.schedAux (s.acc + 1) phSample (some o) (.pdigLine o off n (i + 1) (words ++ ws) psn)
    else s.schedRow (s.acc + 1) phEnd (some o) (.digestFold o.core (words ++ ws) psn)

end State

def execPdigAdd (h : Hd) (a b : SReg) (x : BitVec 48) (s : State) : Res :=
  issueOp h [.s a, .s b] s fun s =>
    let c := s.cur.core
    let ea := s.ea a x
    let n := (s.sreg b).toNat
    if 2 ^ 24 ≤ ea.toNat || !s.inDesig s.myPart (roomKey c ea.toNat) n then s.raise 7 0x1B (ea.setWidth 32)
    else if n % 64 ≠ 0 || n < 64 || 4096 < n || ea.toNat % 64 ≠ 0 then s.raise 8 0xA (ea.setWidth 32)
    else if s.acc < (s.core c).foldEnd then s.raise 0xE 0x26 (BitVec.ofNat 32 ((s.core c).foldEnd - s.acc))
    else
      let s := s.modCore c fun k => { k with foldEnd := s.acc + 20 + n / 64 }
      s.schedAux (s.acc + 20) phSample (some s.here) (.pdigLine s.here ea.toNat n 0 [] false)

/-- DIGEST_FOLD: the lines of a PDIG.add take effect in DACC. -/
def execDigestFold (core : Nat) (data : List Word) (psn : Bool) (s : State) : Res :=
  if !coreOk core then .fault .noSuchUnit
  else .next (s.modCore core fun k => { k with dacc := data.foldl (fun c w => crc64 c (wordBytes w)) k.dacc, dpsn := k.dpsn || psn })

def execPdigRd (h : Hd) (d : SReg) (s : State) : Res :=
  issueOp h [] s fun s => s.landS (s.acc + 16) d (s.core s.cur.core).dacc

def execProle (h : Hd) (d : SReg) (s : State) : Res :=
  issueOp h [] s fun s => s.landS (s.acc + 16) d (BitVec.ofNat 64 (s.roleWord s.myPart))

/-- PTAKE.take: a standby asks for the roles to change. -/
def execPtakeTake (h : Hd) (d : SReg) (s : State) : Res :=
  issueOp h [] s fun s =>
    let p := s.myPart
    let s := s.landS (s.acc + 16) d (BitVec.ofNat 64 (s.roleWord p))
    if (s.pair p).role ≠ 2 then s
    else (s.sendPlain (s.frameOf p 4) (some s.here)).modPair p fun x => { x with takeAt := some (s.gt + linkTime) }

/-- PTAKE.resign: a primary with a fit partner gives its role away; its FIT is 1 as a standby. -/
def execPtakeResign (h : Hd) (d : SReg) (s : State) : Res :=
  issueOp h [] s fun s =>
    let p := s.myPart
    let x := s.pair p
    let s := s.landS (s.acc + 16) d (BitVec.ofNat 64 (s.roleWord p))
    if !(x.role = 1 && x.peer && x.peerFit) then s
    else (s.sendPlain (s.frameOf p 3) (some s.here)).modPair p fun x => { x with yieldAt := some (s.gt + linkTime, true) }

namespace State

/-- The role of a partition at plan activation (23 R403, R406). -/
def activatePair (s : State) (p : Nat) (n : BitVec 32) : State :=
  s.modPair p fun x =>
    let role := if x.en then x.initrole else 0
    { x with role := role, fit := false, taken := false, gates := role ≠ 2, rscn := n, passFrom := none, rsy := false, rsyPend := false, miss := false,
             resigned := false, takeAt := none, yieldAt := none, hbGot := [], digGot := [], digOwn := [], ran := false }

end State

end Sys2Proof.Machine
end

