-- ==== Sys2Proof/Machine/Power.lean ====
section
/-! DEFINITION. Clock steps, rails and thermal limits, reset and supplies, boot, fuses and attestation, and PPS_OUT (22 R381 to R394). -/

namespace Sys2Proof.Machine

/-- One step of a rail ramp, 8 µs, in units of GT (22 R382). -/
def rampTime : Nat := 552 * 8000

namespace State

def modFreq (s : State) (f : Freq → Freq) : State := { s with freq := f s.freq }

/-! ## Clock steps (22 R382, R383) -/

/-- A request becomes active: refused below F_MIN; one beyond the thermal cap, or for the current step, has no effect; a faster step
first ramps the rails up. -/
def becomeActive (s : State) (step : Nat) : State :=
  let f := s.freq
  if s.fMin < step then s.modFreq fun f => { f with fhold := true }
  else if step < f.tcap.headD 0 || step = f.cur then s
  else if step < f.cur then
    let t := s.gt + rampTime * (f.cur - step)
    (s.modFreq fun f => { f with act := some (step, false), rampEnd := some t }).atGt t (.aux .rampEnd)
  else s.modFreq fun f => { f with act := some (step, false) }

/-- The active request ends, and the queued one becomes active. -/
def endActive (s : State) : State :=
  let q := s.freq.queue
  let s := s.modFreq fun f => { f with act := none, queue := none }
  match q with
  | some q => s.becomeActive q
  | none => s

/-- A request by the firmware. -/
def requestStep (s : State) (step : Nat) : State :=
  if 5 ≤ step then s
  else if s.freq.act.isNone then s.becomeActive step
  else s.modFreq fun f => { f with queue := some step }

/-- A rail ramp ends. -/
def rampDone (s : State) : State :=
  if !(s.freq.rampEnd.any fun t => t ≤ s.gt) then s
  else
    let s := s.modFreq fun f => { f with rampEnd := none }
    match s.freq.act with
    | some (_, true) => s.endActive
    | _ => s

/-- Every sensor lies more than 5 °C below its TWARN. -/
def allCool (s : State) : Bool :=
  let cool (t : Therm) : Bool := t.temp + 5 < t.twarn
  cool s.hall.therm && s.clusters.all fun e => cool e.2.therm

/-- The edge cycle: FHOLD clears, a thermal cap may be lifted, and a request whose rails allow it takes effect (22 R382 to R385). -/
def freqEdge (s : State) : State :=
  let s := s.modFreq fun f => { f with fhold := false, tcap := if f.cool then f.tcap.drop 1 else f.tcap, cool := s.allCool }
  match s.freq.act with
  | some (step, false) =>
    if step < s.freq.cur then
      if s.freq.rampEnd.isSome then s else (s.modFreq fun f => { f with cur := step }).endActive
    else
      let t := s.gt + rampTime * (step - s.freq.cur)
      (s.modFreq fun f => { f with cur := step, act := some (step, true), rampEnd := some t }).atGt t (.aux .rampEnd)
  | _ => s

/-! ## Undervolting (22 R384) -/

/-- A RAIL.up of an earlier cycle waits for a fault of its group to be decided (07 R157). -/
def railAsked (s : State) (cl : Nat) : Bool :=
  s.agenda.any fun e => match e.act with
    | .aux (.settle o (.rail true)) => clusterOf o.core = cl && o.issue < s.acc
    | _ => false

/-- A changed offset comes into force in the first cycle from edge + 64 on in which the rail is nominal, before a RAIL.up of that cycle. -/
def railOfsEvent (s : State) (cl v : Nat) : State :=
  let k := s.cluster cl
  if k.rail.1 = 0 && !s.railAsked cl then s.modCluster cl fun k => { k with ofsNow := v }
  else s.schedAux (s.acc + 1) phMark none (.railOfs cl v)

/-- From edge + 64 on, changed offsets come into force. -/
def ofsEdge (s : State) : State :=
  (List.range 24).foldl (fun s cl =>
    let v := (s.cluster cl).ofs
    if v = (s.cluster cl).ofsNow || s.agenda.any fun e => e.act = .aux (.railOfs cl v) then s
    else s.schedAux (s.acc + 64) phMark none (.railOfs cl v)) s

/-- A correction in an array of a cluster: a room, its B store, or a workspace store (RCOR, BCOR, CREG). -/
def inCluster (cl : Nat) (f : Nat × Nat × Nat) : Bool :=
  (f.1 = FaultKind.corr.num && (f.2.1 < 96 && clusterOf f.2.1 = cl || f.2.1 = 96 + cl)) || (f.1 = FaultKind.dupRepair.num && clusterOf f.2.1 = cl)

/-- Corrections in the arrays of a cluster in the last 10^4 scans, since its offset has changed (A30). -/
def corrections (s : State) (cl : Nat) : Nat :=
  (s.faults.filter fun f => inCluster cl f && (s.cluster cl).ofsAt ≤ f.2.2 && s.scans ≤ f.2.2 + 10000).length

/-- What the firmware is to do with a cluster's offset: lower the rail by a step (true), raise it (false), or nothing. -/
def undervoltDue (s : State) (cl : Nat) : Option Bool :=
  let k := s.cluster cl
  let n := s.corrections cl
  if s.boot.fw.isNone then none
  else if 16 < n then (if 0 < k.ofs then some false else none)
  else if n = 0 && k.ofsAt + 10000 ≤ s.scans && k.ofs < 12 then some true
  else none

/-- OFS changes; the count of corrections starts again. -/
def setOfs (s : State) (cl n : Nat) : State := s.modCluster cl fun k => { k with ofs := n, ofsAt := s.scans }

/-- A step of a cluster's offset. -/
def stepOfs (s : State) (cl : Nat) (lower : Bool) : State :=
  s.setOfs cl (if lower then min 12 ((s.cluster cl).ofs + 1) else (s.cluster cl).ofs - 1)

/-- The firmware's steps at an edge. -/
def undervoltEdge (s : State) : State :=
  (List.range 24).foldl (fun s cl => match s.undervoltDue cl with
    | some lower => s.stepOfs cl lower
    | none => s) s

/-! ## Reset (22 R388, R393) -/

/-- What RESET_N resets, the keys of the partitions among it (22 R392): all but the always-on domain, the fuses and straps, and the contents of the memories (A1). -/
def resetAll (s : State) : State :=
  { State.reset with
    gt := s.gt, servo := s.servo, mem := s.mem, badUnits := s.badUnits, psnUnits := s.psnUnits, ecc := s.ecc, fuses := s.fuses, ticks := s.ticks,
    farOld := s.parts.foldl (fun l e => if e.2.fenc then l ++ e.2.farSpan else l) s.farOld, inputs := s.inputs, planImages := s.planImages, boot := { bootsel := s.boot.bootsel, appImg := s.boot.appImg },
    aon := { powered := s.aon.powered, tripped := s.aon.tripped, pps := s.aon.pps, gtOn := s.aon.gtOn } }

/-- The temperatures and TRIPPED bits, which the always-on domain holds, over a reset. -/
def keepTherm (s t : State) : State :=
  let f (x : Therm) : Therm := { temp := x.temp, tripped := x.tripped }
  let t := { t with hall := { t.hall with therm := f s.hall.therm } }
  s.clusters.foldl (fun t e => t.modCluster e.1 fun k => { k with therm := f e.2.therm }) t

/-! ## Thermal limits (22 R385) -/

def modTherm (s : State) (k : Nat) (f : Therm → Therm) : State :=
  if k = 24 then { s with hall := { s.hall with therm := f s.hall.therm } } else s.modCluster k fun c => { c with therm := f c.therm }

def thermOf (s : State) (k : Nat) : Therm := if k = 24 then s.hall.therm else (s.cluster k).therm

/-- The limiter asks for a slower step; the request replaces a queued one only when that is faster. -/
def thermalStep (s : State) (k : Nat) : State :=
  let step := s.freq.cur + 1
  if s.fMin < step || 4 < step then
    let s := (s.modTherm k fun t => { t with alarm := true }).modFreq fun f => { f with fhold := true }
    { s with aon := { s.aon with alert := true },
             parts := s.parts.map fun e => (e.1, if e.2.row.valid then { e.2 with alarms := e.2.alarms + 1 } else e.2) }
  else
    let s := s.modFreq fun f => { f with tcap := step :: f.tcap }
    if s.freq.act.isNone then s.becomeActive step
    else s.modFreq fun f => { f with queue := match f.queue with
      | none => some step
      | some q => if q < step then some step else some q }

/-- One sensor's sample. -/
def sampleTherm (s : State) (k temp : Nat) : State :=
  let t := s.thermOf k
  let hot := t.twarn ≤ temp
  let s := s.modTherm k fun t => { t with temp := temp, warn := hot }
  if hot && !t.warn && !s.aon.tripped then s.thermalStep k else s

/-- The sensors' samples of a microsecond. -/
def sampleAll (s : State) (temps : List Nat) : State :=
  let l := ((List.range 25).zip temps)
  let s := l.foldl (fun s e => s.sampleTherm e.1 e.2) s
  let s := if s.allCool then s else s.modFreq fun f => { f with cool := false }
  match l.filter fun e => (s.thermOf e.1).ttrip ≤ e.2 with
  | [] => s
  | hot =>
    let s := hot.foldl (fun s e => s.modTherm e.1 fun t => { t with tripped := true }) s
    let t := s.keepTherm s.resetAll
    { t with aon := { t.aon with tripped := true } }

/-- RESET_N: after a trip it ends the reset only when every sensor is below its TWARN. -/
def pulseReset (s : State) : State :=
  if s.aon.tripped then
    if (List.range 25).all fun k => (s.thermOf k).temp < (s.thermOf k).twarn then
      let t := s.keepTherm s.resetAll
      { t with aon := { t.aon with tripped := false, powered := true } }
    else s
  else { s.resetAll with aon := { powered := true, pps := s.aon.pps, gtOn := s.aon.gtOn } }

/-! ## PPS_OUT (22 R393) -/

/-- PPS_OUT has pulsed at each whole second of GT. -/
def pulsePps (s : State) : State := { s with aon := { s.aon with pps := s.gt / (552 * 10 ^ 9) } }

/-! ## Boot (22 R389) -/

/-- The image passes the checks of step 2. -/
def imageOk (s : State) (i : FwImage) : Bool := i.sigOk && i.keyOk && s.fuses.fw ≤ i.version

/-- Step 3 for one thing that the firmware sets before service, with no edge to wait for: a site that failed the built-in test gives way to
the spare, links and turns as the gazetteer is to hold them. -/
def bootRepair (s : State) (r : Repair) : State :=
  match r with
  | .mapOut c => s.failSite (clusterOf c) (c % 4)
  | .clearLink t m d => s.modTier t fun k => { k with closed := k.closed.put m (k.closed.get 0 m ||| BitVec.ofNat 5 (2 ^ d)) }
  | .gazWrite t m link turn => s.modTier t fun k => { k with closed := k.closed.put m (~~~link), turns := k.turns.put m turn }
  | .degrade k => s.degradeCluster k
  | .pfail _ => s

/-- Steps 3 and 4: the firmware starts GT and gPTP, whose locks come from then on, sets the spares and gazetteers, verifies the application
cores' image in the same way as its own, and releases them. The training of channels and lanes leaves nothing that a program sees. -/
def startFirmware (s : State) : State :=
  let s := (s.boot.found.filter Repair.unitsOk).foldl bootRepair { s with aon := { s.aon with gtOn := true } }
  { s with boot := { s.boot with app := s.boot.appImg.filter s.imageOk } }

/-- The boot ROM with the EEPROM's image, where there is one, and the application cores' image. -/
def bootEvent (s : State) (imgs : BootImages) : State :=
  let set (b : BootSt) : State := { s with boot := { b with app := none, appImg := imgs.app, found := imgs.found } }
  match s.boot.bootsel % 4 with
  | 1 => set { s.boot with fw := none, err := false, waiting := true }
  | 3 => set { s.boot with fw := none, err := false, waiting := false }
  | k =>
    match imgs.fw.filter s.imageOk with
    | some i => (set { s.boot with fw := some i, err := false, waiting := false }).startFirmware
    | none => set { s.boot with fw := none, err := true, waiting := k = 2 }

/-- A host's image for a ROM that waits. -/
def hostImage (s : State) (i : FwImage) : State :=
  if !s.boot.waiting then s
  else if s.imageOk i then State.startFirmware { s with boot := { s.boot with fw := some i, waiting := false } }
  else { s with boot := { s.boot with err := true, waiting := false } }

/-! ## Attestation (22 R391) -/

/-- Writing 1 to ATTCMD starts a report. -/
def attestCmd (s : State) (p v : Nat) : State :=
  if v ≠ 1 || (s.part p).attcmd = 1 then s
  else
    let (n, s) := s.planWork
    (s.modPart p fun t => { t with attcmd := 1 }).schedAux (s.acc + 1 + Config.signDelay n) phEnd none (.attest p)

/-- The report over the nonce, signed now. -/
def attestReport (s : State) (p : Nat) : State :=
  let (k, s) := s.planWork
  let t := s.part p
  let fw := (s.boot.fw.map Config.fwDigest).getD 0
  let plan := (t.plan.map Config.planDigest).getD (Config.noPlanDigest k)
  let ver := (s.boot.fw.map fun i => i.version).getD 0
  let head := (0x31525441 + 2 ^ 32 + 2 ^ 40 * p)
    + 2 ^ 64 * ((ver % 2 ^ 16 + 2 ^ 16 * (s.fuses.fw % 256) + 2 ^ 24 * (s.fuses.plan % 256))
      + 2 ^ 64 * ((s.gt / 552) % 2 ^ 64 + 2 ^ 64 * (s.hall.scn.toNat + 2 ^ 32 * (t.plvar % 16))))
  let body := head + 2 ^ 256 * (t.nonce % 2 ^ 384 + 2 ^ 384 * (fw.toNat + 2 ^ 384 * plan.toNat))
  s.modPart p fun t => { t with attcmd := 2, report := body + 2 ^ 1408 * (Config.signature k).toNat }

def attestEvent (s : State) (p : Nat) : State := if (s.part p).attcmd = 1 then s.attestReport p else s

end State

/-! ## Rows -/

def execFreqreqWrite (v : Word) (s : State) : Res := .next (s.requestStep (v.toNat % 8))
def execRailRampComplete (s : State) : Res := .next s.rampDone

/-- UNDERVOLT_ADJUST: the firmware lowers a cluster's rail by one step, or raises it, when that is due. -/
def execUndervoltAdjust (cluster : Nat) (lower : Bool) (s : State) : Res :=
  if !(cluster < 24) then .fault .noSuchUnit
  else .next (if s.undervoltDue cluster = some lower then s.stepOfs cluster lower else s)

def execThermalSample (temps : List Nat) (s : State) : Res := .next (s.sampleAll temps)
def execReset (s : State) : Res := .next s.pulseReset

/-- AON_POWER_UP: the package stays without clocks until RESET_N. -/
def execAonPowerUp (s : State) : Res :=
  .next { s with gt := 0, seq := { s.seq with sync := false, hold := false }, timed := [], aon := { powered := false } }

/-- SUPPLY_LOSS: the package stops. -/
def execSupplyLoss (s : State) : Res := .next { s with aon := { s.aon with powered := false } }

def execBoot (imgs : BootImages) (s : State) : Res := .next (s.bootEvent imgs)
def execHostBootImageWrite (img : FwImage) (s : State) : Res := .next (s.hostImage img)

/-- FUSE_BLOW: field 0 holds the firmware's minimum, 1 the plans', 2 the test packages'. -/
def execFuseBlow (field minimum : Nat) (signed : Bool) (s : State) : Res :=
  let ok := signed && minimum ≤ 64 && s.boot.fw.any fun i => field ≠ 0 || minimum ≤ i.version
  .next (if !ok then s
    else match field with
      | 0 => { s with fuses := { s.fuses with fw := max s.fuses.fw minimum } }
      | 1 => { s with fuses := { s.fuses with plan := max s.fuses.plan minimum } }
      | 2 => { s with fuses := { s.fuses with test := max s.fuses.test minimum } }
      | _ => s)

def execAttcmdWrite (p : Nat) (v : Word) (s : State) : Res := if p < 8 then .next (s.attestCmd p v.toNat) else .fault .noSuchUnit
def execAttestationReportDone (p : Nat) (s : State) : Res := if p < 8 then .next (s.attestEvent p) else .fault .noSuchUnit
def execPpsPulse (s : State) : Res := .next s.pulsePps

end Sys2Proof.Machine
end

