-- ==== Sys2Proof/Machine/Scan.lean ====
section
/-! DEFINITION. The scan edge in the hall, the tiers and the cores, phase marks, TTC = L, and the rollback of ended tasks (06 R137 to
R140, 16 R288 to R291, 20 R361 to R364). -/

namespace Sys2Proof.Machine

namespace State

/-! ## Ended tasks (20 R362 to R364) -/

/-- t + 20: the records and output records of an ended task are voided. -/
def endVoidEvent (s : State) (t : Task) : State :=
  let s := (s.recNotes.filter fun e => e.1 = t).foldl (fun s e => s.recordPort none (e.2 + 0x28) 4 voidStamp.toNat) s
  { s with parts := s.parts.map fun e =>
      (e.1, { e.2 with outs := e.2.outs.map fun o => if o.2.writers.contains t then (o.1, { o.2 with w := false }) else o }) }

/-- Begins the rollback in the rooms of a partition. -/
def startRollback (s : State) (p : Nat) : State :=
  if s.ended.isEmpty then s
  else s.undoLogs.foldl (fun s e =>
    let pending := s.agenda.any fun v => v.act = .row (.rollback e.1)
    if !s.inPart p e.1 || pending then s else s.schedRow s.acc phRec none (.rollback e.1)) s

/-- A task has ended in this cycle: at or after TTC = L its rollback starts now. -/
def endLateEvent (s : State) (core : Nat) : State := if s.lenOf core ≤ s.ttcOf core then s.startRollback (s.partOf core) else s

/-- A line of a log that is to be restored. -/
def restorable (s : State) (e : UndoLine) : Bool := s.ended.contains e.task && !e.shared && !e.done

/-- A room restores one line per cycle, over the record port, until the edge. The line's words take new check bits, or the poison code
where the old word was not usable (20 R357). -/
def rollbackEvent (s : State) (core : Nat) : State :=
  let log := s.undoLogs.get [] core
  let s := match log.find? s.restorable with
    | none => s
    | some e =>
      let key := roomKey core (64 * e.line)
      let s := s.restoreLine key e
      let mark (x : UndoLine) : UndoLine := if x.line = e.line && x.task = e.task then { x with done := true } else x
      { s with undoLogs := s.undoLogs.put core (log.map mark) }.notePort key (ones 64)
  s.schedRow (s.acc + 1) phRec none (.rollback core)

/-- Entries of an ended task in all logs that satisfy f. -/
def countLines (s : State) (t : Task) (f : UndoLine → Bool) : Nat :=
  s.undoLogs.foldl (fun n e => n + (e.2.filter fun x => x.task = t && f x).length) 0

/-- The log entries of the tasks that have ended in the scan, at the edge, when their rollback is over. -/
def contLogs (s : State) : State :=
  let s' := s.contlog.foldl (fun (s : State) e =>
    let voided := (s.recNotes.filter fun n => n.1 = e.task).length
    let data := voided % 2 ^ 16 + 2 ^ 16 * (s.countLines e.task (·.done) % 2 ^ 16)
      + 2 ^ 32 * (s.countLines e.task (fun x => x.shared && !x.done) % 2 ^ 16) + 2 ^ 48 * (s.undoOvf.contains e.task).toNat
    s.log 2 { code := e.code, tier := tierOf e.core, pos := meshIdx e.core, berth := e.berth, sub := 0, scn := e.scn, acc := e.at_,
              addr := e.tipc, data := data }) s
  { s' with contlog := [] }

/-! ## Phases (06 R139, R140) -/

/-- The phase of a core ends in this cycle. -/
def endPhase (s : State) (c : Nat) : State :=
  let k := s.core c
  let s := if k.slipped then k.noted.foldl (fun s r => s.recordPort none (r + 0x28) 4 voidStamp.toNat) s else s
  let recent := k.slipPhases.filter fun e => s.acc < e.2 + 2 ^ 20
  let s := s.modCore c fun k =>
    { k with slipped := false, noted := [], phaseStart := s.acc, slipPhases := if k.slipped then (k.phaseStart, s.acc) :: recent else recent,
             islands := k.islands.map fun i => (i.1, { i.2 with slipped := false }) }
  match (s.core c).owner with
  | none => s
  | some (p, _) => s.modPart p fun t =>
      { t with journeys := t.journeys.map fun j => if j.2.core = some c then (j.1, { j.2 with itc := { j.2.itc with slipped := false } }) else j }

/-- A pending choice of slot-map entry takes effect at a mark of logical core 0 (12 R257). -/
def takeSlot (s : State) (p m : Nat) : State :=
  match (s.part p).slotPend with
  | some (n, t, _) => if t + 16 < m then s.modPart p fun k => { k with slotEntry := n, slotPend := none } else s
  | none => s

/-- Phase mark k of a core. -/
def markEvent (s : State) (c k : Nat) : State :=
  match (s.core c).phases[k]? with
  | none => s
  | some r =>
    let s := s.endPhase c
    match (s.core c).owner with
    | some (p, 0) => (s.takeSlot p r.mark).sendHb p k r.mark
    | _ => s

/-! ## TTC = L (06 R138) -/

/-- Cycles that the rollback and the carries of a partition still need. -/
def idleWork (s : State) (p : Nat) : Nat :=
  let rows := (List.range 16).filterMap fun j => s.activeRow p j
  max (if s.ended.isEmpty then 0 else 4112) (if (s.carryNext p 0).isSome then carryCycles rows else 0)

/-- The berths of a partition whose TTC reaches L in this cycle, and that have not halted, are due for their slip. -/
def overrunEvent (s : State) (p : Nat) : State :=
  match (if (s.part p).running then (s.part p).plan else none) with
  | none => s
  | some pl =>
    let due (c : Nat) (x : Berth) : Bool :=
      s.inPart p c && s.ttcOf c = pl.len && x.used && x.journey.isNone && (x.run = 1 || x.run = 4)
    s.mapBerths fun c _ x => if due c x then { x with overDue := true } else x

/-- TTC reaches L in a partition. -/
def scanEndEvent (s : State) (p : Nat) : State :=
  if !(s.part p).running || (s.part p).plan.isNone then s
  else
    let s := ((s.overrunEvent p).startRollback p).carryFrom p 0
    s.schedAux (s.acc + s.idleWork p) phSample none (.rsyTurn p)

/-! ## The edge in a tier (06 R137, 16 R291) -/

/-- Every phase of the cores of a clock that misses an edge counts as slipped: the foreground, the islands, and those of journeys placed
there. -/
def slipTier (s : State) (t : Nat) : State :=
  let slip (j : JourneySt) : JourneySt := if j.core.any fun c => s.clockOf c = t then { j with itc := { j.itc with slipped := true } } else j
  { s with parts := s.parts.map fun e => (e.1, { e.2 with journeys := e.2.journeys.map fun j => (j.1, slip j.2) }), cores := s.cores.map fun e =>
      if s.clockOf e.1 ≠ t then e
      else
        let isls := (e.2.berths.filterMap fun b => if b.2.isl = 0 then none else some b.2.isl).eraseDups
        let tbl := isls.foldl (fun (m : Tbl Island) i => m.put i { m.get {} i with slipped := true }) e.2.islands
        (e.1, { e.2 with slipped := true, islands := tbl }) }

/-- The edge cycle in the cores of a clock that look for the edge: TTC, SCN and the edge copy, or the miss. -/
def tierEdgeEvent (s : State) (t : Nat) : State :=
  let k := s.tier t
  match k.taken with
  | none => if (s.tier (clockTier t)).power.state < 2 then (s.slipTier t).modTier t fun k => { k with edgeMissed := true } else s
  | some (copy, _) =>
    let n := copy.extractLsb' 128 32
    let missed := k.edgeMissed
    let s := s.modTier t fun k => { k with ttc := 0, scn := n, edge := copy, edgeMissed := false, edgeAt := s.acc }
    if missed then s.logEv 3 0x39 (clockTier t) 0 0 0 0 (clockTier t + 2 ^ 32 * n.toNat) else s

/-! ## The edge in the cores and the package (06 R137) -/

/-- Clocks that take the edge. -/
def tookEdge (s : State) (t : Nat) : Bool := (s.tier t).taken.isSome

/-- A core takes the edge. -/
def coreTook (s : State) (c : Nat) : Bool := s.tookEdge (s.clockOf c)

/-- Some core of the tier takes the edge. -/
def tierTook (s : State) (t : Nat) : Bool := s.tookEdge t || (s.splitsOf t).any s.tookEdge

/-- What no scan keeps: pre-emptions and releases under way, and marks of the scan that has ended. A tier that misses the edge keeps its
own. -/
def scanBound (s : State) (a : Act) : Bool :=
  match a with
  | .row (.phaseMark c _) => s.coreTook c
  | .row (.rollback _) | .row (.berthRelease _) | .row (.journeyWindowOpen ..) | .aux (.preqStop ..)
  | .aux (.scanEnd _) | .aux (.rsyTurn _) => true
  | _ => false

/-- The undo logs and the notes of the scan's tasks are cleared; a void that is still to come keeps its records. -/
def clearTasks (s : State) : State :=
  let later := s.agenda.filterMap fun e => match e.act with
    | .aux (.endVoid t) => some (e.at_, t)
    | _ => none
  let s := later.foldl (fun s e =>
    (s.recNotes.filter fun n => n.1 = e.2).foldl (fun s n =>
      s.schedRow e.1 phRec none (.roomWriteEffect (.stamp none (coreOfKey n.2) (offOfKey n.2) voidStamp))) s) s
  { s with undoLogs := [], undoOvf := [], oldNotes := s.recNotes, oldLogs := s.undoLogs, oldOvf := s.undoOvf, recNotes := [], ended := [] }

/-- A core's state of one scan. -/
def coreScan (s : State) (c : Nat) : State :=
  let s := s.endPhase c
  let s := s.modCore c fun k =>
    let isls := (k.berths.filterMap fun b => if b.2.isl = 0 then none else some b.2.isl).eraseDups
    { k with rq := false, dacc := BitVec.allOnes 64, dpsn := false, islands := isls.map fun i => (i, { base := s.acc }),
             berths := k.berths.map fun b => (b.1, { b.2 with gated := 0, overDue := false, discards := b.2.discards.filter fun d =>
               s.acc < d.2 + 2 ^ 20 }) }
  s.railCheck (clusterOf c) s.acc

/-- Pending gates are due at an edge, and a waking tier whose w has come is awake (12 R262, R263). -/
def tierPowerEdge (s : State) (t : Nat) : State :=
  let w := (s.tier t).power
  if !s.tierTook t then s
  else if w.state = 1 then (s.modTier t fun k => { k with power := { k.power with edge := true } }).gateEvent t
  else if w.state = 3 && w.wakeAt ≤ s.acc then s.modTier t fun k => { k with power := { k.power with state := 0 } }
  else s

/-- A berth takes its plan entry; one that had not reached HALT is cut off. -/
def berthEdge (s : State) (c b : Nat) : State :=
  let x := s.berth c b
  if !x.used || x.journey.isSome then s
  else
    let cut := x.run = 1 || x.run = 3 || x.run = 4
    let s := if cut then (s.cutBerth c b).stopMmacs fun o => o.core = c && o.berth = b else s
    s.enterBerth c b

/-- The berths of the cores in f that take the edge awake. -/
def enterAll (s : State) (f : Nat → Bool) : State :=
  let ids := s.cores.flatMap fun e => if f e.1 && s.coreTook e.1 && (s.tier (tierOf e.1)).power.state < 2 then
      e.2.berths.map fun b => (e.1, b.1) else []
  ids.foldl (fun s e => s.berthEdge e.1 e.2) s

/-- Channels that failed three times are swapped for spares (12 R249, 20 R375). -/
def swapChannels (s : State) : State :=
  let s := s.hall.chanDue.foldl (fun s ch =>
    if s.hall.swapped.contains ch then s
    else if s.hall.swapped.length < 16 then
      ({ s with hall := { s.hall with swapped := s.hall.swapped ++ [ch] } }.noteFault .swap 0).logEv 1 0x12 6 (ch / 32) 0 0 ch (288 + s.hall.swapped.length)
    else s.logEv 1 0x13 6 (ch / 32) 0 0 ch 0) s
  { s with hall := { s.hall with chan := [], chanDue := [] } }

/-- Bond lanes that failed in three words in a row are replaced, while their port has a spare; the port of one that fails after that is
reported to the firmware as failed (20 R358). -/
def swapLanes (s : State) (t : Nat) : State :=
  (s.tier t).bonds.foldl (fun s e =>
    if e.2 < 3 then s
    else
      let m := e.1 / 16
      let c := coreAtMesh t m
      let used := ((s.tier t).posstat.get {} m).lsw
      let s := s.modTier t fun k => { k with bonds := k.bonds.put e.1 0 }
      if used < 2 then (s.modPosStat c fun p => { p with lsw := used + 1 }).logEv 1 0x15 t m 0 0 (e.1 % 16) used
      else (s.modTier t fun k => { k with portFail := setIns k.portFail m }).noteFault .bondPort c) s

/-! ## The management firmware at an edge (20 R365) -/

/-- What the firmware does at a threshold; sites, links, clusters and PFAIL change at the next edge. -/
def repair (s : State) (r : Repair) : State :=
  match r with
  | .mapOut c => s.modCluster (clusterOf c) fun k => if k.mapOut.contains (c % 4) then k else { k with mapOut := k.mapOut ++ [c % 4] }
  | .clearLink t m d => s.modTier t fun k => { k with closing := k.closing.put m (k.closing.get 0 m ||| BitVec.ofNat 5 (2 ^ d)) }
  | .gazWrite t m link turn => s.modTier t fun k => { k with gazWrites := k.gazWrites.put m (link, turn) }
  | .degrade k => s.modCluster k fun c => { c with degrade := true }
  | .pfail code => { s with test := { s.test with pfailReq := s.test.pfailReq ++ [code] } }

/-- Faults of a kind and a unit in the last n scans. -/
def faultCount (s : State) (k : FaultKind) (unit n : Nat) : Nat :=
  (s.faults.filter fun f => f.1 = k.num && f.2.1 = unit && s.scans ≤ f.2.2 + n).length

/-- Faults of a kind whose unit satisfies f. -/
def faultsOf (s : State) (k : FaultKind) (f : Nat → Bool) : Nat := (s.faults.filter fun e => e.1 = k.num && f e.2.1).length

/-- Faults that an action has answered count no more. -/
def answered (s : State) (l : List FaultKind) (f : Nat → Bool) : State :=
  { s with faults := s.faults.filter fun e => !(l.any (fun k => k.num = e.1) && f e.2.1) }

/-- A site at which a threshold is reached is mapped out. -/
def siteAction (s : State) (c : Nat) : State :=
  if 2 ≤ s.faultsOf .regParity (· = c) || 16 ≤ s.faultCount .dupRepair c 1 || 8 ≤ s.faultsOf .fetchParity (· = c)
      || 1 ≤ s.faultsOf .bondPort (· = c) then
    (s.answered [.regParity, .fetchParity, .bondPort] (· = c)).repair (.mapOut c)
  else s

/-- A link with 16 flit errors in 1,000 scans is closed. -/
def linkAction (s : State) (l : Nat) : State :=
  if 16 ≤ s.faultCount .flit l 1000 then
    (s.answered [.flit] (· = l)).repair (.clearLink (l / 128) (l / 8 % 16) (l % 8 - 1))
  else s

/-- A cluster whose MXE or B store counts as failed. -/
def engineAction (s : State) (cl : Nat) : State :=
  let mine (key : Nat) : Bool := key / 2 ^ 42 % 8 * 4 + key / 2 ^ 40 % 4 = cl
  if 3 ≤ s.faultsOf .mismatch (· = cl) || 2 ≤ s.faultsOf .bLine mine then
    ((s.answered [.mismatch] (· = cl)).answered [.bLine] mine).repair (.degrade cl)
  else s

/-- The rail of an array lies at its nominal maximum: that of a cluster with OFS 0; only clusters have an offset. -/
def railMax (s : State) (arr : Nat) : Bool :=
  if arr < 96 then (s.cluster (clusterOf arr)).ofs = 0 else if arr < 120 then (s.cluster (arr - 96)).ofs = 0 else true

/-- The conditions of PFAIL: three channel swaps, or CORR of one array above 1,000 with its rail at the nominal maximum. -/
def pfailDue (s : State) : Bool :=
  3 ≤ s.faultsOf .swap (fun _ => true) || (List.range 128).any fun a =>
    1000 < (s.faults.filter fun f => f.1 = FaultKind.corr.num && f.2.1 = a && s.test.pfailAt ≤ f.2.2).length && s.railMax a

/-- PFAIL. The cause code is not stated (A15). -/
def pfailAction (s : State) : State :=
  if s.pfailDue then
    let (w, s) := s.freeWord
    ({ s with test := { s.test with pfailAt := s.scans } }.answered [.swap] fun _ => true).repair (.pfail w.toNat)
  else s

/-- The firmware counts over a sliding window of 10^6 scans and acts on what has reached its threshold. -/
def firmwareEdge (s : State) : State :=
  let s := { s with scans := s.scans + 1, faults := s.faults.filter fun f => s.scans < f.2.2 + 1000000 }
  if s.boot.fw.isNone || s.faults.isEmpty then s
  else
    let units (k : FaultKind) : List Nat := ((s.faults.filter fun f => f.1 = k.num).map fun f => f.2.1).eraseDups
    let s := (List.range 96).foldl siteAction s
    let s := (units .flit).foldl linkAction s
    ((List.range 24).foldl engineAction s).pfailAction

/-- PFAIL as asked for. -/
def pfailEdge (s : State) : State :=
  let s' := s.test.pfailReq.foldl (fun (s : State) code => { s with test := { s.test with pfail := true } }.logEv 3 0x38 6 0 0 0 0 code) s
  { s' with test := { s'.test with pfailReq := [] } }

/-- Links of a tier as the firmware has asked for them. An action is logged; the code, ADDR and DATA of a link's closing are not stated
(A15). -/
def linkEdge (s : State) (t : Nat) : State :=
  let k := s.tier t
  if k.closing.isEmpty && k.gazWrites.isEmpty then s
  else
    let s := k.closing.foldl (fun (s : State) e =>
      let (code, s) := s.freeWord
      let (addr, s) := s.freeWord
      let (data, s) := s.freeWord
      s.logEv 3 (code.toNat % 256) t e.1 0 0 addr.toNat data.toNat) s
    s.modTier t fun k =>
      let closed := k.gazWrites.foldl (fun m e => m.put e.1 (~~~e.2.1)) k.closed
      { k with closing := [], gazWrites := [], turns := k.gazWrites.foldl (fun m e => m.put e.1 e.2.2) k.turns,
               closed := k.closing.foldl (fun m e => m.put e.1 (m.get 0 e.1 ||| e.2)) closed }

/-- The gazetteer words of a tier, for every partition, but for GEN (11 R228). -/
def gazState (s : State) (t : Nat) : List (List Nat) :=
  (List.range 8).map fun p => s.gazTier p t :: (List.range 16).map fun m => s.gazWord p t m

/-- Links closed by the firmware, and sites and clusters that change, at this edge (09 R199, R200, 11 R229). -/
def repairs (s : State) : State :=
  let s := (List.range 6).foldl linkEdge s.firmwareEdge.pfailEdge
  (List.range 24).foldl (fun s k => s.repairEdge k) s

/-- GEN of the tiers whose gazetteer has changed at this edge. -/
def stepGen (s : State) (before : List (List (List Nat))) : State :=
  (List.range 6).foldl (fun s t =>
    if before.getD t [] = s.gazState t then s else s.modTier t fun k => { k with gen := k.gen + 1 }) s

/-- What a core's timetable brings in the scan that begins. -/
def schedCore (s : State) (e : Nat × Core) : State :=
  if !s.coreTook e.1 || !((e.2.owner.map fun o => (s.part o.1).running).getD false) then s
  else ((List.range e.2.phases.length).zip e.2.phases).foldl (fun s r =>
    if r.1 = 0 then s else s.schedRow (s.acc + r.2.mark) phMark none (.phaseMark e.1 r.1)) s

/-- What a partition's plan brings in the scan that begins (06 R138, 18 R326, 23 R397 to R399). -/
def schedPart (s : State) (p : Nat) : State :=
  match (if (s.part p).running then (s.part p).plan else none) with
  | none => s
  | some pl =>
    let s := s.schedAux (s.acc + pl.len) phMark none (.scanEnd p)
    let s := (List.range 16).foldl (fun s j => match s.activeRow p j with
      | some r => s.schedRow (s.acc + r.start) phMark none (.journeyWindowOpen p j)
      | none => s) s
    let took0 := (s.physCore p 0).any s.coreTook
    -- a standby that has missed a heartbeat of its own comes back with FIT = 0 (23 R401)
    let s := if took0 then s.sendHb p 0 0 else if (s.pair p).en && (s.pair p).role = 2 then s.loseFit p else s
    ((s.sendDig p).pairDues p).rsyEdge p

/-- The edge of a partition's plan: a stop, an activation, a fallback. -/
def planEdge (s : State) (p : Nat) : State :=
  let s := s.stopAtEdge p
  let act := (s.part p).activating
  let s := s.activateCores p s.hall.scn
  (if act then s.activatePair p s.hall.scn else s).fallback p

/-- The edge cycle, once every tier has taken it or missed it. -/
def coreEdgeEvent (s : State) : State :=
  let s := { s with agenda := s.agenda.filter fun e => !s.scanBound e.act }
  let s := s.contLogs.clearTasks
  let s := (s.cores.map fun e => e.1).foldl (fun s c => if s.coreTook c then s.coreScan c else s) s
  let s := (List.range 6).foldl swapLanes s.swapChannels
  let gaz := (List.range 6).map s.gazState
  let s := (List.range 8).foldl planEdge s.repairs
  let s := s.stepGen gaz
  let s := (List.range 6).foldl tierPowerEdge s
  let s := s.enterAll fun _ => true
  let s := s.undervoltEdge.freqEdge.ofsEdge.drainAll
  let s := { s with parts := s.parts.map fun (e : Nat × Part) => (e.1, { e.2 with slotEntry := 0, slotPend := none, delivered := [] }),
                    seq := { s.seq with bE := none, edgeAt := none } }
  let s := s.cores.foldl schedCore s
  let s := (List.range 8).foldl schedPart s
  { s with tiers := s.tiers.map fun (e : Nat × Tier) => (e.1, { e.2 with taken := none }) }.joinClocks

/-- The edge cycle of the cores of a clock that have taken an edge alone, in a cycle in which they look for one outside b_E (16 R291). -/
def loneEdgeEvent (s : State) (t : Nat) : State :=
  let s := s.tierEdgeEvent t
  let mine := (s.cores.map fun e => e.1).filter fun c => s.clockOf c = t
  let s := { s with agenda := s.agenda.filter fun e => match e.act with
    | .row (.phaseMark c _) => !mine.contains c
    | _ => true }
  let s := mine.foldl coreScan s
  let s := (s.tierPowerEdge (clockTier t)).enterAll mine.contains
  let s := (s.cores.filter fun e => mine.contains e.1).foldl schedCore s
  let s := s.parts.foldl (fun s e => match e.2.plan with
    | some pl => if e.2.running then s.schedAux (s.acc + pl.len) phMark none (.overrun e.1) else s
    | none => s) s
  s.modTier t fun k => { k with taken := none }

/-- EDGE copies that a tier reads as 1 in a cycle other than b_E: an edge for the cores that look for one (16 R291); counted where none
does. -/
def strayEdge (s : State) (t : Nat) (copies : BitVec 2) : State :=
  if 6 ≤ t then s.countCrc
  else
    let s := s.splitClock t
    let looks := (t :: s.splitsOf t).filter s.looksForEdge
    if looks.isEmpty then s.countCrc
    else
      let data := if s.hall.sent = some s.acc then s.hall.sentData else 0
      looks.foldl (fun s k =>
        let s := s.takeEdge true k copies (BitVec.ofNat 512 data)
        if (s.tier k).taken.isSome then s.schedAux (s.acc + 6) phMark none (.loneEdge k) else s) s

/-- The control cores, which start with a plan, take their interrupt at a scan edge (18 R347, 22 R389). -/
def hartEdges (s : State) : State :=
  if !s.parts.any fun e => e.2.running then s
  else { s with harts := (List.range 8).foldl (fun m n => m.put n { m.get {} n with edges := (m.get {} n).edges + 1 }) s.harts }

/-- b_E: the hall's part of the edge. -/
def hallEdgeEvent (s : State) : State :=
  let n := s.seq.scnNext
  let s := (List.range 6).foldl splitClock s
  let looks := s.clocks.filter s.looksForEdge
  let s := (List.range 8).foldl activateHall s.hartEdges
  (List.range 8).foldl (fun s p => s.digestEdge p n) (s.hallEdge looks)

end State

/-! ## Rows -/

def execScanEdge (s : State) : Res := .next s.hallEdgeEvent

def execPhaseMark (core k : Nat) (s : State) : Res := if coreOk core then .next (s.markEvent core k) else .fault .noSuchUnit

def execRollback (core : Nat) (s : State) : Res := if coreOk core then .next (s.rollbackEvent core) else .fault .noSuchUnit

end Sys2Proof.Machine
end

