-- ==== Sys2Proof/Machine/Reliab.lean ====
section
/-! DEFINITION. Patrol scrub, repair and test packages, freeze, and what the hall's harts do: their windows, the hall registers, and the
health counters that a read clears (13 R276, 18 R420, 20 R355 to R375). -/

namespace Sys2Proof.Machine

namespace State

/-! ## Patrol scrub (20 R357) -/

/-- Key of an array's first byte, and its lines of 64 bytes. -/
def scrubSpan (a : ScrubArr) : Nat × Nat :=
  match a with
  | .room c => (roomKey c 0, 2 ^ 18)
  | .bstore k => (bsKey k 0, 2 ^ 17)
  | .hall => (hallKey 0, 2 ^ 19)
  | .replica t => (commonKey t 0, 2 ^ 16)

/-- Line k of an array is read: findings are counted, and a line with one is written back in the next cycle. -/
def scrubLine (s : State) (key : Nat) : State :=
  let bad := (s.lineEcc key).filter fun e => e.2 = .corr || e.2 = .unc
  if bad.isEmpty then s
  else
    let s := bad.foldl (fun s e => s.countEcc e.1 (e.2 = .unc)) s
    { s with scrubs := setIns s.scrubs key }.schedAux (s.acc + 1) phEnd none (.scrubBack key)

/-- The line of an array whose turn it is: one every 256 cycles, from line 0 at reset (A1). -/
def scrubTurn (s : State) (a : ScrubArr) : State :=
  let (base, n) := scrubSpan a
  s.scrubLine (base + 64 * (s.acc / 256 % n))

def allArrays : List ScrubArr :=
  (List.range 96).map ScrubArr.room ++ (List.range 24).map ScrubArr.bstore ++ [ScrubArr.hall] ++ (List.range 7).map ScrubArr.replica

/-- The scrub of a cycle, in every array. -/
def scrubAll (s : State) : State := if s.ecc.isEmpty || s.acc % 256 ≠ 0 then s else allArrays.foldl scrubTurn s

/-- The write-back, unless a port has written the line since. -/
def scrubBackEvent (s : State) (key : Nat) : State :=
  if !s.scrubs.contains key then s
  else
    let fix (e : Nat × Ecc) : Option (Nat × Ecc) :=
      if key ≤ e.1 && e.1 < key + 64 then
        match e.2 with
        | .corr => none
        | .unc => some (e.1, .poison)
        | x => some (e.1, x)
      else some e
    { s with ecc := s.ecc.filterMap fix, scrubs := setDel s.scrubs key }

/-! ## Test packages (20 R366) -/

/-- The partition of a cluster. -/
def partOfCluster (s : State) (k : Nat) : Option Nat := (List.range 8).find? fun p => (s.clmask p).getLsbD k

/-- A cluster may be tested: a variant covers its loss, or the package is the standby. One that no partition owns is covered by no variant,
and the package is then the standby when some partition of it is. -/
def mayTest (s : State) (k : Nat) : Bool :=
  match s.partOfCluster k with
  | none => s.parts.any fun e => e.2.row.valid && (s.pair e.1).role = 2
  | some p => (s.pair p).role = 2 || ((s.part p).plan.any fun pl => pl.variants.any fun v => v.dmask.getLsbD k)

/-- A signed test package is verified and applied, or refused: its header, its signature, its version. -/
def testApply (s : State) (t : TestPkg) : State :=
  let start (s : State) : State := { s with test := { s.test with pkg := some t } }
  if s.test.pkg.isSome || !t.headOk || !t.sigOk || t.version < s.fuses.test then s
  else match t.target with
    | 0 =>
      if 96 ≤ t.unit || (s.cluster (clusterOf t.unit)).outsite ≠ 7 || (s.cluster (clusterOf t.unit)).health ≠ 0 then s
      else (start s).repair (.mapOut t.unit)
    | 1 => if 24 ≤ t.unit || !s.mayTest t.unit then s else start s
    | 2 => if 24 ≤ t.unit || (s.cluster t.unit).outsite ≠ 7 then s else start s
    | _ => s

/-- The core whose position a test package held, or the first of the cluster. -/
def testCore (t : TestPkg) : Nat := if t.target = 0 then t.unit else 4 * t.unit

/-- The vectors are done. A site that passes goes back to its position at a later edge; one that fails stays out. -/
def testDone (s : State) : State :=
  match s.test.pkg with
  | none => s
  | some t =>
    let s := { s with test := { s.test with pkg := none } }.logEv 3 (if t.pass then 0x33 else 0x34)
      (tierOf (testCore t)) (meshIdx (testCore t)) 0 0 (wsKey (testCore t) 0) t.covid.toNat
    match t.target, t.pass with
    | 0, true => s.modCluster (clusterOf t.unit) fun k => { k with mapOut := k.mapOut ++ [4] }
    | 2, false => s.modCluster t.unit fun k => if k.outsite = 7 then { k with outsite := 4 } else { k with lost := setIns k.lost 4 }
    | _, _ => s

/-! ## Freeze (20 R367) -/

/-- A request sampled in this cycle: the clocks stop at the end of the eighth cycle after it. -/
def freezeReq (s : State) : State :=
  { s with aon := { s.aon with freezeAt := some ((s.aon.freezeAt.map fun t => min t (s.acc + 8)).getD (s.acc + 8)) } }

/-! ## Registers of the hall (18 R420) -/

def discardStore (s : State) : State := { s with hall := { s.hall with hsdisc := satInc 32 s.hall.hsdisc } }

/-- Fields of a register word. -/
def fld (v lo n : Nat) : Nat := v / 2 ^ lo % 2 ^ n

/-- XLB or SVB from its word (17 R318). -/
def xbOf (v : Nat) : XbRow :=
  { tier := fld v 0 3, pos := fld v 3 4, berth := fld v 7 4, valid := v.testBit 11, queue := fld v 12 19 / 128 * 128 }

def xbWord (r : XbRow) : Nat := r.tier % 8 + 8 * (r.pos % 16) + 2 ^ 7 * (r.berth % 16) + 2 ^ 11 * r.valid.toNat + 2 ^ 12 * (r.queue % 2 ^ 19)

/-- RING(c, n) is written. -/
def writeRing (s : State) (p l n v : Nat) : State :=
  match s.physCore p l with
  | none => s
  | some c => s.modRing c n fun r =>
      { r with base := fld v 0 19 / 32 * 32, sizem1 := fld v 20 8, valid := v.testBit 44, ovf := r.ovf && !v.testBit 45,
               lost := r.lost && !v.testBit 46 }

/-- A designation row's place or length, while no plan runs (23 R404). -/
def writeDesig (s : State) (p k v : Nat) (len : Bool) : State :=
  if (s.part p).plstat ≠ 0 && (s.part p).plstat ≠ 2 then s
  else s.modPair p fun x =>
    let r := x.desig.get (0, 0) k
    { x with desig := x.desig.put k (if len then (r.1, v / 64 * 64) else (v % 2 ^ 48 / 64 * 64, r.2)) }

/-- PCFG. A standby that is paired again after silence has FIT = 0 (23 R401). -/
def writePcfg (s : State) (p v : Nat) : State :=
  let s := if v.testBit 0 && !(s.pair p).en && (s.pair p).role = 2 then s.loseFit p else s
  s.modPair p fun x => { x with en := v.testBit 0, pairid := v.testBit 1, initrole := fld v 2 2, hbtol := fld v 32 16, tdec := fld v 48 16 }

/-- Offsets of the partition window, in 8-byte words, that hold read-only registers (18 R420). -/
def partReadOnly (s : State) (p o : Nat) : Bool :=
  let r := (s.part p).row
  o = 0x18 || (0x100 ≤ o && o < 0x128) || o = 0x1000 || (0x2000 ≤ o && o < 0x2000 + 8 * r.smcnt)
    || (0x3000 ≤ o && o < 0x3000 + 16 * r.omcnt) || o = 0xE008 || (0xF100 ≤ o && o < 0xF210)

/-- A store to the partition window. One to a read-only register is discarded and counted, one to an unassigned offset is ignored. -/
def writePartReg (s : State) (p o v : Nat) : State :=
  if o = 0 then s.modPart p fun t => { t with pladdr := v % 2 ^ 37 + v / 2 ^ 63 % 2 * 2 ^ 63 }
  else if o = 8 then s.modPart p fun t => { t with pllen := v % 2 ^ 32 }
  else if o = 0x10 then (match v % 16 with
    | 1 => s.stageAt p
    | 2 => s.activateCmd p
    | 3 => s.abortCmd p
    | 4 => s.stopCmd p
    | _ => s)
  else if o = 0x1008 then s.modPart p fun t => { t with xlb := xbOf v }
  else if o = 0x1010 then s.modPart p fun t => { t with svb := xbOf v }
  else if 0x1100 ≤ o && o < 0x1100 + 32 * 96 then s.writeRing p ((o - 0x1100) / 32) ((o - 0x1100) / 8 % 4) v
  else if 0x4000 ≤ o && o < 0x4400 then s.writeDesig p ((o - 0x4000) / 16) v (o / 8 % 2 = 1)
  else if o = 0xE000 then s.writePcfg p v
  else if 0xF000 ≤ o && o < 0xF030 then
    let k := (o - 0xF000) / 8
    s.modPart p fun t => { t with nonce := t.nonce - fld t.nonce (64 * k) 64 * 2 ^ (64 * k) + v * 2 ^ (64 * k) }
  else if o = 0xF030 then s.attestCmd p v
  else if s.partReadOnly p o then s.discardStore
  else s

/-- LOGCTL(k): RD and OVF. -/
def writeLogctl (s : State) (k v : Nat) : State :=
  let l := s.logs.get {} k
  let rd := fld v 8 8
  { s with logs := s.logs.put k { l with rd := rd, unread := l.unread - (rd + 256 - l.rd) % 256, ovf := l.ovf && !v.testBit 16 } }

def writeTherm (s : State) (k v : Nat) : State :=
  s.modTherm k fun t =>
    { t with alarm := t.alarm && !v.testBit 9, tripped := t.tripped && !v.testBit 10, twarn := fld v 16 8,
             ttrip := if fld v 24 8 ≤ 125 then fld v 24 8 else t.ttrip }

/-- The registers of the scan sequencer (16 R287), to which R420 gives no offset: the model has them in a space of their own, in the rule's
order (A32, DESIGN CHOICE). -/
def writeSeq (s : State) (o v : Nat) : State :=
  let q := s.seq
  match o with
  | 0 => { s with seq := { q with t0 := BitVec.ofNat 64 v } }
  | 8 => let n := v % 2 ^ 27; if 31250 ≤ n && n ≤ 100000000 then { s with seq := { q with per := n } } else s
  | 0x10 =>
    let en := v.testBit 0
    { s with seq := { q with en := en, scnNext := BitVec.ofNat 32 (v / 2 ^ 32), next := if en && !q.en then q.t0.toNat else q.next } }
  | _ => s

/-- What they read. -/
def seqReg (s : State) (o : Nat) : Nat :=
  match o with
  | 0 => s.seq.t0.toNat
  | 8 => s.seq.per
  | 0x10 => s.seq.en.toNat + 2 * s.seq.sync.toNat + 4 * s.seq.hold.toNat + 2 ^ 32 * s.seq.scnNext.toNat
  | _ => 0

/-- Read-only registers of the diagnostic window (20 R368). -/
def diagReadOnly (o : Nat) : Bool :=
  (8 ≤ o && o < 0x40) || (0x100 ≤ o && o < 0x1C0) || (0x200 ≤ o && o < 0x500) || (0x600 ≤ o && o < 0x900) || (0x1000 ≤ o && o < 0x9000)

/-- A store to the diagnostic window, which is the management core's to write: the W1C fields clear for it alone (20 R368). -/
def writeDiag (s : State) (h : Hart) (o v : Nat) : State :=
  if diagReadOnly o && !(0x40 ≤ o && o < 0x60) then s.discardStore
  else if h ≠ .mgmt then s
  else if o = 0 then { s with test := { s.test with pfail := s.test.pfail && !v.testBit 48 } }
  else if 0x40 ≤ o && o < 0x60 then s.writeLogctl ((o - 0x40) / 8) v
  else s

/-- A store to the power window, which is the management core's to write (22 R386). -/
def writePower (s : State) (h : Hart) (o v : Nat) : State :=
  if o = 0 then s.discardStore
  else if h ≠ .mgmt then s
  else if o = 8 then s.requestStep (v % 8)
  else if 0x100 ≤ o && o < 0x1C0 then (if v % 16 ≤ 12 then s.setOfs ((o - 0x100) / 8) (v % 16) else s)
  else if 0x200 ≤ o && o < 0x2C8 then s.writeTherm ((o - 0x200) / 8) v
  else s

/-- A store to a stamp-gate window (16 R302): GREQ; GDATA and GSTAT are read-only. -/
def writeGate (s : State) (o v : Nat) : State :=
  match o % 256 with
  | 0 => s.gateStore (o / 256) (BitVec.ofNat 64 v)
  | 8 | 0x10 => s.discardStore
  | _ => s

/-- A hart's store to the hall register space. -/
def writeHall (s : State) (h : Hart) (off v : Nat) : State :=
  if off % 8 ≠ 0 then s
  else if off < 0x80000 then s.writePartReg (off / 0x10000) (off % 0x10000) v
  else if off < 0x90000 then s.writeDiag h (off - 0x80000) v
  else if off < 0xA0000 then s.writePower h (off - 0x90000) v
  else if off < 0xA0800 then s.writeGate (off - 0xA0000) v
  else s

/-! ## What the registers read (16 R296, R299, R302, 18 R341, R344, 20 R368 to R374, 22 R386, R387, 23 R410) -/

/-- Fields side by side from bit 0 up, each with its width. -/
def packWord : List (Nat × Nat) → Nat
  | [] => 0
  | (v, n) :: t => v % 2 ^ n + 2 ^ n * packWord t

def rowWord (r : PartRow) (k : Nat) : Nat :=
  match k with
  | 0 => packWord [(r.clmask.toNat, 24), (r.valid.toNat, 1), (r.a40.toNat, 1), (0, 6), (r.smbase, 8), (r.smcnt, 8), (r.ombase, 8), (r.omcnt, 8)]
  | 1 => r.slots.toNat
  | 2 => packWord [(r.hbase, 25), (r.hsize, 25)]
  | 3 => packWord [(r.fbase, 21), (r.fsize, 21)]
  | _ => r.prelat % 2 ^ 32

def ringWord (r : Ring) : Nat :=
  packWord [(r.base, 19), (0, 1), (r.sizem1, 8), (r.wr, 8), (r.rd, 8), (r.valid.toNat, 1), (r.ovf.toNat, 1), (r.lost.toNat, 1)]

def outWord (r : OutRow) : Nat :=
  packWord [(r.offset, 16), (r.length, 11), (r.owner.toNat, 1), (r.policy, 2), (r.valid.toNat, 1), (0, 1), (r.stb, 11), (r.stben.toNat, 1)]

def pcfgWord (x : PairSt) : Nat := packWord [(x.en.toNat, 1), (x.pairid.toNat, 1), (x.initrole, 2), (0, 28), (x.hbtol, 16), (x.tdec, 16)]

def pstatWord (x : PairSt) : Nat :=
  packWord [(x.hbmiss, 16), (x.digmis, 8), (x.crcerr, 8), (x.retry, 8), (x.lost, 8), (x.route, 8), (x.takes, 8)]

/-- A word of the partition window. -/
def partReg (s : State) (p o : Nat) : Nat :=
  let t := s.part p
  if o = 0 then t.pladdr
  else if o = 8 then t.pllen
  else if o = 0x18 then packWord [(t.plstat, 4), (t.plvar, 4), (t.plerr, 8), (t.ascn.toNat, 32)]
  else if 0x100 ≤ o && o < 0x128 then rowWord t.row ((o - 0x100) / 8)
  else if o = 0x1000 then packWord [(t.row.tlbbase, 10), (0, 6), (t.row.tlbcnt, 10), (0, 6), (t.row.a40.toNat, 1)]
  else if o = 0x1008 then xbWord t.xlb
  else if o = 0x1010 then xbWord t.svb
  else if 0x1100 ≤ o && o < 0x1100 + 32 * 96 then
    ((s.physCore p ((o - 0x1100) / 32)).map fun c => ringWord (s.ring c ((o - 0x1100) / 8 % 4))).getD 0
  else if 0x2000 ≤ o && o < 0x2800 then
    let x := s.streamSt p ((o - 0x2000) / 8)
    if (o - 0x2000) / 8 < t.row.smcnt then
      packWord [(x.estamp.toNat, 32), (x.dropgate, 8), (x.dropmtr, 8), (x.short, 8), (x.ovwr, 8)]
    else 0
  else if 0x3000 ≤ o && o < 0x4000 then
    match (if (o - 0x3000) / 16 < t.row.omcnt then t.plan.bind fun pl => pl.outrecs[(o - 0x3000) / 16]? else none) with
    | some r => if o / 8 % 2 = 0 then outWord r else r.limit.toNat
    | none => 0
  else if 0x4000 ≤ o && o < 0x4400 then
    let r := t.pair.desig.get (0, 0) ((o - 0x4000) / 16)
    if o / 8 % 2 = 0 then r.1 else r.2
  else if o = 0xE000 then pcfgWord t.pair
  else if o = 0xE008 then pstatWord t.pair
  else if 0xF000 ≤ o && o < 0xF030 then fld t.nonce (8 * (o - 0xF000)) 64
  else if o = 0xF030 then t.attcmd
  else if 0xF100 ≤ o && o < 0xF210 then fld t.report (8 * (o - 0xF100)) 64
  else 0

/-- HLTH (20 R369). -/
def hlthWord (s : State) : Nat :=
  let bits (h : Nat) : Nat := (List.range 24).foldl (fun m k => if (s.cluster k).health = h then m + 2 ^ k else m) 0
  packWord [(bits 1, 24), (bits 2, 24), (s.test.pfail.toNat, 1), ((16 ≤ s.hall.swapped.length : Bool).toNat, 1),
            ((s.logs.any fun l => l.2.ovf).toNat, 1), (s.test.pkg.isSome.toNat, 1)]

def logWord (e : LogEntry) (k : Nat) : Nat :=
  match k with
  | 0 => packWord [(e.code, 8), (e.tier, 8), (e.pos, 4), (e.berth, 4), (e.sub, 8), (e.scn.toNat, 32)]
  | 1 => e.acc % 2 ^ 64
  | 2 => e.addr % 2 ^ 64
  | _ => e.data % 2 ^ 64

/-- A word of the diagnostic window. -/
def diagReg (s : State) (o : Nat) : Nat :=
  let h := s.hall
  if o = 0 then s.hlthWord
  else if o = 8 then packWord [(h.crcerr, 16), (h.retry, 16), (h.swapped.length, 5), (16 - h.swapped.length, 5), (h.behind, 8)]
  else if o = 0x10 then packWord [(h.memCorr, 16), (h.memUnc, 16), (h.memCrc, 16)]
  else if o = 0x18 then h.hsdisc
  else if 0x20 ≤ o && o < 0x40 then
    let x := s.ports.get {} ((o - 0x20) / 8)
    packWord [(x.fcs, 16), (x.dupe, 16), (x.jumbo, 16), (x.unmap, 16)]
  else if 0x40 ≤ o && o < 0x60 then
    let l := s.logs.get {} ((o - 0x40) / 8)
    packWord [(l.wr, 8), (l.rd, 8), (l.ovf.toNat, 1)]
  else if 0x100 ≤ o && o < 0x1C0 then
    let k := s.cluster ((o - 0x100) / 8)
    packWord [(k.health, 2), (k.outsite, 3), (k.mism, 8), (k.bcor, 8), (k.bunc, 8)]
  else if 0x200 ≤ o && o < 0x500 then
    let k := (s.core ((o - 0x200) / 8)).stat
    packWord [(k.creg, 8), (k.rpar, 8), (k.fpar, 8), (k.ovrn, 8), (k.ended, 8), (k.dbl, 8), (k.coll, 8)]
  else if 0x600 ≤ o && o < 0x900 then
    let k := (s.tier ((o - 0x600) / 128)).posstat.get {} ((o - 0x600) / 8 % 16)
    packWord [(k.flit, 8), (k.hdr, 8), (k.mdrop, 8), (k.bond, 8), (k.lsw, 4), (0, 4), (k.rcor, 8), (k.runc, 8), (k.stcrc, 8)]
  else if 0x1000 ≤ o && o < 0x9000 then
    match ((s.logs.get {} ((o - 0x1000) / 0x2000)).entries : Tbl LogEntry).find? ((o - 0x1000) / 32 % 256) with
    | some e => logWord e (o / 8 % 4)
    | none => 0
  else 0

/-- Cluster rail setpoint in units of 5 mV (22 R381, R386): the faster step's while its rails ramp up, the dense level's guard band,
less the offset in force. It reads 0 from reset until the firmware runs (A33, DEDUCED from its reset value). -/
def railSet (s : State) (k : Nat) : Nat :=
  if s.boot.fw.isNone then 0 else
  let step := match s.freq.act with
    | some (a, false) => min a s.freq.cur
    | _ => s.freq.cur
  let lvl := (s.cluster k).rail.1
  [140, 130, 116, 104, 96].getD step 96 + (if lvl = 1 || lvl = 2 then 8 else 0) - (s.cluster k).ofsNow

/-- A word of the power window. -/
def powerReg (s : State) (o : Nat) : Nat :=
  let f := s.freq
  if o = 0 then
    packWord [(f.cur, 3), ((f.act.map fun a => a.1).getD f.cur, 3), (f.rampEnd.isSome.toNat, 1), (f.queue.isSome.toNat, 1), (f.queue.getD 0, 3),
              (s.fMin, 3), (f.fhold.toNat, 1), (f.tcap.headD 0, 3)]
  else if 0x100 ≤ o && o < 0x1C0 then
    let k := (o - 0x100) / 8
    packWord [((s.cluster k).ofs, 4), ((s.cluster k).rail.1, 2), (0, 2), (s.railSet k, 8)]
  else if 0x200 ≤ o && o < 0x2C8 then
    let t := s.thermOf ((o - 0x200) / 8)
    packWord [(t.temp, 8), ((t.twarn ≤ t.temp : Bool).toNat, 1), (t.alarm.toNat, 1), (t.tripped.toNat, 1), (0, 5), (t.twarn, 8), (t.ttrip, 8)]
  else 0

/-- A word of the hall register space as a hart loads it; unassigned offsets read 0. -/
def hallReg (s : State) (off : Nat) : Nat :=
  if off < 0x80000 then s.partReg (off / 0x10000) (off % 0x10000)
  else if off < 0x90000 then s.diagReg (off - 0x80000)
  else if off < 0xA0000 then s.powerReg (off - 0x90000)
  else if off < 0xA0800 then
    let g := s.gates.get {} ((off - 0xA0000) / 256)
    match off % 256 with
    | 0 => g.greq
    | 8 => g.data.toNat
    | 0x10 => g.stat.toNat
    | _ => 0
  else 0

/-- The partition whose default image shows at offset o of a view where no entry or record covers it: the lowest whose plan gives the byte a
value, else the lowest with a plan (A39, DEDUCED: R420 speaks of one default image, and each plan brings its own). -/
def defPart (s : State) (out : Bool) (o : Nat) : Nat :=
  let plans := (List.range 8).filterMap fun p => (s.part p).plan.map fun pl => (p, pl)
  match plans.find? fun e => (if out then e.2.defOut else e.2.defIn).any fun x => x.1 = o with
  | some e => e.1
  | none => (plans.head?.map fun e => e.1).getD 0

/-- The memory place of a byte of a hart's address space, where it has one (18 R420); the views are those of the partition that owns the
byte. -/
def hartKey (s : State) (a : Nat) : Option Nat :=
  if a < 2 ^ 25 then some (hallKey a)
  else if 0x4000000 ≤ a && a < 0x4400000 then some (commonKey 6 (a - 0x4000000))
  else if 0x10100000 ≤ a && a < 0x10110000 then
    let o := a - 0x10100000
    match (List.range 8).findSome? fun p => ((s.streamRows p).find? fun e => e.2.offset ≤ o && o < e.2.offset + e.2.length).map fun e => (p, e) with
    | some (p, k, r) => some (s.viewKey p k r + (o - r.offset))
    | none => some (defKey (s.defPart false o) false o)
  else if 0x10110000 ≤ a && a < 0x10120000 then
    let o := a - 0x10110000
    match (List.range 8).findSome? fun p => ((s.outRows p).find? fun e => e.2.offset ≤ o && o < e.2.offset + e.2.length).map fun e => (p, e) with
    | some (p, k, r) => some (s.latchKey p k r + (o - r.offset))
    | none => some (defKey (s.defPart true o) true o)
  else if 2 ^ 48 ≤ a && a < 2 ^ 49 then
    let k := a - 2 ^ 48
    if spaceOf k = .ws || spaceOf k = .room || spaceOf k = .bs then some k else none
  else none

/-- The memory place of a byte that a hart's access names. -/
def hartPlace (s : State) (l : HartLoad) (a : Nat) : Option Nat :=
  match l.space, l.hart with
  | .bus, _ => s.hartKey a
  | .own, .control n => if a < 2 ^ 18 then some (ctlKey (n % 8) a) else none
  | .own, _ | .seq, _ => none

/-- A hart's access of the register space or of the sequencer's registers: I/O (13 R275). -/
def hartIo (l : HartLoad) : Bool := l.space = .seq || (l.space = .bus && 0x10000000 ≤ l.addr && l.addr < 0x10100000)

/-- A byte that a hart's load names, as class H reads it: of a place, of a register, or 0. -/
def hartByte (s : State) (l : HartLoad) (a : Nat) : Byte :=
  match s.hartPlace l a with
  | some k => s.readByte clsH k
  | none =>
    if l.space = .seq then BitVec.ofNat 8 (s.seqReg (a / 8 * 8) / 2 ^ (8 * (a % 8)))
    else if hartIo l then BitVec.ofNat 8 (s.hallReg ((a - 0x10000000) / 8 * 8) / 2 ^ (8 * (a % 8)))
    else 0

/-! ## Counters that a read clears -/

/-- A read of a register with RC fields that clears them. -/
def readClear (s : State) (off : Nat) : State :=
  let h (f : Hall → Hall) : State := { s with hall := f s.hall }
  if off < 0x80000 then
    let p := off / 0x10000
    let o := off % 0x10000
    if o = 0xE008 then s.modPair p fun x => { x with hbmiss := 0, digmis := 0, crcerr := 0, retry := 0, lost := 0, route := 0, takes := 0 }
    else if 0x2000 ≤ o && o < 0x2800 then s.modStream p ((o - 0x2000) / 8) fun x => { x with dropgate := 0, dropmtr := 0, short := 0, ovwr := 0 }
    else s
  else if off = 0x80008 then h fun x => { x with crcerr := 0, retry := 0, behind := 0 }
  else if off = 0x80010 then h fun x => { x with memCorr := 0, memUnc := 0, memCrc := 0 }
  else if off = 0x80018 then h fun x => { x with hsdisc := 0 }
  else if 0x80020 ≤ off && off < 0x80040 then s.modPort ((off - 0x80020) / 8) fun x => { x with fcs := 0, dupe := 0, jumbo := 0, unmap := 0 }
  else if 0x80100 ≤ off && off < 0x801C0 then s.modCluster ((off - 0x80100) / 8) fun k => { k with mism := 0, bcor := 0, bunc := 0 }
  else if 0x80200 ≤ off && off < 0x80500 then s.modCoreStat ((off - 0x80200) / 8) fun _ => {}
  else if 0x80600 ≤ off && off < 0x80900 then
    s.modPosStat (coreAtMesh ((off - 0x80600) / 128) ((off - 0x80600) / 8 % 16)) fun k => { lsw := k.lsw }
  else s

/-! ## Loads by harts (13 R276, 18 R420, 20 R368) -/

/-- RC fields clear when the management core reads them; those of the diagnostic and power windows for it alone. -/
def loadClears (s : State) (h : Hart) (addr : Nat) : State :=
  let off := (addr - 0x10000000) / 8 * 8
  if addr < 0x10000000 || 0x10100000 ≤ addr || (h ≠ .mgmt && 0x80000 ≤ off) then s else s.readClear off

/-- The bytes of a load, the lowest first. What a load of a poisoned or unreadable word gives is not stated (A15). -/
def hartBytes (s : State) (l : HartLoad) (addr : Nat) : Nat → Nat × State
  | 0 => (0, s)
  | n + 1 =>
    let (b, s) := match s.hartPlace l addr with
      | some k => if s.tainted k 1 then (let (w, s) := s.freeWord; (w.toNat % 256, s)) else ((s.hartByte l addr).toNat, s)
      | none => ((s.hartByte l addr).toNat, s)
    let (v, s) := hartBytes s l (addr + 1) n
    (b + 256 * v, s)

/-- A hart's load is sampled: the value it gets, and what the read clears. -/
def hartLoadEvent (s : State) (l : HartLoad) : State :=
  let s := s.countKeys ((List.range l.len).filterMap fun i => s.hartPlace l (l.addr + i))
  let (v, s) := s.hartBytes l l.addr l.len
  let s := { s with harts := s.harts.put l.hart.num { s.harts.get {} l.hart.num with got := v } }
  if l.space = .bus then s.loadClears l.hart l.addr else s

/-- A store of the hall's harts of this cycle has still to take effect. -/
def hartStoring (s : State) : Bool :=
  s.agenda.any fun e => e.at_ = s.acc && match e.act with
    | .aux (.hallStore ..) | .aux (.viewStore ..) => true
    | _ => false

/-- A hart's load. Accesses of registers are made in the order in which they come (13 R275), and so are those of a control core's own memory;
one of a place is sampled with the other samples of its cycle, or after a store that comes before it in the cycle. -/
def hartLoad (s : State) (l : HartLoad) : State :=
  if hartIo l || l.space = .own then s.hartLoadEvent l
  else s.schedAux s.acc (if s.hartStoring then phEnd else phSample) none (.hartLoad l)

/-- A control core's store of 8 bytes to its own memory; elsewhere a core has none. -/
def ownStore (s : State) (h : Hart) (a v : Nat) : State :=
  match h with
  | .control n => if 2 ^ 18 < a + 8 then s.discardStore else s.writeAt (ctlKey (n % 8) a) 8 v (ones 8) 0
  | _ => s.discardStore

/-! ## Stores by harts (13 R276, 18 R420) -/

/-- A store of 8 or 64 bytes to the common-room window waits for a hall position. -/
def commonStore (s : State) (off len data : Nat) : State :=
  if !(len = 8 || len = 64) || off % len ≠ 0 || 2 ^ 22 < off + len then s.discardStore
  else
    let b : Beat := { kind := if len = 8 then 1 else 2, src := 6, dtier := 7, dpos := 0, off := off, aop := 0, psn := false,
                      data := data % 2 ^ (8 * len), org := none, part := 8, dreg := none, tries := 1, copy := 0, seg := 0, req := none }
    { s with hall := { s.hall with queue := s.hall.queue ++ [b] } }

/-- Records with OWNER = 1 that n bytes at an offset of the output view touch, with their partition and index. -/
def ownedRecs (s : State) (off n : Nat) : List (Nat × Nat × OutRow) :=
  (List.range 8).flatMap fun p => ((s.outRows p).filter fun e =>
    e.2.owner && off < e.2.offset + e.2.length && e.2.offset < off + n).map fun e => (p, e)

/-- A store to the output view: bytes of records with OWNER = 1 are written, with W; any other byte is discarded and counted. -/
def viewStoreEvent (s : State) (off len data : Nat) : State :=
  let recs := s.ownedRecs off len
  let s := recs.foldl (fun s e =>
    let (p, k, r) := e
    let lo := max off r.offset
    let n := min (off + len) (r.offset + r.length) - lo
    (s.writeAt (s.latchKey p k r + (lo - r.offset)) n (data / 2 ^ (8 * (lo - off))) (ones n) 0).modOut p k fun x => { x with w := true }) s
  if (List.range len).all fun i => recs.any fun e => e.2.2.offset ≤ off + i && off + i < e.2.2.offset + e.2.2.length then s
  else s.discardStore

/-- It takes effect as the other writes of its cycle. -/
def viewStore (s : State) (off len data : Nat) : State := s.schedAux s.acc phWrite none (.viewStore off len data)

/-- A store to hall SRAM is applied after the other writes of its cycle. -/
def sramStore (s : State) (off len data : Nat) : State :=
  if 2 ^ 25 < off + len || 64 < len then s.discardStore else s.schedAux s.acc phEnd none (.hallStore off len data)

def hallStoreEvent (s : State) (off len data : Nat) : State := s.writeAt (hallKey off) len data (ones len) 0

end State

/-! ## Rows -/

def execPatrolScrub (a : ScrubArr) (s : State) : Res :=
  let ok : Bool := match a with
    | .room c => c < 96
    | .bstore k => k < 24
    | .hall => true
    | .replica t => t < 7
  if ok then .next (s.scrubTurn a) else .fault .noSuchUnit

/-- FIRMWARE_REPAIR_ACTION: what the firmware asks for. It asks for PFAIL only on the conditions of 20 R365. -/
def execFirmwareRepairAction (r : Repair) (s : State) : Res :=
  if !r.unitsOk then .fault .noSuchUnit
  else .next (match r with
    | .pfail _ => if s.pfailDue then s.repair r else s
    | _ => s.repair r)
def execTestPackageApply (t : TestPkg) (s : State) : Res := .next (s.testApply t)
def execTestPackageDone (s : State) : Res := .next s.testDone
def execFreezeRequest (_src : FreezeSrc) (s : State) : Res := .next s.freezeReq

/-- A store at an offset from the register space's base: beyond it lie the views; any other address is named by no row, and the store is
discarded and counted (18 R420). -/
def State.busStore (s : State) (h : Hart) (a v : Nat) : State :=
  if a < 0x100000 then s.writeHall h a v
  else if 0x110000 ≤ a && a < 0x120000 then s.viewStore (a - 0x110000) 8 v
  else s.discardStore

/-- HALL_REGISTER_WRITE: a hart's store of 8 bytes. -/
def execHallRegisterWrite (a : HartAddr) (v : Word) (s : State) : Res :=
  .next (match a.space with
    | .bus => s.busStore a.hart a.addr v.toNat
    | .own => s.ownStore a.hart a.addr v.toNat
    | .seq => s.writeSeq a.addr v.toNat)

/-- COUNTER_READ_CLEAR: a hart's load. -/
def execCounterReadClear (l : HartLoad) (s : State) : Res := .next (s.hartLoad l)

def execCommonRoomWindowStore (off len data : Nat) (s : State) : Res := .next (s.commonStore off len data)
def execOutputViewStore (off len data : Nat) (s : State) : Res := .next (s.viewStore off len data)
def execHallSramStore (off len data : Nat) (s : State) : Res := .next (s.sramStore off len data)

end Sys2Proof.Machine
end

