-- ==== Sys2Proof/Machine/Dispatch.lean ====
section
/-! DEFINITION. The meaning of each instruction and event, one arm per constructor. -/

namespace Sys2Proof.Machine

def exec (i : Instr) (s : State) : Host.Outcome State Fault Refusal :=
  match i with
  | .berthTurn b => Sys2Proof.Machine.execBerthTurn b s
  | .lineRefetchWrite core line => Sys2Proof.Machine.execLineRefetchWrite core line s
  | .asyncTrapDelivery b => Sys2Proof.Machine.execAsyncTrapDelivery b s
  | .landing l => Sys2Proof.Machine.execLanding l s
  | .storeEffect w => Sys2Proof.Machine.execStoreEffect w s
  | .nop h => Sys2Proof.Machine.execNop h s
  | .add h d a b => Sys2Proof.Machine.execAdd h d a b s
  | .addi h d a x => Sys2Proof.Machine.execAddi h d a x s
  | .sub h d a b => Sys2Proof.Machine.execSub h d a b s
  | .mul h d a b => Sys2Proof.Machine.execMul h d a b s
  | .mulh h d a b => Sys2Proof.Machine.execMulh h d a b s
  | .mulhu h d a b => Sys2Proof.Machine.execMulhu h d a b s
  | .div h d a b => Sys2Proof.Machine.execDiv h d a b s
  | .divu h d a b => Sys2Proof.Machine.execDivu h d a b s
  | .rem h d a b => Sys2Proof.Machine.execRem h d a b s
  | .remu h d a b => Sys2Proof.Machine.execRemu h d a b s
  | .and h d a o => Sys2Proof.Machine.execAnd h d a o s
  | .or h d a o => Sys2Proof.Machine.execOr h d a o s
  | .xor h d a o => Sys2Proof.Machine.execXor h d a o s
  | .andn h d a o => Sys2Proof.Machine.execAndn h d a o s
  | .orn h d a o => Sys2Proof.Machine.execOrn h d a o s
  | .shl h d a o => Sys2Proof.Machine.execShl h d a o s
  | .shr h d a o => Sys2Proof.Machine.execShr h d a o s
  | .sar h d a o => Sys2Proof.Machine.execSar h d a o s
  | .rol h d a o => Sys2Proof.Machine.execRol h d a o s
  | .clz h d a => Sys2Proof.Machine.execClz h d a s
  | .ctz h d a => Sys2Proof.Machine.execCtz h d a s
  | .popc h d a => Sys2Proof.Machine.execPopc h d a s
  | .brev h d a => Sys2Proof.Machine.execBrev h d a s
  | .min h d a o => Sys2Proof.Machine.execMin h d a o s
  | .max h d a o => Sys2Proof.Machine.execMax h d a o s
  | .minu h d a o => Sys2Proof.Machine.execMinu h d a o s
  | .maxu h d a o => Sys2Proof.Machine.execMaxu h d a o s
  | .abs h d a => Sys2Proof.Machine.execAbs h d a s
  | .movi h d x => Sys2Proof.Machine.execMovi h d x s
  | .movhi h d a x => Sys2Proof.Machine.execMovhi h d a x s
  | .sext h d a w1 => Sys2Proof.Machine.execSext h d a w1 s
  | .zext h d a w1 => Sys2Proof.Machine.execZext h d a w1 s
  | .extb h sg d a pos len1 => Sys2Proof.Machine.execExtb h sg d a pos len1 s
  | .insb h d a pos len1 => Sys2Proof.Machine.execInsb h d a pos len1 s
  | .clmul h d a b => Sys2Proof.Machine.execClmul h d a b s
  | .clmulh h d a b => Sys2Proof.Machine.execClmulh h d a b s
  | .lea h d a b sh x => Sys2Proof.Machine.execLea h d a b sh x s
  | .cmp h cond d c a b => Sys2Proof.Machine.execCmp h cond d c a b s
  | .cmpi h cond d c a x => Sys2Proof.Machine.execCmpi h cond d c a x s
  | .plog h op d a b => Sys2Proof.Machine.execPlog h op d a b s
  | .sel h d a b c => Sys2Proof.Machine.execSel h d a b c s
  | .fadd h rm d a b => Sys2Proof.Machine.execFadd h rm d a b s
  | .fsub h rm d a b => Sys2Proof.Machine.execFsub h rm d a b s
  | .fmul h rm d a b => Sys2Proof.Machine.execFmul h rm d a b s
  | .ffma h form rm d a b c => Sys2Proof.Machine.execFfma h form rm d a b c s
  | .fdiv h rm d a b => Sys2Proof.Machine.execFdiv h rm d a b s
  | .fsqrt h rm d a => Sys2Proof.Machine.execFsqrt h rm d a s
  | .fmin h d a b => Sys2Proof.Machine.execFmin h d a b s
  | .fmax h d a b => Sys2Proof.Machine.execFmax h d a b s
  | .fcmp h cond d c a b => Sys2Proof.Machine.execFcmp h cond d c a b s
  | .fcvt h kind rm d a => Sys2Proof.Machine.execFcvt h kind rm d a s
  | .br h loff ts => Sys2Proof.Machine.execBr h loff ts s
  | .jmp h a => Sys2Proof.Machine.execJmp h a s
  | .call h d loff ts => Sys2Proof.Machine.execCall h d loff ts s
  | .callr h d a => Sys2Proof.Machine.execCallr h d a s
  | .ret h a => Sys2Proof.Machine.execRet h a s
  | .loop h a loff ts => Sys2Proof.Machine.execLoop h a loff ts s
  | .brx h a loff ts => Sys2Proof.Machine.execBrx h a loff ts s
  | .waitc h a x => Sys2Proof.Machine.execWaitc h a x s
  | .waitcItc h a x => Sys2Proof.Machine.execWaitcItc h a x s
  | .waitr h a x => Sys2Proof.Machine.execWaitr h a x s
  | .waitEnd b => Sys2Proof.Machine.execWaitEnd b s
  | .resync h => Sys2Proof.Machine.execResync h s
  | .resyncTo h a => Sys2Proof.Machine.execResyncTo h a s
  | .rdtt h sel d => Sys2Proof.Machine.execRdtt h sel d s
  | .vadd h sat rm k d a o => Sys2Proof.Machine.execVadd h sat rm k d a o s
  | .vsub h sat rm k d a o => Sys2Proof.Machine.execVsub h sat rm k d a o s
  | .vmul h sat rm k d a o => Sys2Proof.Machine.execVmul h sat rm k d a o s
  | .vfma h rm k d a o => Sys2Proof.Machine.execVfma h rm k d a o s
  | .vfms h rm k d a o => Sys2Proof.Machine.execVfms h rm k d a o s
  | .vmin h k d a o => Sys2Proof.Machine.execVmin h k d a o s
  | .vmax h k d a o => Sys2Proof.Machine.execVmax h k d a o s
  | .vabs h sat k d a => Sys2Proof.Machine.execVabs h sat k d a s
  | .vneg h sat k d a => Sys2Proof.Machine.execVneg h sat k d a s
  | .vrcp h k d a => Sys2Proof.Machine.execVrcp h k d a s
  | .vrsq h k d a => Sys2Proof.Machine.execVrsq h k d a s
  | .vexp2 h k d a => Sys2Proof.Machine.execVexp2 h k d a s
  | .vlog2 h k d a => Sys2Proof.Machine.execVlog2 h k d a s
  | .vdiv h rm k d a b => Sys2Proof.Machine.execVdiv h rm k d a b s
  | .vsqrt h rm k d a => Sys2Proof.Machine.execVsqrt h rm k d a s
  | .vcmp h cond k d a o => Sys2Proof.Machine.execVcmp h cond k d a o s
  | .vsel h k d a b c => Sys2Proof.Machine.execVsel h k d a b c s
  | .vand h k d a o => Sys2Proof.Machine.execVand h k d a o s
  | .vor h k d a o => Sys2Proof.Machine.execVor h k d a o s
  | .vxor h k d a o => Sys2Proof.Machine.execVxor h k d a o s
  | .vnot h k d a => Sys2Proof.Machine.execVnot h k d a s
  | .vshl h k d a n => Sys2Proof.Machine.execVshl h k d a n s
  | .vshr h k d a n => Sys2Proof.Machine.execVshr h k d a n s
  | .vsar h k d a n => Sys2Proof.Machine.execVsar h k d a n s
  | .vclmul h hi k d a o => Sys2Proof.Machine.execVclmul h hi k d a o s
  | .vpopc h k d a => Sys2Proof.Machine.execVpopc h k d a s
  | .vclz h k d a => Sys2Proof.Machine.execVclz h k d a s
  | .vperm h k d a b => Sys2Proof.Machine.execVperm h k d a b s
  | .vshuf h pat k d a b => Sys2Proof.Machine.execVshuf h pat k d a b s
  | .vslide h up k d a b n => Sys2Proof.Machine.execVslide h up k d a b n s
  | .vbcast h k d src => Sys2Proof.Machine.execVbcast h k d src s
  | .vextr h sg d a b x => Sys2Proof.Machine.execVextr h sg d a b x s
  | .vins h d a b x => Sys2Proof.Machine.execVins h d a b x s
  | .vred h op rm k d a => Sys2Proof.Machine.execVred h op rm k d a s
  | .vscan h op rm k d a => Sys2Proof.Machine.execVscan h op rm k d a s
  | .vcvt h t rm k q d a => Sys2Proof.Machine.execVcvt h t rm k q d a s
  | .vtag h t d a => Sys2Proof.Machine.execVtag h t d a s
  | .vqnt h uns rm k q d a b => Sys2Proof.Machine.execVqnt h uns rm k q d a b s
  | .vdqnt h t rm k q d a b n centre => Sys2Proof.Machine.execVdqnt h t rm k q d a b n centre s
  | .vplane h form d a => Sys2Proof.Machine.execVplane h form d a s
  | .vbnd h form k a b c => Sys2Proof.Machine.execVbnd h form k a b c s
  | .vdot4 h sat k d a b => Sys2Proof.Machine.execVdot4 h sat k d a b s
  | .vmlog h op d a b => Sys2Proof.Machine.execVmlog h op d a b s
  | .vmpop h k d a => Sys2Proof.Machine.execVmpop h k d a s
  | .vmfirst h last k d a => Sys2Proof.Machine.execVmfirst h last k d a s
  | .ld h sz d a x => Sys2Proof.Machine.execLd h sz d a x s
  | .st h sz a b x => Sys2Proof.Machine.execSt h sz a b x s
  | .vld h tag k d a x => Sys2Proof.Machine.execVld h tag k d a x s
  | .vst h k a b x => Sys2Proof.Machine.execVst h k a b x s
  | .vldx h tag k d a b x => Sys2Proof.Machine.execVldx h tag k d a b x s
  | .vstx h k a b c x => Sys2Proof.Machine.execVstx h k a b c x s
  | .amoadd h dbl d a b x => Sys2Proof.Machine.execAmoadd h dbl d a b x s
  | .amoswp h dbl d a b x => Sys2Proof.Machine.execAmoswp h dbl d a b x s
  | .amocas h dbl d a b c x => Sys2Proof.Machine.execAmocas h dbl d a b c x s
  | .amomin h dbl uns d a b x => Sys2Proof.Machine.execAmomin h dbl uns d a b x s
  | .amomax h dbl uns d a b x => Sys2Proof.Machine.execAmomax h dbl uns d a b x s
  | .amoand h dbl d a b x => Sys2Proof.Machine.execAmoand h dbl d a b x s
  | .amoor h dbl d a b x => Sys2Proof.Machine.execAmoor h dbl d a b x s
  | .xwsp h d a => Sys2Proof.Machine.execXwsp h d a s
  | .xwspTask h d a => Sys2Proof.Machine.execXwspTask h d a s
  | .mfc h d reg berth => Sys2Proof.Machine.execMfc h d reg berth s
  | .mtc h a reg berth => Sys2Proof.Machine.execMtc h a reg berth s
  | .trap h x => Sys2Proof.Machine.execTrap h x s
  | .rte h => Sys2Proof.Machine.execRte h s
  | .svc h x => Sys2Proof.Machine.execSvc h x s
  | .halt h => Sys2Proof.Machine.execHalt h s
  | .fence h from_ to_ => Sys2Proof.Machine.execFence h from_ to_ s
  | .dbgBrk h x => Sys2Proof.Machine.execDbgBrk h x s
  | .dbgMark h x => Sys2Proof.Machine.execDbgMark h x s
  | .railUp h => Sys2Proof.Machine.execRailUp h s
  | .railDn h => Sys2Proof.Machine.execRailDn h s
  | .railDenseReached cluster => Sys2Proof.Machine.execRailDenseReached cluster s
  | .railNominalReached cluster => Sys2Proof.Machine.execRailNominalReached cluster s
  | .yieldm h d a => Sys2Proof.Machine.execYieldm h d a s
  | .gatedTurn b => Sys2Proof.Machine.execGatedTurn b s
  | .pwrst h d => Sys2Proof.Machine.execPwrst h d s
  | .preemptionStop b sub => Sys2Proof.Machine.execPreemptionStop b sub s
  | .deferredPreemption b => Sys2Proof.Machine.execDeferredPreemption b s
  | .mbld h hn => Sys2Proof.Machine.execMbld h hn s
  | .mbsel h hn => Sys2Proof.Machine.execMbsel h hn s
  | .mmac h mode tile a hn ks => Sys2Proof.Machine.execMmac h mode tile a hn ks s
  | .mmacCompletion cluster => Sys2Proof.Machine.execMmacCompletion cluster s
  | .mmacStop cluster => Sys2Proof.Machine.execMmacStop cluster s
  | .mzero h f32 d => Sys2Proof.Machine.execMzero h f32 d s
  | .mbias h row d b => Sys2Proof.Machine.execMbias h row d b s
  | .mdrain h a b c it nd => Sys2Proof.Machine.execMdrain h a b c it nd s
  | .mdrainWake h a b c it nd => Sys2Proof.Machine.execMdrainWake h a b c it nd s
  | .drainGroupEffect g => Sys2Proof.Machine.execDrainGroupEffect g s
  | .msave h a b => Sys2Proof.Machine.execMsave h a b s
  | .mrestore h d b => Sys2Proof.Machine.execMrestore h d b s
  | .macroOpCompletion cluster op tile => Sys2Proof.Machine.execMacroOpCompletion cluster op tile s
  | .mchk h sel d a => Sys2Proof.Machine.execMchk h sel d a s
  | .mstat h d form => Sys2Proof.Machine.execMstat h d form s
  | .ldr h form a x => Sys2Proof.Machine.execLdr h form a x s
  | .str h form a x => Sys2Proof.Machine.execStr h form a x s
  | .send h form a it nd => Sys2Proof.Machine.execSend h form a it nd s
  | .rld h form a it nd => Sys2Proof.Machine.execRld h form a it nd s
  | .ramo h op dbl d a b c it nd => Sys2Proof.Machine.execRamo h op dbl d a b c it nd s
  | .wake h b it => Sys2Proof.Machine.execWake h b it s
  | .wakeEffect b => Sys2Proof.Machine.execWakeEffect b s
  | .waitw h itc d a b x => Sys2Proof.Machine.execWaitw h itc d a b x s
  | .waitwWakeSeen b => Sys2Proof.Machine.execWaitwWakeSeen b s
  | .waitwDeadline b => Sys2Proof.Machine.execWaitwDeadline b s
  | .mapr h d a x => Sys2Proof.Machine.execMapr h d a x s
  | .itchk h f d it => Sys2Proof.Machine.execItchk h f d it s
  | .meshPacketDelivery p => Sys2Proof.Machine.execMeshPacketDelivery p s
  | .remoteReplyLanding r => Sys2Proof.Machine.execRemoteReplyLanding r s
  | .sbw h dir data a x => Sys2Proof.Machine.execSbw h dir data a x s
  | .sbamo h op dbl d a b c x => Sys2Proof.Machine.execSbamo h op dbl d a b c x s
  | .sbd h form a x => Sys2Proof.Machine.execSbd h form a x s
  | .sbmap h n => Sys2Proof.Machine.execSbmap h n s
  | .sbseq h f d => Sys2Proof.Machine.execSbseq h f d s
  | .stackBeat b => Sys2Proof.Machine.execStackBeat b s
  | .nackResend b => Sys2Proof.Machine.execNackResend b s
  | .directedBeatEffect b => Sys2Proof.Machine.execDirectedBeatEffect b s
  | .resyncCopyBeat line => Sys2Proof.Machine.execResyncCopyBeat line s
  | .stairw h dn b => Sys2Proof.Machine.execStairw h dn b s
  | .stairwellEntryWrite core dn k data tag => Sys2Proof.Machine.execStairwellEntryWrite core dn k data tag s
  | .stairr h dn d => Sys2Proof.Machine.execStairr h dn d s
  | .stairwellCreditReturn core dn => Sys2Proof.Machine.execStairwellCreditReturn core dn s
  | .stairf h dn d => Sys2Proof.Machine.execStairf h dn d s
  | .tgate h d a b => Sys2Proof.Machine.execTgate h d a b s
  | .twake h d a => Sys2Proof.Machine.execTwake h d a s
  | .pil h form a b x => Sys2Proof.Machine.execPil h form a b x s
  | .pos h data a c x => Sys2Proof.Machine.execPos h data a c x s
  | .hallOutputWrite b => Sys2Proof.Machine.execHallOutputWrite b s
  | .stampH h b hn => Sys2Proof.Machine.execStampH h b hn s
  | .stampO h b c => Sys2Proof.Machine.execStampO h b c s
  | .stale h q d hn => Sys2Proof.Machine.execStale h q d hn s
  | .scnr h f d => Sys2Proof.Machine.execScnr h f d s
  | .ingst h d form => Sys2Proof.Machine.execIngst h d form s
  | .cpy h dir d a b c hn win => Sys2Proof.Machine.execCpy h dir d a b c hn win s
  | .courierRequestAccept part org r => Sys2Proof.Machine.execCourierRequestAccept part org r s
  | .translationMiss copy => Sys2Proof.Machine.execTranslationMiss copy s
  | .courierInboundBeat copy seg b => Sys2Proof.Machine.execCourierInboundBeat copy seg b s
  | .courierOutboundBeat copy seg b => Sys2Proof.Machine.execCourierOutboundBeat copy seg b s
  | .sideLogReplay part vpn => Sys2Proof.Machine.execSideLogReplay part vpn s
  | .copyFaultStop copy fcode row col => Sys2Proof.Machine.execCopyFaultStop copy fcode row col s
  | .receiptWrite copy pad => Sys2Proof.Machine.execReceiptWrite copy pad s
  | .rcptw h d ring win => Sys2Proof.Machine.execRcptw h d ring win s
  | .rcptwReceiptSeen b => Sys2Proof.Machine.execRcptwReceiptSeen b s
  | .rcptwDeadline b => Sys2Proof.Machine.execRcptwDeadline b s
  | .rcptr h d ring => Sys2Proof.Machine.execRcptr h d ring s
  | .tlbwW h a b idx => Sys2Proof.Machine.execTlbwW h a b idx s
  | .tlbwRes h a b => Sys2Proof.Machine.execTlbwRes h a b s
  | .tlbi h form => Sys2Proof.Machine.execTlbi h form s
  | .xlget h d => Sys2Proof.Machine.execXlget h d s
  | .jyld h => Sys2Proof.Machine.execJyld h s
  | .jbud h f d => Sys2Proof.Machine.execJbud h f d s
  | .preqStop h d a b => Sys2Proof.Machine.execPreqStop h d a b s
  | .preqRel h d a b => Sys2Proof.Machine.execPreqRel h d a b s
  | .budgetEnd part j => Sys2Proof.Machine.execBudgetEnd part j s
  | .journeyParked part j => Sys2Proof.Machine.execJourneyParked part j s
  | .journeyWindowOpen part j => Sys2Proof.Machine.execJourneyWindowOpen part j s
  | .journeyCarry part j => Sys2Proof.Machine.execJourneyCarry part j s
  | .psend h wk data a c it nd => Sys2Proof.Machine.execPsend h wk data a c it nd s
  | .pdigAdd h a b x => Sys2Proof.Machine.execPdigAdd h a b x s
  | .pdigRd h d => Sys2Proof.Machine.execPdigRd h d s
  | .prole h d => Sys2Proof.Machine.execProle h d s
  | .ptakeTake h d => Sys2Proof.Machine.execPtakeTake h d s
  | .ptakeResign h d => Sys2Proof.Machine.execPtakeResign h d s
  | .scanOverrun b => Sys2Proof.Machine.execScanOverrun b s
  | .phaseMark core k => Sys2Proof.Machine.execPhaseMark core k s
  | .rollback core => Sys2Proof.Machine.execRollback core s
  | .deliveryBeat part row n => Sys2Proof.Machine.execDeliveryBeat part row n s
  | .egressFrameTransmit part f => Sys2Proof.Machine.execEgressFrameTransmit part f s
  | .pairNackResend p seq => Sys2Proof.Machine.execPairNackResend p seq s
  | .pairFrameDeadline p seq => Sys2Proof.Machine.execPairFrameDeadline p seq s
  | .hbDue p mark dig scn => Sys2Proof.Machine.execHbDue p mark dig scn s
  | .roomWriteEffect w => Sys2Proof.Machine.execRoomWriteEffect w s
  | .farMemoryAccess copy seg wr => Sys2Proof.Machine.execFarMemoryAccess copy seg wr s
  | .berthRelease b => Sys2Proof.Machine.execBerthRelease b s
  | .digestFold core data psn => Sys2Proof.Machine.execDigestFold core data psn s
  | .frameReceive f => Sys2Proof.Machine.execFrameReceive f s
  | .gateListExchange n t => Sys2Proof.Machine.execGateListExchange n t s
  | .syncLock => Sys2Proof.Machine.execSyncLock s
  | .syncLoss => Sys2Proof.Machine.execSyncLoss s
  | .greqStore c v => Sys2Proof.Machine.execGreqStore c v s
  | .gateResult c => Sys2Proof.Machine.execGateResult c s
  | .commonRoomWindowStore off len data => Sys2Proof.Machine.execCommonRoomWindowStore off len data s
  | .outputViewStore off len data => Sys2Proof.Machine.execOutputViewStore off len data s
  | .hallRegisterWrite a v => Sys2Proof.Machine.execHallRegisterWrite a v s
  | .counterReadClear l => Sys2Proof.Machine.execCounterReadClear l s
  | .plcmdStage p img => Sys2Proof.Machine.execPlcmdStage p img s
  | .planVerifyDone p => Sys2Proof.Machine.execPlanVerifyDone p s
  | .plcmdActivate p => Sys2Proof.Machine.execPlcmdActivate p s
  | .planLoadDone p => Sys2Proof.Machine.execPlanLoadDone p s
  | .plcmdAbort p => Sys2Proof.Machine.execPlcmdAbort p s
  | .plcmdStop p => Sys2Proof.Machine.execPlcmdStop p s
  | .freqreqWrite v => Sys2Proof.Machine.execFreqreqWrite v s
  | .railRampComplete => Sys2Proof.Machine.execRailRampComplete s
  | .undervoltAdjust cluster lower => Sys2Proof.Machine.execUndervoltAdjust cluster lower s
  | .thermalSample temps => Sys2Proof.Machine.execThermalSample temps s
  | .firmwareRepairAction r => Sys2Proof.Machine.execFirmwareRepairAction r s
  | .testPackageApply t => Sys2Proof.Machine.execTestPackageApply t s
  | .freezeRequest src => Sys2Proof.Machine.execFreezeRequest src s
  | .reset => Sys2Proof.Machine.execReset s
  | .aonPowerUp => Sys2Proof.Machine.execAonPowerUp s
  | .boot imgs => Sys2Proof.Machine.execBoot imgs s
  | .fuseBlow field minimum signed => Sys2Proof.Machine.execFuseBlow field minimum signed s
  | .attcmdWrite p v => Sys2Proof.Machine.execAttcmdWrite p v s
  | .ppsPulse => Sys2Proof.Machine.execPpsPulse s
  | .pairFrameReceive f => Sys2Proof.Machine.execPairFrameReceive f s
  | .hallSramStore off len data => Sys2Proof.Machine.execHallSramStore off len data s
  | .attestationReportDone p => Sys2Proof.Machine.execAttestationReportDone p s
  | .testPackageDone => Sys2Proof.Machine.execTestPackageDone s
  | .hostBootImageWrite img => Sys2Proof.Machine.execHostBootImageWrite img s
  | .supplyLoss => Sys2Proof.Machine.execSupplyLoss s
  | .partitionConfigure p r => Sys2Proof.Machine.execPartitionConfigure p r s
  | .scanEdge => Sys2Proof.Machine.execScanEdge s
  | .patrolScrub a => Sys2Proof.Machine.execPatrolScrub a s
  | .decisionPoint p => Sys2Proof.Machine.execDecisionPoint p s
  | .rsyLineSend p line => Sys2Proof.Machine.execRsyLineSend p line s
  | .tierGateEffect tier => Sys2Proof.Machine.execTierGateEffect tier s
  | .tierWakeW tier => Sys2Proof.Machine.execTierWakeW tier s
  | .qbvWindowOpening port tclass => Sys2Proof.Machine.execQbvWindowOpening port tclass s

end Sys2Proof.Machine
end

