-- ==== Sys2Proof/Machine/Events.lean ====
section
/-! DEFINITION. What the agenda holds beside rows of the table, the arbitration of the ports (06 R145, R146, 11 R232), and the change
from one cycle to the next. -/

namespace Sys2Proof.Machine

/-! ## Port arbitration -/

/-- A port access due in a cycle: its event, its port (twice the core for the data port, one more for its room), the banks it uses,
its rank, and its issue for two of one rank. -/
structure PortReq where
  id : Nat
  port : Nat
  banks : List Nat
  rank : Nat
  issue : Nat
  deriving DecidableEq, Repr

/-- Banks of n bytes at an offset, `w` bytes wide, `k` of them: n / w rounded up, in a row from the first; those whose part of the access is
masked out are left out (06 R145, 11 R232). -/
def banksOf (off n mask w k : Nat) : List Nat :=
  (List.range ((n + w - 1) / w)).filterMap fun i =>
    if mask / 2 ^ (w * i) % 2 ^ w = 0 then none else some ((off / w + i) % k)

/-- A request for n bytes at a key of a workspace store or room. -/
def portAt (id key n mask rank : Nat) (o : Option Org) : Option PortReq :=
  let stamp := match o with
    | some o => o.issue * 2 + o.slot
    | none => 0
  match spaceOf key with
  | .ws => some { id := id, port := coreOfKey key * 2, banks := banksOf (offOfKey key) n mask 32 32, rank := rank, issue := stamp }
  | .room => some { id := id, port := coreOfKey key * 2 + 1, banks := banksOf (offOfKey key) n mask 64 64, rank := rank, issue := stamp }
  | _ => none

/-- The port access of a mesh packet: rank 3 in a workspace store, rank 2 in a room; SEND.v uses no bank for inactive bytes. -/
def packetReq (id : Nat) (p : Packet) : Option PortReq :=
  let rank := if p.up then 2 else 3
  match p.act with
  | .write w => portAt id (pktKey p) w.len w.mask rank (some p.org)
  | .read (.v ..) => portAt id (pktKey p) 256 (ones 256) rank (some p.org)
  | .read (.d _) => portAt id (pktKey p) 8 (ones 8) rank (some p.org)
  | .atomic _ dbl _ _ _ => let n := if dbl then 8 else 4; portAt id (pktKey p) n (ones n) rank (some p.org)

/-- The port accesses of the pieces of a segment. -/
def segReqs (s : State) (id n seg rank : Nat) : List PortReq :=
  match s.copy? n with
  | none => []
  | some c => (c.segAt seg).pieces.filterMap fun p => portAt id p.1 p.2.2 (ones p.2.2) rank none

/-- The port access of a receipt or PAD. -/
def rcptReqs (s : State) (id n : Nat) (pad : Bool) : List PortReq :=
  match s.copy? n with
  | none => []
  | some c => match c.rc with
    | none => []
    | some r =>
      let k := if pad then 32 else 32 * r.n
      let u := if pad then r.pad.getD 0 else r.unit
      (portAt id (wsKey c.org.core ((s.ring c.org.core c.ringNo).base + 32 * u)) k (ones k) 4 none).toList

/-- The rank of an access that is the mesh's or the MXE's. -/
def outRank (key ws room : Nat) : Nat := if spaceOf key = .room then room else ws

/-- The port accesses of a sub-event. -/
def auxReqs (s : State) (id : Nat) (a : Aux) : List PortReq :=
  let at_ (key n rank : Nat) (o : Option Org) : List PortReq := (portAt id key n (ones n) rank o).toList
  match a with
  | .load o off n _ _ => at_ (wsKey o.core off) n 1 (some o)
  | .atomic o off n _ _ _ _ _ => at_ (wsKey o.core off) n 1 (some o)
  | .vload o off _ _ _ => at_ (wsKey o.core off) 256 1 (some o)
  | .vsegs o ((_, off) :: _) _ _ _ _ _ => at_ (wsKey o.core off) 32 1 (some o)
  | .roomLoad o off form _ => at_ (roomKey o.core off) (ldFormSize form).1 1 (some o)
  | .pilLoad o off _ form _ => at_ (roomKey o.core off) (ldFormSize form).1 1 (some o)
  | .mmacChunk o cl _ _ key => if (s.cluster cl).mmac.any fun m => m.org = o then at_ key 256 (outRank key 2 1) (some o) else []
  | .bload b c => at_ (roomKey b.core (b.origin + 512 * c)) 512 1 b.org
  | .saveGroup m g => at_ (roomKey m.core (m.off + 64 * g)) 64 1 m.org
  | .restGroup m g => at_ (roomKey m.core (m.off + 64 * g)) 64 1 m.org
  | .stairRead o dn k _ _ => at_ (wsKey o.core ((s.fifoOf o.core dn).base + 256 * k)) 256 1 (some o)
  | .courierPut n b => segReqs s id n b.seg 4
  | .courierRead n seg _ => segReqs s id n seg 4
  | .msgWrite p m => match s.queueOf p m.sv with
    | some (c, base) => at_ (wsKey c (base + 8 * (if m.sv then (s.part p).svTail else (s.part p).xlTail))) 8 4 none
    | none => []
  | .rcptRead o r x _ => at_ (wsKey o.core ((s.ring o.core r).base + 32 * x.unit)) (32 * x.n) 1 (some o)
  | .rcptLate o r _ => match (s.ring o.core r).skipPads.head? with
    | some x => at_ (wsKey o.core ((s.ring o.core r).base + 32 * x.unit)) (32 * x.n) 1 (some o)
    | none => []
  | .xlRead o p sv _ =>
    let t := s.part p
    at_ (wsKey o.core (if sv then t.svb.queue + 8 * t.svHead else t.xlb.queue + 8 * t.xlHead)) 8 1 (some o)
  | .carryPut _ _ key _ _ => at_ key 64 (outRank key 3 2) none
  | .pairPut _ key n _ _ _ => at_ key n (outRank key 3 2) none
  | .pdigLine o off _ i _ _ => at_ (roomKey o.core (off + 64 * i)) 64 1 (some o)
  | _ => []

/-- The port accesses of an agenda entry. -/
def portReqs (s : State) (e : Ev) : List PortReq :=
  match e.act with
  | .row (.storeEffect w) => if w.rank = 0 then [] else (portAt e.id w.key w.len (ones w.len) w.rank w.org).toList
  | .row (.roomWriteEffect (.bytes w)) => if w.rank = 0 then [] else (portAt e.id w.key w.len (ones w.len) w.rank w.org).toList
  | .row (.meshPacketDelivery p) => (packetReq e.id p).toList
  | .row (.drainGroupEffect g) => (portAt e.id g.key 64 (ones 64) (outRank g.key 3 2) (some g.org)).toList
  | .row (.directedBeatEffect b) =>
    (portAt e.id (roomKey (coreAtMesh b.dtier b.dpos) b.off) (if b.kind = 4 then 8 else 64) (ones 64) 3 b.org).toList
  | .row (.stairwellEntryWrite c dn k _ _) => (portAt e.id (wsKey c ((s.fifoOf c dn).base + 256 * k)) 256 (ones 256) 3 none).toList
  | .row (.receiptWrite n pad) => rcptReqs s e.id n pad
  | .aux a => auxReqs s e.id a
  | _ => []

/-- Served first: the lower rank number, then the earlier issue, then the earlier request. -/
def PortReq.before (a b : PortReq) : Bool :=
  a.rank < b.rank || (a.rank = b.rank && (a.issue < b.issue || (a.issue = b.issue && a.id < b.id)))

def reqIns (r : PortReq) : List PortReq → List PortReq
  | [] => [r]
  | q :: t => if r.before q then r :: q :: t else q :: reqIns r t

/-- Serves requests in order: those that need a bank already taken are denied, with the rank that took it and the bank. -/
def arbitrate : List PortReq → List (Nat × Nat × Nat) → List (Nat × Nat × Nat) → List (Nat × Nat × Nat)
  | [], _, den => den
  | r :: t, taken, den =>
    match r.banks.findSome? fun b => (taken.find? fun k => k.1 = r.port && k.2.1 = b).map fun k => (k.2.2, b) with
    | some (rank, b) => arbitrate t taken ((r.id, rank, b) :: den)
    | none => arbitrate t (r.banks.map (fun b => (r.port, b, r.rank)) ++ taken) den

/-- The accesses that their ports do not serve in this cycle. -/
def State.denyPorts (s : State) : State :=
  let reqs := (s.agenda.filter fun e => e.at_ ≤ s.acc).flatMap (portReqs s)
  { s with denials := arbitrate (reqs.foldl (fun l r => reqIns r l) []) [] [] }

/-! ## From one cycle to the next -/

namespace State

/-- After the turn of this cycle, the landings it could read are past (01 R25). -/
def clearLanded (s : State) : State :=
  { s with cores := s.cores.map fun e =>
      let b := s.ttcOf e.1 % 16
      match e.2.berths.find? b with
      | some x => if x.landed.isEmpty then e else (e.1, { e.2 with berths := e.2.berths.put b { x with landed := [] } })
      | none => e }

/-- The upsets of memory and code that come in this cycle; those of past cycles are over (A3). -/
def applyUpset (s : State) (u : Upset) : State :=
  match u with
  | .word a k e => if a = s.acc then { s with ecc := s.ecc.set .good k e } else s
  | .unit a k => if a = s.acc then { s with badUnits := setIns s.badUnits k } else s
  | .line a c l b =>
    if a = s.acc then
      let k := codeKey c (l * 64 + b / 8)
      { s with mem := Memory.put s.mem k (Memory.byte s.mem k ^^^ BitVec.ofNat 8 (2 ^ (b % 8))) }
    else s
  | .image a c l => if a = s.acc then s.modCore c fun k => { k with badLines := setIns k.badLines l } else s
  | .cell a cl i j delta =>
    if a = s.acc then s.modCluster cl fun k => { k with mmac := k.mmac.map fun m => { m with cells := m.cells ++ [(i, j, delta)] } } else s
  | _ => s

def upsetAt : Upset → Nat
  | .flits a .. | .beat a .. | .edge a .. | .nack a .. | .stair a .. | .farLink a .. | .word a .. | .unit a .. | .line a .. | .image a ..
  | .bond a .. | .cell a .. => a

def applyUpsets (s : State) : State :=
  if s.upsets.isEmpty then s
  else
    let s := s.upsets.foldl applyUpset s
    { s with upsets := s.upsets.filter fun u => s.acc ≤ upsetAt u }

/-- A beat of this cycle that fails at a receiver is counted and logged, and a channel's third error of a scan asks for its swap (12 R249,
20 R375, 21 R380). -/
def countBeat (s : State) (rx : Nat) (ch : Option Nat) : State :=
  let kind := if s.hall.sent = some s.acc then s.hall.sentKind else 0
  let seq := s.acc % 2 ^ 48
  let s := s.countCrc
  match ch with
  | none => s.logEv 1 0x11 rx 15 0 kind 0x1FF seq
  | some c =>
    let k := rx * 288 + c
    let n := s.hall.chan.get 0 k + 1
    let due := if 3 ≤ n && !s.hall.chanDue.contains c then s.hall.chanDue ++ [c] else s.hall.chanDue
    { s with hall := { s.hall with chan := s.hall.chan.put k n, chanDue := due } }.logEv 1 0x10 rx (c / 32) 0 kind c (seq + 2 ^ 48 * (n % 256))

/-- What the receivers make of the upsets of this cycle's beat: a failed check is counted, and so are EDGE copies that read 1 outside b_E,
unless they are an edge (16 R291). -/
def countBeats (s : State) : State :=
  if s.upsets.isEmpty then s
  else
    let s := (List.range 7).foldl (fun s r => if s.beatFails r then s.countBeat r (s.failChan r) else s) s
    (List.range 7).foldl (fun s r =>
      if s.edgeInv r ≠ 0 && s.rxAwake r && s.seq.bE ≠ some s.acc then s.strayEdge r (s.edgeInv r) else s) s

/-- TTC steps in every tier whose clocks run (12 R262, R263). -/
def stepTtc (s : State) : State :=
  s.clocks.foldl (fun s k =>
    if s.clockStopped (clockTier k) then s else s.modTier k fun x => { x with ttc := (x.ttc + 1) % 2 ^ 32 }) s

/-- TTC in the hall. -/
def stepHall (s : State) : State :=
  { s with hall := { s.hall with ttc := if s.seq.edgeAt = some s.acc then 0 else (s.hall.ttc + 1) % 2 ^ 32 } }

/-- Gates that take effect in this cycle (12 R262). -/
def dueGates (s : State) : State :=
  (List.range 6).foldl (fun s t => if s.gateDue t then s.schedAux s.acc phEdge none (.tierGate t) else s) s

/-- What is due at instants of GT up to this cycle. -/
def dueTimed (s : State) : State :=
  match s.timed with
  | [] => s
  | _ =>
    let due := s.timed.filter fun e => e.1 ≤ s.gt
    due.foldl (fun s e => s.sched s.acc phSample none e.2) { s with timed := s.timed.filter fun e => s.gt < e.1 }

/-- The partition whose hall position this cycle is. -/
def hallPosition (s : State) : Option Nat := (List.range 8).find? fun p => s.ownIn p (s.hall.ttc % 64) 0 = 6

/-- What the hall sends in a position of its own: a delivery beat, a courier beat, a hart's write, a resending, or a copy beat. -/
def hallTransmit (s : State) (p : Nat) : State :=
  match s.dueDelivery p with
  | some (row, i) => s.schedRow s.acc phSample none (.deliveryBeat p row i)
  | none => match s.courierInbound p with
    | some s => s
    | none => match s.hall.queue.find? fun b => b.part = p || b.part = 8 with
      | some b => { s with hall := { s.hall with queue := s.hall.queue.erase b } }.schedRow s.acc phSample none (.stackBeat b)
      | none => match s.hall.again.find? fun e => e.1 ≤ s.acc && e.2.part = p with
        | some e =>
          { s with hall := { s.hall with again := s.hall.again.erase e, retry := satInc 16 s.hall.retry } }.schedRow s.acc phSample none
            (.stackBeat { e.2 with tries := e.2.tries + 1 })
        | none => if s.anyBehind && s.copySource.isSome then s.schedRow s.acc phSample none (.resyncCopyBeat s.hall.line) else s

/-- The hall's part of a cycle: b_E when the edge instant has come, or a beat in a position of its own (16 R288). -/
def hallCycle (s : State) : State :=
  if s.seq.en && s.seq.edgeAt.isNone && 552 * s.seq.next ≤ s.gt then
    { s with seq := { s.seq with bE := some s.acc } }.schedAux s.acc phEdge none .scanEdge
  else match s.hallPosition with
    | some p => s.hallTransmit p
    | none => s

/-- The hall's and the courier's sendings of a cycle. In an edge cycle they follow the edge (`auxEvent`). -/
def hallWork (s : State) : State := if s.seq.edgeAt = some s.acc then s else s.placeReceipts.hallCycle.courierOutbound

/-- The clocks of the tiers and the hall run (20 R367, 22 R385, R394). -/
def running (s : State) : Bool := s.aon.powered && !s.aon.frozen && !s.aon.tripped

/-- GT and the count of cycles go on in the always-on domain, GT at the servo's rate (22 R388). -/
def tickAon (s : State) : State := s.tickGt.pulsePps

/-- The next cycle begins. -/
def tick (s : State) : State :=
  if !s.running then s.tickAon
  else if s.aon.freezeAt = some s.acc then { s with aon := { s.aon with frozen := true } }.tickAon
  else
    let s := s.countBeats.clearLanded.tickAon
    let s := { s with acc := s.acc + 1, turnCore := 0, portWrites := [], gateReq := [], cur := {} }
    s.stepTtc.stepHall.applyUpsets.linkCollisions.dueTimed.dueGates.hallWork.scrubAll.undrainedTrim.denyPorts

end State

/-! ## Sub-events -/

/-- What a sub-event does. -/
def auxEvent (a : Aux) (s : State) : State :=
  match a with
  | .load o off n sg d => s.loadEvent o off n sg d
  | .roomLoad o off form m => s.roomLoadEvent o off form m
  | .atomic o off n op sg b c d => s.atomicEvent o off n op sg b c d
  | .vload o off tag m d => s.vloadEvent o off tag m d
  | .vsegs o segs acc psn tag lanes d => s.vsegEvent o segs acc psn tag lanes d
  | .regWrite c r b v => s.writeReg c r b v
  | .yieldWrite c v => s.modCore c fun k => { k with yieldNow := v }
  | .trapWords key v => s.putTrapWords key v
  | .tepc o key v => s.tepcEvent o key v
  | .fence o fr dst => s.fenceDrain o.core o.issue fr dst
  | .settle o k => match k, (s.berth o.core o.berth).journey with
    | .jyld, some (p, j) => s.jyldEvent o p j
    | k, _ => s.settle o k
  | .enterWs c w => s.enterWs c w
  | .mmacChunk o cl u c key => s.mmacChunkEvent o cl u c key
  | .mmacBound o cl u => s.mmacBoundEvent o cl u
  | .mmacClear o cl => s.mmacClearEvent o cl
  | .selb c h => s.modCore c fun k => { k with selb := some h }
  | .mzero cl t f32 => s.mzeroEvent cl t f32
  | .mbias cl t row v => s.mbiasEvent cl t row v
  | .bload b c => s.bloadEvent b c
  | .bwrite b => s.bwriteEvent b
  | .saveGroup m g => s.saveGroupEvent m g
  | .restGroup m g => s.restGroupEvent m g
  | .restored m => s.restoredEvent m
  | .drain d g => s.drainEvent d g
  | .drainStamp o c off v => s.writeStamp (some o) true c off v
  | .beatApply b failed => s.beatApply b failed
  | .copyApply line src failed => s.copyApply line src failed
  | .nack b driven => s.nackEvent b driven
  | .stackLoad o off form m => s.stackLoadEvent o off form m
  | .stairRead o dn k tag d => s.stairReadEvent o dn k tag d
  | .pilLoad o off ofs form m => s.pilLoadEvent o off ofs form m
  | .gateSample c st => s.gateSampleEvent c st
  | .scanEdge => s.hallEdgeEvent
  | .tierGate t => s.gateEvent t
  | .tierWake t => s.wakeEvent t
  | .windowOpen port cls => s.openingEvent port cls
  | .gateResult c st => s.gateResultEvent c st
  | .courierNack n b ch => if s.nackSeen b.src true then s.courierNackEvent n b ch else s.courierMissed n b
  | .courierPut n b => s.courierPutEvent n b
  | .courierRead n seg b => s.courierReadEvent n seg b
  | .rcptBeat n pad => s.rcptBeatEvent n pad
  | .rcptNack n pad ch => if s.nackSeen 6 true then s.rcptNackEvent n pad ch else s.rcptMissed n pad
  | .msgBeat p m => s.msgBeatEvent p m
  | .msgWrite p m => s.msgWriteEvent p m
  | .msgNack p m => if s.nackSeen 6 true then s.msgNackEvent p m true else s.msgPosted p m
  | .rcptRead o r x d => s.rcptReadEvent o r x d
  | .rcptLate o r d => s.rcptLateEvent o r d
  | .xlRead o p sv d => s.xlReadEvent o p sv d
  | .xlZero o key => s.xlZeroEvent o key
  | .planVerify p => s.verifyEvent p
  | .planLoad p => s.loadEvent' p
  | .preqStop c m => s.preqStopEvent c m
  | .journeySave p j => s.journeySaveEvent p j
  | .journeyStart p j m => s.journeyStartEvent p j m
  | .carryBeat p j dst i => s.carryBeatEvent p j dst i
  | .carryPut p j key data psn => s.carryPutEvent p j key data psn
  | .carryDone p j dst => s.carryDoneEvent p j dst
  | .pairData b => s.pairDataEvent b
  | .pdigLine o off n i ws psn => s.pdigLineEvent o off n i ws psn
  | .pairPut p key n data psn wb => s.pairPutEvent p key n data psn wb
  | .rsyPut key data => s.rsyPutEvent key data
  | .decision p => s.decisionEvent p
  | .rsyTurn p => s.rsyTurnEvent p
  | .rampEnd => s.rampDone
  | .scrubBack key => s.scrubBackEvent key
  | .hallStore off n v => s.hallStoreEvent off n v
  | .viewStore off n v => s.viewStoreEvent off n v
  | .hartLoad l => s.hartLoadEvent l
  | .railOfs cl v => s.railOfsEvent cl v
  | .attest p => s.attestEvent p
  | .tierEdge t => s.tierEdgeEvent t
  | .coreEdge => s.coreEdgeEvent.placeReceipts.hallCycle.courierOutbound
  | .scanEnd p => s.scanEndEvent p
  | .overrun p => s.overrunEvent p
  | .loneEdge t => s.loneEdgeEvent t
  | .queue o t => s.queueTrap o.core o.berth o.wsp t
  | .endVoid t => s.endVoidEvent t
  | .endLate c => s.endLateEvent c
  | .freeze _ => s.freezeReq

end Sys2Proof.Machine
end

