-- ==== Sys2Proof/Machine/Run.lean ====
section
/-! DEFINITION. What one step does: an input, an entry of the agenda, a berth's turn with its group, or the change to the next cycle
(A5). -/

namespace Sys2Proof.Machine

/-- Acts that come from outside the package, or from its firmware and harts (A3). -/
def isInput : Instr → Bool
  | .gatedTurn .. | .frameReceive .. | .gateListExchange .. | .syncLock | .syncLoss | .greqStore .. | .commonRoomWindowStore ..
  | .outputViewStore .. | .hallRegisterWrite .. | .counterReadClear .. | .plcmdStage .. | .plcmdActivate .. | .plcmdAbort ..
  | .plcmdStop .. | .freqreqWrite .. | .undervoltAdjust .. | .thermalSample .. | .firmwareRepairAction .. | .testPackageApply ..
  | .freezeRequest .. | .reset | .aonPowerUp | .boot .. | .fuseBlow .. | .attcmdWrite .. | .ppsPulse | .pairFrameReceive ..
  | .hallSramStore .. | .testPackageDone | .hostBootImageWrite .. | .supplyLoss | .partitionConfigure .. => true
  | _ => false

/-- The repairs of duplicated registers that the step from s to t made stay, though its group has no effect (01 R22). -/
def State.keepRepairs (s t : State) : State := (s.badUnits.filter fun u => !t.badUnits.contains u).foldl State.repairUnit s

/-- The words of the group in hand: a fault of either leaves the group with no effect but the trap (01 R28). Of two words that fail at
issue the lower is reported; a word that fails at issue is reported before the other's fault that is decided later (A17, DEDUCED). -/
def runGroup (s : State) : Res :=
  match s.words with
  | [] => .next s
  | [(k, i)] => exec i { s with cur := { s.cur with slot := k }, words := [] }
  | (k, i) :: (l, j) :: _ =>
    match exec i { s with cur := { s.cur with slot := k }, words := [(l, j)] } with
    | .next t =>
      if t.cur.trapped then .next { t with words := [] }
      else match exec j { t with cur := { t.cur with slot := l }, words := [] } with
        | .next u =>
          if u.cur.trapped then exec j { s.keepRepairs t with cur := { s.cur with slot := l }, words := [] } else .next u
        | o => o
    | o => o

/-- The event of the k-th turn of a cycle, and the group that it puts in hand. -/
def runTurn (k : Nat) (i : Instr) (s : State) : Res :=
  match exec i { s with turnCore := if keepsTurn i then k else k + 1, cur := {} } with
  | .next t => runGroup t
  | o => o

/-- An entry of the agenda, taken off it. -/
def runEvent (e : Ev) (rest : List Ev) (s : State) : Res :=
  let s := { s with agenda := rest, cur := { denied := (s.denials.find? fun d => d.1 = e.id).map fun d => d.2, org := e.org } }
  match e.act with
  | .row i => exec i s
  | .aux a => .next (auxEvent a s)

/-- The first input that is due. -/
def dueInput (ticks : Nat) : List (Nat × Instr) → Option (Instr × List (Nat × Instr))
  | [] => none
  | e :: t => if e.1 ≤ ticks then some (e.2, t) else (dueInput ticks t).map fun r => (r.1, e :: r.2)

/-- The next turn from the k-th of the cycle on, at most `fuel` of them, that has an event. The turns of a cycle are taken tier by tier in
the order of the mesh (A5). -/
def nextTurn (s : State) (k : Nat) : Nat → Option (Nat × Instr)
  | 0 => none
  | fuel + 1 =>
    match s.turnOf (coreAtMesh (k / 16) (k % 16)) with
    | some i => some (k, i)
    | none => nextTurn s (k + 1) fuel

/-- The turns of this cycle, then what is left on the agenda for it, then the next cycle. -/
def runTurns (s : State) : Res :=
  match nextTurn s s.turnCore (96 - s.turnCore) with
  | some (c, i) => runTurn c i s
  | none =>
    match s.agenda with
    | e :: rest => if e.at_ ≤ s.acc then runEvent e rest { s with turnCore := 96 } else .next { s with turnCore := 96 }.tick
    | [] => .next { s with turnCore := 96 }.tick

/-- What reaches a package whose tiers and hall have no clock: the always-on domain's inputs (20 R367, 22 R385, R388, R393, R394). -/
def aonInput : Instr → Bool
  | .reset | .aonPowerUp | .supplyLoss | .ppsPulse | .thermalSample .. => true
  | _ => false

/-- A hart runs: the management core with the firmware, the application cores once released, the control cores with a plan (22 R389). -/
def State.hartUp (s : State) (h : Hart) : Bool :=
  match h with
  | .mgmt => s.boot.fw.isSome
  | .app _ => s.boot.app.isSome
  | .control _ => s.boot.fw.isSome && s.parts.any fun e => e.2.running

/-- Acts of the firmware and the harts come only while these run: after a failed boot, or with BOOTSEL 3, nothing starts (22 R389). -/
def State.actorUp (s : State) (i : Instr) : Bool :=
  match i with
  | .hallRegisterWrite a _ => s.hartUp a.hart
  | .counterReadClear l => s.hartUp l.hart
  | .greqStore c _ => s.hartUp (.control c)
  | .gateListExchange .. | .syncLock | .syncLoss | .commonRoomWindowStore .. | .outputViewStore .. | .hallSramStore ..
  | .plcmdStage .. | .plcmdActivate .. | .plcmdAbort .. | .plcmdStop .. | .freqreqWrite .. | .undervoltAdjust .. | .firmwareRepairAction ..
  | .testPackageApply .. | .testPackageDone | .fuseBlow .. | .attcmdWrite .. | .partitionConfigure .. => s.boot.fw.isSome
  | _ => true

/-- An input that is due: it acts if it is an input, reaches the package, and comes from one that runs. -/
def runInput (i : Instr) (s : State) : Res :=
  if isInput i && ((s.running && s.actorUp i) || aonInput i) then exec i s else .next s

/-- What a cycle holds beside inputs: the agenda's entries before the turns, the turns, and the rest. -/
def runCycle (s : State) : Res :=
  match s.agenda with
  | e :: rest => if e.at_ < s.acc || (e.at_ = s.acc && e.ph < phTurn) then runEvent e rest s else runTurns s
  | [] => runTurns s

/-- The hall's edge is still to come in this cycle: it stands for the instant E, which is not later than the cycle's beginning (16
R288). -/
def State.edgeFirst (s : State) : Bool := s.running && s.seq.bE = some s.acc && s.agenda.any fun e => e.act = .aux .scanEdge

/-- The edge in the hall, then inputs, then the rest of the cycle; with no clock, time goes on alone. -/
def runStep (s : State) : Res :=
  if s.edgeFirst then runCycle s
  else match dueInput s.ticks s.inputs with
  | some (i, rest) => runInput i { s with inputs := rest, cur := {} }
  | none => if s.running then runCycle s else .next s.tick

/-! ## Placing a word (A4) -/

/-- A fetch line that holds a word in slot 0 and NOP words in the others, alone in its groups, with its parity (02 R32). -/
def lineOfWord (v : BitVec 96) : BitVec 512 :=
  let par (j : Nat) : Nat := (oddOnes 32 (v.toNat / 2 ^ (32 * j) % 2 ^ 32)).toNat
  BitVec.ofNat 512 (v.toNat + 2 ^ 481 * (par 0 + 2 * par 1 + 4 * par 2))

/-- A plan with no berths, tables or images, for `placeWord`. -/
def barePlan : Plan :=
  { version := 1, sigOk := true, reservedOk := true, len := 2 ^ 31, fmin := 4, period := none, cores := [], owners := [], slotmaps := [],
    windows := [], journeys := [], streams := [], delivers := [], outrecs := [], frames := [], defIn := [], defOut := [], image := [],
    lines := [], xlb := ⟨0, 0, 0, false, 0⟩, svb := ⟨0, 0, 0, false, 0⟩, variants := [] }

/-- A partition of all clusters and tiers. -/
def bareRow : PartRow :=
  { clmask := BitVec.allOnes 24, valid := true, a40 := false, smbase := 0, smcnt := 0, ombase := 0, omcnt := 0, slots := 0, hbase := 0,
    hsize := 0, fbase := 0, fsize := 0, prelat := 0, fenc := false, tlbbase := 0, tlbcnt := 0 }

/-- Core 0 with its berth 0 about to issue line 0, slot 0, in supervisor mode. -/
def readyCore (k : Core) : Core :=
  let x := k.berths.get {} 0
  let x : Berth := { x with pc := 0, mode := true, run := 1, used := true, wait := .none, stops := [], endAt := none, overDue := false,
                            queue := [], held := [], pdef := false, branch := none }
  { k with berths := k.berths.put 0 x, refetch := [], deadLines := [], owner := some (0, 0), yieldNow := 0 }

/-- The state that fetches and issues the word next. -/
def State.placeWord (s : State) (_nbits w : Nat) : State :=
  let s := { s with tiers := s.tiers.filter fun e => e.1 < 8 }.modTier 0 fun t => { t with ttc := t.ttc / 16 * 16, power := {} }
  let s := s.modPart 0 fun p => { p with row := bareRow, gazMask := BitVec.allOnes 24, plan := some barePlan, running := true, plstat := 4 }
  let s := s.modCore 0 readyCore
  { s with mem := Memory.write s.mem (codeKey 0 0) 64 (lineOfWord (BitVec.ofNat 96 w)).toNat (ones 64), agenda := [], inputs := [],
           turnCore := 0, words := [], denials := [],
           aon := { s.aon with powered := true, tripped := false, freezeAt := none, frozen := false } }

end Sys2Proof.Machine
end

