-- ==== Sys2Proof/Machine/Step.lean ====
section
/-! DEFINITION. The step of the machine, and the placing of an instruction where the next step fetches it (A4). -/

namespace Sys2Proof.Machine

/-- One step: words in hand are run; otherwise the next thing that happens (A5). -/
def step (s : State) : Host.Outcome State Fault Refusal := if s.words.isEmpty then runStep s else runGroup s

/-- The state with an instruction word as the first slot of line 0 of core 0, and core 0's berth 0 running at it in supervisor mode
under a plan of partition 0 that holds all clusters: what partition configuration and plan load do (A4). -/
def State.withFetchWord (s : State) (nbits w : Nat) : State := s.placeWord nbits w

end Sys2Proof.Machine
end

