-- ==== Sys2Proof/Safety.lean ====
section
/-! DEFINITION. The terms in which the statements speak: which words are ready to issue, what a result on its way is, the
canonical form of memory. -/

namespace Sys2Proof.Safety

open Sys2Proof.Machine

/-- Memory is in its canonical form: addresses strictly rising, and no entry equal to what an unlisted address reads as. -/
abbrev MemOk (s : State) : Prop := Memory.wf s.mem = true

/-- From `s` to `t` memory changes by one write: the bytes of `data` at `key` where `mask` has its bits, and no other byte, but that a write
into a workspace keeps the fixed bits of its words 0x08 to 0x2F and the duplicates at 0x148 to 0x23F (01 R17 to R21). -/
def Stores (s t : State) (key len data mask : Nat) : Prop :=
  ∀ a, (∀ base, spaceOf key = .ws → base = key / 8192 * 8192 ∨ base = (key + len - 1) / 8192 * 8192 →
      s.isWorkspace (coreOfKey key) (base % 2 ^ 36) = true →
      ¬(base + 0x08 ≤ a ∧ a < base + 0x30) ∧ ¬(base + 0x148 ≤ a ∧ a < base + 0x240)) →
    Memory.byte t.mem a = if key ≤ a ∧ a < key + len ∧ mask.testBit (a - key) = true
      then BitVec.ofNat 8 (data / 2 ^ (8 * (a - key))) else Memory.byte s.mem a

/-- Nothing disturbs the event at hand: its port serves it, no register or record port writes in this cycle, and no upset is to come (06 R146,
13 R270, log A3). -/
def calm (s : State) : Prop := s.cur.denied = none ∧ s.portWrites = [] ∧ s.upsets = []

/-- A source can be read: none of its units fails its parity and, for a scalar or a predicate, none is poisoned (01 R22, 04
R82, 07 R157). -/
def readable (s : State) (x : Src) : Bool :=
  (State.unitsOf 4 (s.srcSpan x).1 (s.srcSpan x).2).all fun u =>
    !s.badUnits.contains u && match x with
      | .s _ | .p _ => !s.psnUnits.contains u
      | _ => true

/-- A word is ready: its guard is true and can be read, and its sources can be read (02 R41, 01 R22). -/
def ready (h : Hd) (srcs : List Src) (s : State) : Bool := readable s (.p h.gp) && s.guardVal h && srcs.all (readable s)

/-- An access of the workspace store that takes no trap of 07 R155 and meets no watch of R177: aligned, inside the store, permitted by the
region rule. -/
def reach (s : State) (ea : Word) (size align : Nat) (k : Access) : Prop :=
  ea.toNat % align = 0 ∧ ea.toNat < 2 ^ 19 ∧ s.regionFault ea.toNat size k = none ∧ s.watchHit ea.toNat size (k ≠ .read) = false

/-- The checks of 09 R191 and 18 R327 pass for a matrix instruction of duration d at this cycle: the core may use the engine, it owns the
owner-map row that holds TTC, the row lasts until d cycles on, and, for an MMAC, TTC is the row's start or the row is island-relative. -/
def mayMatrix (s : State) (d : Nat) (mmac : Bool) : Prop :=
  let c := s.cur.core
  (s.core c).mxen = true ∧ (mmac = false → d ≠ 0 → s.journeyFault d = none) ∧
    ∃ n r, s.ownerRow (clusterOf c) (s.ttcOf c) = some (n, r) ∧ (s.core c).owned.getLsbD n = true ∧ s.ttcOf c + d ≤ r.fin ∧
      (mmac = true → r.islrel = true ∨ s.ttcOf c ≤ r.start)

/-- Sources of the second operand of a lane instruction (05 R107). -/
def vopSrcs : VOp2 → List Src
  | .vec b => [.v b, .tag b]
  | .bs b => [.s b]

/-- Sources of the amount of a lane shift (05 R118). -/
def shSrcs : ShAmt → List Src
  | .vec b => [.v b, .tag b]
  | .imm _ => []
  | .bs b => [.s b]

/-- The vector result that `t` adds to `s`: one landing at cycle `at_`, in v(d) with the tag, whose lanes are those of the active
elements of `m`, whose data has r(i) in every active element i, and whose flags are the union over the active elements (05 R104). -/
def LandsLanes (s t : State) (at_ : Nat) (d : VReg) (tag : BitVec 4) (m : Mask) (r : Nat → Nat × BitVec 9) : Prop :=
  let w := tagWidth tag
  let n := 256 / w
  ∃ data : Vec,
    t = s.land at_ [.v d data (lanesOf w n (active m w)) tag]
      (flagUnion (((List.range n).map fun i => if active m w i then r i else (0, 0)).map (·.2))) ∧
    ∀ i, i < n → active m w i = true → elem w i data = (r i).1 % 2 ^ (8 * w)

end Sys2Proof.Safety
end

