-- ==== Sys2Proof/Certificates/Slice0/Obligations.lean ====
section
/-! DEFINITION. The statements for the provers. -/

open Sys2Proof Sys2Proof.Machine Sys2Proof.Safety

/-! ## Integer, bit and selection instructions (04 R84 to R91) -/

/-- 04 R84 to R86: the integer instructions with two register operands land the value of the mathematical operation, wrapped to 64 bits, in s(D),
at issue + 16 or, for the divisions, at issue + 64; nothing else changes. -/
def Obligations.IntegerArithmeticLands : Prop :=
  ∀ (s : State) (h : Hd) (d a b : SReg), ready h [.s a, .s b] s = true →
    let x := s.sreg a
    let y := s.sreg b
    let lands (n : Nat) (v : Word) : Res := .next (s.landS (s.acc + n) d v)
    exec (.nop h) s = .next s ∧
    exec (.add h d a b) s = lands 16 (BitVec.ofNat 64 (x.toNat + y.toNat)) ∧
    exec (.sub h d a b) s = lands 16 (BitVec.ofInt 64 (x.toInt - y.toInt)) ∧
    exec (.mul h d a b) s = lands 16 (BitVec.ofNat 64 (x.toNat * y.toNat)) ∧
    exec (.mulh h d a b) s = lands 16 (BitVec.ofInt 64 (x.toInt * y.toInt / (2 ^ 64 : Nat))) ∧
    exec (.mulhu h d a b) s = lands 16 (BitVec.ofNat 64 (x.toNat * y.toNat / 2 ^ 64)) ∧
    exec (.div h d a b) s = lands 64 (if y = 0 then BitVec.allOnes 64 else BitVec.ofInt 64 (x.toInt.tdiv y.toInt)) ∧
    exec (.divu h d a b) s = lands 64 (if y = 0 then BitVec.allOnes 64 else BitVec.ofNat 64 (x.toNat / y.toNat)) ∧
    exec (.rem h d a b) s = lands 64 (if y = 0 then x else BitVec.ofInt 64 (x.toInt.tmod y.toInt)) ∧
    exec (.remu h d a b) s = lands 64 (if y = 0 then x else BitVec.ofNat 64 (x.toNat % y.toNat)) ∧
    ∀ (sh : BitVec 3) (imm : BitVec 48),
      exec (.lea h d a b sh imm) s = lands 16 (BitVec.ofInt 64 (x.toInt + y.toInt * (2 ^ sh.toNat : Nat) + imm.toInt))

/-- 04 R85, R87: the instructions on one register, with their immediates, land their result in s(D) at issue + 16: counts are stated by
the bits they count.
04 R88: INSB replaces the field of s(D) and keeps its other bits. 04 R87: bit k of the carry-less product is the exclusive or, over all
i + j = k, of a[i] and b[j]; CLMUL lands bits 63 to 0 of it, CLMULH bits 127 to 64.
04 R83, R85, R87: the instructions whose second operand is a register or a sign-extended immediate land their result in s(D) at issue +
16; a shift amount is the operand modulo 64. -/
def Obligations.BitAndSecondOperandFormsLand : Prop :=
  (∀ (s : State) (h : Hd) (d a : SReg), ready h [.s a] s = true →
     let x := s.sreg a
     let lands (v : Word) : Res := .next (s.landS (s.acc + 16) d v)
     (∀ imm : BitVec 48, exec (.addi h d a imm) s = lands (BitVec.ofInt 64 (x.toInt + imm.toInt)) ∧
       exec (.movi h d imm) s = lands (BitVec.ofInt 64 imm.toInt)) ∧
     (∀ imm : BitVec 16, exec (.movhi h d a imm) s = lands (BitVec.ofNat 64 (imm.toNat * 2 ^ 48 + x.toNat % 2 ^ 48))) ∧
     exec (.abs h d a) s = lands (BitVec.ofNat 64 x.toInt.natAbs) ∧
     (∃ n, exec (.clz h d a) s = lands (BitVec.ofNat 64 n) ∧ n ≤ 64 ∧ (∀ i, i < n → x.getLsbD (63 - i) = false) ∧
       (n < 64 → x.getLsbD (63 - n) = true)) ∧
     (∃ n, exec (.ctz h d a) s = lands (BitVec.ofNat 64 n) ∧ n ≤ 64 ∧ (∀ i, i < n → x.getLsbD i = false) ∧
       (n < 64 → x.getLsbD n = true)) ∧
     exec (.popc h d a) s = lands (BitVec.ofNat 64 ((List.range 64).countP x.getLsbD)) ∧
     (∃ v, exec (.brev h d a) s = lands v ∧ ∀ i, i < 64 → v.getLsbD i = x.getLsbD (63 - i)) ∧
     ∀ p l : BitVec 6,
       exec (.sext h d a l) s = lands (BitVec.ofInt 64 (BitVec.ofNat (l.toNat + 1) x.toNat).toInt) ∧
       exec (.zext h d a l) s = lands (BitVec.ofNat 64 (x.toNat % 2 ^ (l.toNat + 1))) ∧
       exec (.extb h false d a p l) s = lands (BitVec.ofNat 64 (x.toNat / 2 ^ p.toNat % 2 ^ (l.toNat + 1))) ∧
       exec (.extb h true d a p l) s = lands (BitVec.ofInt 64 (BitVec.ofNat (l.toNat + 1) (x.toNat / 2 ^ p.toNat)).toInt)) ∧
  (∀ (s : State) (h : Hd) (d a b : SReg),
     let x := s.sreg a
     let y := s.sreg b
     let lands (v : Word) : Res := .next (s.landS (s.acc + 16) d v)
     let bit (k : Nat) : Bool := (List.range 64).foldl (fun p i => p != (decide (i ≤ k) && x.getLsbD (k - i) && y.getLsbD i)) false
     (ready h [.s d, .s a] s = true → ∀ p l : BitVec 6, ∃ v, exec (.insb h d a p l) s = lands v ∧
       ∀ i, i < 64 → v.getLsbD i =
         if p.toNat ≤ i ∧ i < p.toNat + l.toNat + 1 then x.getLsbD (i - p.toNat) else (s.sreg d).getLsbD i) ∧
     (ready h [.s a, .s b] s = true →
       (∃ v, exec (.clmul h d a b) s = lands v ∧ ∀ k, k < 64 → v.getLsbD k = bit k) ∧
       (∃ v, exec (.clmulh h d a b) s = lands v ∧ ∀ k, k < 64 → v.getLsbD k = bit (k + 64)))) ∧
  (∀ (s : State) (h : Hd) (d a : SReg) (o : Op2), ready h (.s a :: op2Srcs o) s = true →
     let x := s.sreg a
     let y : Word := match o with
       | .reg b => s.sreg b
       | .imm i => BitVec.ofInt 64 i.toInt
     let n := y.toNat % 64
     let lands (v : Word) : Res := .next (s.landS (s.acc + 16) d v)
     exec (.and h d a o) s = lands (x &&& y) ∧
     exec (.or h d a o) s = lands (x ||| y) ∧
     exec (.xor h d a o) s = lands (x ^^^ y) ∧
     exec (.andn h d a o) s = lands (x &&& ~~~y) ∧
     exec (.orn h d a o) s = lands (x ||| ~~~y) ∧
     exec (.min h d a o) s = lands (if x.toInt < y.toInt then x else y) ∧
     exec (.max h d a o) s = lands (if x.toInt < y.toInt then y else x) ∧
     exec (.minu h d a o) s = lands (if x.toNat < y.toNat then x else y) ∧
     exec (.maxu h d a o) s = lands (if x.toNat < y.toNat then y else x) ∧
     exec (.shl h d a o) s = lands (BitVec.ofNat 64 (x.toNat * 2 ^ n)) ∧
     exec (.shr h d a o) s = lands (BitVec.ofNat 64 (x.toNat / 2 ^ n)) ∧
     exec (.sar h d a o) s = lands (BitVec.ofInt 64 (x.toInt / (2 ^ n : Nat))) ∧
     exec (.rol h d a o) s = lands (BitVec.ofNat 64 (x.toNat * 2 ^ n + x.toNat / 2 ^ (64 - n))))

/-- 04 R89 to R91: a compare lands its condition in p(D) and the complement in p(C), C's as the higher field; PLOG lands the operation that
F names on two predicates; SEL lands s(A) or s(B) as p(C) says. All land at issue + 16. -/
def Obligations.ComparesAndSelectionLand : Prop :=
  ∀ (s : State) (h : Hd),
    let cond (f : BitVec 3) (x y : Word) : Bool :=
      match f.toNat with
      | 0 => x = y
      | 1 => x ≠ y
      | 2 => x.toInt < y.toInt
      | 3 => y.toInt ≤ x.toInt
      | 4 => x.toNat < y.toNat
      | 5 => y.toNat ≤ x.toNat
      | 6 => x &&& y ≠ 0
      | _ => x &&& y = 0
    let pair (d c : PReg) (v : Bool) : Res := .next (s.land (s.acc + 16) [.p d v, .p c (!v)])
    (∀ (f : BitVec 3) (d c : PReg) (a b : SReg), ready h [.s a, .s b] s = true →
      exec (.cmp h f d c a b) s = pair d c (cond f (s.sreg a) (s.sreg b))) ∧
    (∀ (f : BitVec 3) (d c : PReg) (a : SReg) (x : BitVec 48), ready h [.s a] s = true →
      exec (.cmpi h f d c a x) s = pair d c (cond f (s.sreg a) (BitVec.ofInt 64 x.toInt))) ∧
    (∀ (f : BitVec 3) (d a b : PReg), ready h [.p a, .p b] s = true →
      exec (.plog h f d a b) s = .next (s.land (s.acc + 16) [.p d
        (([s.preg a && s.preg b, s.preg a || s.preg b, s.preg a ^^ s.preg b, s.preg a && !s.preg b, s.preg a || !s.preg b,
          !(s.preg a && s.preg b), !(s.preg a || s.preg b), !(s.preg a ^^ s.preg b)])[f.toNat]!)])) ∧
    (∀ (d a b : SReg) (c : PReg), ready h [.s a, .s b, .p c] s = true →
      exec (.sel h d a b c) s = .next (s.landS (s.acc + 16) d (if s.preg c then s.sreg a else s.sreg b)))

/-! ## Scalar floating point (04 R92 to R94) -/

/-- 04 R92 to R94: the FP32 instructions land in bits 31 to 0 of s(D), bits 63 to 32 zero, the value that the operation of the Number
formats gives under the rounding mode of M, with its flags: FDIV and FSQRT at issue + 48, the others at issue + 16. FCMP lands its
predicates; FCVT its 64 bits. -/
def Obligations.ScalarFloatingPointLands : Prop :=
  ∀ (s : State) (h : Hd) (rm : Rnd) (d a b c : SReg), ready h ([.s a, .s b, .s c] ++ rndSrcs rm) s = true →
    let m := s.rmode rm
    let x := f32 (s.sreg a)
    let y := f32 (s.sreg b)
    let z := f32 (s.sreg c)
    let lands (n : Nat) (r : Nat × BitVec 9) : Res := .next (s.landS (s.acc + n) d (BitVec.ofNat 64 r.1) r.2)
    exec (.fadd h rm d a b) s = lands 16 (addVal fp32 m x y) ∧
    exec (.fsub h rm d a b) s = lands 16 (addVal fp32 m x y.flip) ∧
    exec (.fmul h rm d a b) s = lands 16 (mulVal fp32 m x y) ∧
    exec (.fdiv h rm d a b) s = lands 48 (divVal fp32 m x y) ∧
    exec (.fsqrt h rm d a) s = lands 48 (sqrtVal fp32 m x) ∧
    exec (.ffma h 0 rm d a b c) s = lands 16 (fmaVal fp32 m x y z) ∧
    exec (.ffma h 1 rm d a b c) s = lands 16 (fmaVal fp32 m x y z.flip) ∧
    exec (.ffma h 2 rm d a b c) s = lands 16 (fmaVal fp32 m x.flip y z) ∧
    exec (.ffma h 3 rm d a b c) s = lands 16 (fmaVal fp32 m x.flip y z.flip) ∧
    exec (.fmin h d a b) s = lands 16 (minMaxVal fp32 false ((s.sreg a).toNat % 2 ^ 32) ((s.sreg b).toNat % 2 ^ 32)) ∧
    exec (.fmax h d a b) s = lands 16 (minMaxVal fp32 true ((s.sreg a).toNat % 2 ^ 32) ((s.sreg b).toNat % 2 ^ 32)) ∧
    (∀ k : Fin 10, exec (.fcvt h k rm d a) s = lands 16 (fcvtVal k m (s.sreg a))) ∧
    ∀ (f : BitVec 2) (p q : PReg), exec (.fcmp h f p q a b) s =
      .next (s.land (s.acc + 16) [.p p (fcmpVal f x y).1, .p q (!(fcmpVal f x y).1)] (fcmpVal f x y).2)

/-! ## Control and timetable (04 R95 to R101) -/

/-- 04 R95 to R97: a taken branch goes to line L + LOFF, slot TSLOT, when that line is 0 to 4,095, or to the PC in s(A) when it is below
2^15; a call lands the PC of the group after its group in s(D) at issue + 16; LOOP counts s(A) down and falls through at zero.
04 R97: a branch that is taken and whose target line or PC lies outside the program takes the trap of cause 0x02, SUB 0x06, at its own
turn, with LOFF, LOFF + s(A) or s(A) in TINFO, and nothing else: no link lands and no count. -/
def Obligations.BranchesReachTheirTargetOrTrap : Prop :=
  (∀ (s : State) (h : Hd) (d a : SReg),
     let goes (t : State) (pc : Nat) : Res := .next (t.branchTo pc)
     let link : State := s.landS (s.acc + 16) d (BitVec.ofNat 64 s.cur.next)
     (∀ pc, (s.branchTo pc).me.pc = pc) ∧
     (∀ (off : BitVec 45) (ts : Fin 5) (l : Nat), ready h [.s a] s = true →
       let line (i : Nat) : Int := (s.cur.pc / 8 : Nat) + off.toInt + i
       let n := s.sreg a
       let down : State := s.landS (s.acc + 16) a (n - 1)
       (line 0 = l → l < 4096 →
         exec (.br h off ts) s = goes s (8 * l + ts) ∧
         exec (.call h d off ts) s = goes link (8 * l + ts) ∧
         (1 < n.toNat → exec (.loop h a off ts) s = goes down (8 * l + ts))) ∧
       (n = 1 → exec (.loop h a off ts) s = .next down) ∧
       (n = 0 → exec (.loop h a off ts) s = .next s) ∧
       (line n.toNat = l → l < 4096 → exec (.brx h a off ts) s = goes s (8 * l + ts))) ∧
     (ready h [.s a] s = true → (s.sreg a).toNat < 2 ^ 15 →
       exec (.jmp h a) s = goes s (s.sreg a).toNat ∧
       exec (.ret h a) s = goes s (s.sreg a).toNat ∧
       exec (.callr h d a) s = goes link (s.sreg a).toNat)) ∧
  (∀ (s : State) (h : Hd) (d a : SReg) (off : BitVec 45) (ts : Fin 5), ready h [.s a] s = true →
     let line : Int := (s.cur.pc / 8 : Nat) + off.toInt
     (line < 0 ∨ 4096 ≤ line →
       exec (.br h off ts) s = .next (s.raise 2 6 (BitVec.ofInt 32 off.toInt)) ∧
       exec (.call h d off ts) s = .next (s.raise 2 6 (BitVec.ofInt 32 off.toInt)) ∧
       (1 < (s.sreg a).toNat → exec (.loop h a off ts) s = .next (s.raise 2 6 (BitVec.ofInt 32 off.toInt)))) ∧
     (line + (s.sreg a).toNat < 0 ∨ 4096 ≤ line + (s.sreg a).toNat →
       exec (.brx h a off ts) s = .next (s.raise 2 6 (BitVec.ofInt 32 (off.toInt + (s.sreg a).toNat)))) ∧
     (2 ^ 15 ≤ (s.sreg a).toNat →
       exec (.jmp h a) s = .next (s.raise 2 6 (BitVec.ofNat 32 (s.sreg a).toNat)) ∧
       exec (.ret h a) s = .next (s.raise 2 6 (BitVec.ofNat 32 (s.sreg a).toNat)) ∧
       exec (.callr h d a) s = .next (s.raise 2 6 (BitVec.ofNat 32 (s.sreg a).toNat)) ∧
       exec (.resyncTo h a) s = .next (s.raise 2 6 (BitVec.ofNat 32 (s.sreg a).toNat))))

/-- 04 R98 to R101: WAITC waits for a TTC or ITC value that is still to come, WAITR for a number of cycles of at least a turn; RDTT
lands the counter or word that F names.
04 R100: RESYNC waits for the first mark after TTC, with PC and WPC at the berth's entry there, or at the PC in s(A) for RESYNC.to; with
no such mark, or none for the berth, it waits for the scan edge as a halted berth does, at its plan entry. A handling ends with MODE set
back. RUN of a berth that an MMAC of the same group holds stays 0b011 until the MMAC is done.
04 R98: a WAITC whose TTC target is L or more, or has come already, takes the slip trap with the counter and the target in TCOORD, and
WAITC.itc in a berth of no island takes SUB 0x03. -/
def Obligations.WaitsResyncAndRdttCompleteOrSlip : Prop :=
  (let resumes (s u : State) (dst : Nat → Nat) : Prop :=
     let row := (s.core s.cur.core).phases.find? fun r => s.ttcOf s.cur.core < r.mark
     let entry := row.bind fun r => r.entries.find? fun (e : Nat × Nat) => e.1 = s.cur.berth
     (∀ r e, row = some r → entry = some e → u.me.pc = dst e.2 ∧ u.me.wpc = dst e.2 ∧ u.me.wait = .ttc r.mark ∧
       u.me.run = if s.me.run = 3 then 3 else 4) ∧
     (entry = none → u.me.pc = s.me.entry ∧ u.me.wpc = s.me.entry ∧ u.me.wait = .none ∧ u.me.run = 2) ∧
     u.me.intrap = false ∧ u.me.mode = if s.me.intrap then s.me.pmode else s.me.mode
   ∀ (s : State) (h : Hd) (d a : SReg) (x : BitVec 32), ready h [.s a] s = true →
     let t := (s.sreg a).toNat + x.toNat
     let b := s.cur.berth
     let c := s.cur.core
     (s.ttcOf c < t → t < s.lenOf c → exec (.waitc h a x) s = .next (s.waitFor (.ttc t))) ∧
     (∀ i, s.island? c b = some i → s.itcOf i < t → exec (.waitcItc h a x) s = .next (s.waitFor (.itc t))) ∧
     exec (.waitr h a x) s = .next (s.waitFor (.cycle (s.acc + if t < 16 then 16 else t))) ∧
     (∃ u, exec (.resync h) s = .next u ∧ resumes s u fun e => e) ∧
     ((s.sreg a).toNat < 2 ^ 15 → ∃ u, exec (.resyncTo h a) s = .next u ∧ resumes s u fun _ => (s.sreg a).toNat) ∧
     ∀ f : BitVec 3, ∃ v, exec (.rdtt h f d) s = .next (s.landS (s.acc + 16) d v) ∧
       (f = 0 → v.toNat = s.ttcOf c % 2 ^ 64) ∧
       (f = 1 → v.toNat = s.itc c b % 2 ^ 64) ∧
       (f = 2 → v.toNat = s.acc % 2 ^ 64) ∧
       (f = 3 → v.toNat = (s.scnAt c).toNat) ∧
       (f = 4 → v.toNat = s.gt / 552 % 2 ^ 64) ∧
       (f = 5 → v = s.phaseWord c b) ∧
       (f = 6 → v.toNat = s.lenOf c % 2 ^ 64) ∧
       (f = 7 → ∀ p l, (s.core c).owner = some (p, l) → v.toNat = (b + 16 * l + 2048 * p) % 2 ^ 64)) ∧
  (∀ (s : State) (h : Hd) (a : SReg) (x : BitVec 32), ready h [.s a] s = true →
     let t := (s.sreg a).toNat + x.toNat
     let c := s.cur.core
     let i := s.ttcOf c
     (s.lenOf c ≤ t → exec (.waitc h a x) s = .next (s.raise 0xB 2 0 (State.slipCoord i t))) ∧
     (t < s.lenOf c → t ≤ i → exec (.waitc h a x) s = .next (s.raise 0xB 1 (BitVec.ofNat 32 (i - t)) (State.slipCoord i t))) ∧
     (s.island? c s.cur.berth = none → exec (.waitcItc h a x) s = .next (s.raise 0xB 3 0 (State.slipCoord 0 t))) ∧
     (∀ j, s.island? c s.cur.berth = some j → t ≤ s.itcOf j →
       exec (.waitcItc h a x) s = .next (s.raise 0xB 1 (BitVec.ofNat 32 (s.itcOf j - t)) (State.slipCoord (s.itcOf j) t))))

/-! ## Vector instructions (05 R103 to R134) -/

/-- 05 R104, R107 to R109: lane arithmetic on v(A) and a vector or broadcast operand lands at issue + 16, in the active elements, the sum,
difference, product, minimum or maximum of the elements: exact integers wrapped or clamped, or the operation of the FP format under M. VFMA
and VFMS, on FP tags, accumulate into v(D). The result takes A's tag. -/
def Obligations.VectorLaneArithmeticLands : Prop :=
  ∀ (s : State) (h : Hd) (rm : Rnd) (k : MReg) (d a : VReg) (o : VOp2) (t : BitVec 4),
    ready h ([.v a, .tag a, .v d, .tag d, .m k] ++ vopSrcs o ++ rndSrcs rm) s = true → s.vtag a = t → (∀ b, o = .vec b → s.vtag b = t) →
    let w := tagWidth t
    let f := fmtOfTag t
    let m := s.rmode rm
    let x (i : Nat) : Nat := elem w i (s.vreg a)
    let y (i : Nat) : Nat := s.vop2 o w i
    let z (i : Nat) : FVal := fdecode f (elem w i (s.vreg d))
    let gives (j : Instr) (r : Nat → Nat × BitVec 9) : Prop := ∃ u, exec j s = .next u ∧ LandsLanes s u (s.acc + 16) d t (s.mreg k) r
    (t ∈ [4, 5, 6, 7] → ∀ sat : Bool,
      gives (.vadd h sat rm k d a o) (fun i => intOut t sat (intVal t (x i) + intVal t (y i))) ∧
      gives (.vsub h sat rm k d a o) (fun i => intOut t sat (intVal t (x i) - intVal t (y i))) ∧
      gives (.vmul h sat rm k d a o) (fun i => intOut t sat (intVal t (x i) * intVal t (y i))) ∧
      gives (.vmin h k d a o) (fun i => (if intVal t (x i) < intVal t (y i) then x i else y i, 0)) ∧
      gives (.vmax h k d a o) (fun i => (if intVal t (x i) < intVal t (y i) then y i else x i, 0))) ∧
    (t ∈ [1, 2, 3] →
      gives (.vadd h false rm k d a o) (fun i => addVal f m (fdecode f (x i)) (fdecode f (y i))) ∧
      gives (.vsub h false rm k d a o) (fun i => addVal f m (fdecode f (x i)) (fdecode f (y i)).flip) ∧
      gives (.vmul h false rm k d a o) (fun i => mulVal f m (fdecode f (x i)) (fdecode f (y i))) ∧
      gives (.vmin h k d a o) (fun i => minMaxVal f false (x i) (y i)) ∧
      gives (.vmax h k d a o) (fun i => minMaxVal f true (x i) (y i)) ∧
      (s.vtag d = t →
        gives (.vfma h rm k d a o) (fun i => fmaVal f m (fdecode f (x i)) (fdecode f (y i)) (z i)) ∧
        gives (.vfms h rm k d a o) (fun i => fmaVal f m (fdecode f (x i)) (fdecode f (y i)) (z i).flip)))

/-- 05 R110 to R113: the one-operand lane instructions and the divisions land in the active elements at issue + 16, VDIV and VSQRT at
issue + 64: the absolute value or the negation, exact and wrapped or clamped for integers and of the sign bit alone for FP numbers, and the
functions of the Number formats. -/
def Obligations.VectorUnaryAndDivideLand : Prop :=
  ∀ (s : State) (h : Hd) (rm : Rnd) (k : MReg) (d a b : VReg) (t : BitVec 4),
    ready h ([.v a, .tag a, .v b, .tag b, .m k] ++ rndSrcs rm) s = true → s.vtag a = t →
    let w := tagWidth t
    let f := fmtOfTag t
    let m := s.rmode rm
    let x (i : Nat) : Nat := elem w i (s.vreg a)
    let v (i : Nat) : FVal := fdecode f (x i)
    let sign : Nat := 2 ^ (8 * w - 1)
    let gives (j : Instr) (n : Nat) (r : Nat → Nat × BitVec 9) : Prop := ∃ u, exec j s = .next u ∧ LandsLanes s u (s.acc + n) d t (s.mreg k) r
    (t ∈ [4, 5, 6] → ∀ sat : Bool,
      gives (.vabs h sat k d a) 16 (fun i => intOut t sat (intVal t (x i)).natAbs) ∧
      gives (.vneg h sat k d a) 16 (fun i => intOut t sat (-intVal t (x i)))) ∧
    (t ∈ [1, 2, 3] →
      gives (.vabs h false k d a) 16 (fun i => if (v i).isNaN then nanResult f [v i] else (x i % sign, 0)) ∧
      gives (.vneg h false k d a) 16 (fun i => if (v i).isNaN then nanResult f [v i] else (if x i < sign then x i + sign else x i - sign, 0)) ∧
      gives (.vrcp h k d a) 16 (fun i => rcpVal f (v i)) ∧
      gives (.vrsq h k d a) 16 (fun i => rsqVal f (v i)) ∧
      gives (.vexp2 h k d a) 16 (fun i => exp2Val f (v i)) ∧
      gives (.vlog2 h k d a) 16 (fun i => log2Val f (v i)) ∧
      gives (.vsqrt h rm k d a) 64 (fun i => sqrtVal f m (v i)) ∧
      (s.vtag b = t → gives (.vdiv h rm k d a b) 64 (fun i => divVal f m (v i) (fdecode f (elem w i (s.vreg b))))))

/-- 05 R114 to R116: VCMP lands in m(D) the truth of the condition in every lane of each active element and 0 in the others; VSEL takes each
active element from v(A) or v(B) as m(C) says; VMLOG, VMPOP and VMFIRST work on the 256 bits of masks. All land at issue + 16. -/
def Obligations.VectorComparesAndMasksLand : Prop :=
  ∀ (s : State) (h : Hd) (k : MReg),
    (∀ (c : Fin 7) (d : MReg) (a : VReg) (o : VOp2) (t : BitVec 4), ready h ([.v a, .tag a, .m k] ++ vopSrcs o) s = true →
      s.vtag a = t → (∀ b, o = .vec b → s.vtag b = t) →
      (c.val ≤ 1 → t.toNat ≤ 8) → (2 ≤ c.val → 1 ≤ t.toNat ∧ t.toNat ≤ 7) → (c.val = 6 → t.toNat ≤ 3) →
      let w := tagWidth t
      let r (i : Nat) : Bool × BitVec 9 := cmpElem c t (elem w i (s.vreg a)) (s.vop2 o w i)
      ∃ v, exec (.vcmp h c k d a o) s = .next (s.land (s.acc + 16) [.m d v]
          (flagUnion ((List.range (256 / w)).map fun i => if active (s.mreg k) w i then (r i).2 else 0))) ∧
        ∀ j, j < 256 → v.getLsbD j = (active (s.mreg k) w (j / w) && (r (j / w)).1)) ∧
    (∀ (d a b : VReg) (c : MReg) (t : BitVec 4), ready h [.v a, .tag a, .v b, .tag b, .m k, .m c] s = true →
      s.vtag a = t → s.vtag b = t → t.toNat ≤ 8 →
      ∃ u, exec (.vsel h k d a b c) s = .next u ∧ LandsLanes s u (s.acc + 16) d t (s.mreg k) fun i =>
        (if active (s.mreg c) (tagWidth t) i then elem (tagWidth t) i (s.vreg a) else elem (tagWidth t) i (s.vreg b), 0)) ∧
    (∀ (f : BitVec 3) (d a b : MReg), ready h [.m a, .m b] s = true →
      let x := s.mreg a
      let y := s.mreg b
      exec (.vmlog h f d a b) s = .next (s.land (s.acc + 16)
        [.m d (([x &&& y, x ||| y, x ^^^ y, x &&& ~~~y, x ||| ~~~y, ~~~(x &&& y), ~~~(x ||| y), ~~~(x ^^^ y)])[f.toNat]!)])) ∧
    (∀ (d : SReg) (a : MReg), ready h [.m a, .m k] s = true →
      let x := s.mreg a &&& s.mreg k
      exec (.vmpop h k d a) s = .next (s.landS (s.acc + 16) d (BitVec.ofNat 64 ((List.range 256).countP x.getLsbD))) ∧
      ∀ last : Bool, ∃ n, exec (.vmfirst h last k d a) s = .next (s.landS (s.acc + 16) d (BitVec.ofNat 64 n)) ∧
        ((n = 256 ∧ x = 0) ∨ (n < 256 ∧ x.getLsbD n = true ∧
          ∀ j, j < 256 → x.getLsbD j = true → if last then j ≤ n else n ≤ j)))

/-- 05 R117 to R120: the bitwise instructions, the shifts by a vector, an immediate or a scalar, the carry-less products of 64-bit lanes and
the counts land in the active elements at issue + 16, with no flag. -/
def Obligations.VectorBitOperationsLand : Prop :=
  ∀ (s : State) (h : Hd) (k : MReg) (d a : VReg) (o : VOp2) (n : ShAmt) (t : BitVec 4),
    ready h ([.v a, .tag a, .m k] ++ vopSrcs o ++ shSrcs n) s = true → s.vtag a = t → (∀ b, o = .vec b → s.vtag b = t) →
    (∀ b, n = .vec b → s.vtag b = t) →
    let w := tagWidth t
    let x (i : Nat) : Nat := elem w i (s.vreg a)
    let y (i : Nat) : Nat := s.vop2 o w i
    let amt (i : Nat) : Nat := match n with
      | .vec b => elem w i (s.vreg b)
      | .imm z => z.toNat
      | .bs b => (s.sreg b).toNat
    let gives (j : Instr) (r : Nat → Nat) : Prop := ∃ u, exec j s = .next u ∧ LandsLanes s u (s.acc + 16) d t (s.mreg k) fun i => (r i, 0)
    (t.toNat ≤ 8 →
      gives (.vand h k d a o) (fun i => x i &&& y i) ∧
      gives (.vor h k d a o) (fun i => x i ||| y i) ∧
      gives (.vxor h k d a o) (fun i => x i ^^^ y i) ∧
      gives (.vnot h k d a) (fun i => 2 ^ (8 * w) - 1 - x i)) ∧
    (4 ≤ t.toNat → t.toNat ≤ 8 →
      gives (.vshl h k d a n) (fun i => if 8 * w ≤ amt i then 0 else x i * 2 ^ amt i) ∧
      gives (.vshr h k d a n) (fun i => x i / 2 ^ amt i) ∧
      gives (.vpopc h k d a) (fun i => (List.range (8 * w)).countP (x i).testBit) ∧
      gives (.vclz h k d a) (fun i => 8 * w - if x i = 0 then 0 else (x i).log2 + 1)) ∧
    (4 ≤ t.toNat → t.toNat ≤ 6 → gives (.vsar h k d a n) (fun i => toBits (8 * w) (intVal t (x i) / (2 ^ amt i : Nat)))) ∧
    (t = 0 ∨ t = 8 → ∀ hi : Bool, ∃ data, exec (.vclmul h hi k d a o) s =
        .next (s.land (s.acc + 16) [.v d data (lanesOf 8 32 (active (s.mreg k) 8)) t]) ∧
      ∀ i, i < 32 → elem 8 i data =
        clmulNat (elem 8 i (s.vreg a)) (s.vop2 o 8 i) 64 / (if hi then 2 ^ 64 else 1) % 2 ^ 64)

/-- 05 R121 to R125: the instructions that move elements: VPERM by indexes, VSHUF by a pattern, VSLIDE over the joined registers, VBCAST of a
scalar or of an element, VEXTR to a scalar register and VINS of one element. -/
def Obligations.VectorMovesLand : Prop :=
  ∀ (s : State) (h : Hd) (k : MReg) (d a b : VReg) (r p q : SReg) (t : BitVec 4),
    ready h [.v a, .tag a, .v b, .tag b, .tag d, .m k, .s p, .s q] s = true → s.vtag a = t → t.toNat ≤ 8 →
    let w := tagWidth t
    let n := 256 / w
    let x (i : Nat) : Nat := elem w i (s.vreg a)
    let y (i : Nat) : Nat := elem w i (s.vreg b)
    let gives (j : Instr) (v : BitVec 4) (r : Nat → Nat) : Prop :=
      ∃ u, exec j s = .next u ∧ LandsLanes s u (s.acc + 16) d v (s.mreg k) fun i => (r i, 0)
    (s.vtag b ∈ [0, 4, 5, 6, 7] → gives (.vperm h k d a b) t fun i =>
      let e := elem w i (s.vreg b)
      if e < n then x e else 0) ∧
    (s.vtag b = t →
      gives (.vshuf h 0 k d a b) t (fun i => if i % 2 = 0 then x (i / 2) else y (i / 2)) ∧
      gives (.vshuf h 1 k d a b) t (fun i => if i % 2 = 0 then x (n / 2 + i / 2) else y (n / 2 + i / 2)) ∧
      gives (.vshuf h 2 k d a b) t (fun i => if i < n / 2 then x (2 * i) else y (2 * (i - n / 2))) ∧
      gives (.vshuf h 3 k d a b) t (fun i => if i < n / 2 then x (2 * i + 1) else y (2 * (i - n / 2) + 1)) ∧
      ∀ m : Nat, ∀ am : SlAmt, (am = .reg p ∧ m = (s.sreg p).toNat ∨ ∃ z : BitVec 9, am = .imm z ∧ m = z.toNat) →
        gives (.vslide h false k d a b am) t (fun i => if i + m < n then x (i + m) else if i + m < 2 * n then y (i + m - n) else 0) ∧
        gives (.vslide h true k d a b am) t (fun i => if m ≤ i then x (i - m) else if m ≤ i + n then y (i + n - m) else 0)) ∧
    gives (.vshuf h 4 k d a b) t (fun i => x (n - 1 - i)) ∧
    (∀ v : Fin 9, gives (.vbcast h k d (.scalar v p)) (BitVec.ofNat 4 v) fun _ => (s.sreg p).toNat) ∧
    (∀ z : BitVec 8, gives (.vbcast h k d (.elem a z)) t fun _ => if z.toNat < n then x z.toNat else 0) ∧
    (∀ z : BitVec 16,
      let e := (s.sreg q).toNat + z.toNat
      (∀ sg : Bool, exec (.vextr h sg r a q z) s = .next (s.landS (s.acc + 16) r
        (if e < n then (if sg then BitVec.ofInt 64 (toSigned (8 * w) (x e)) else BitVec.ofNat 64 (x e)) else 0))) ∧
      (∀ v : BitVec 4, s.vtag d = v → v.toNat ≤ 8 →
        (256 / tagWidth v ≤ e → exec (.vins h d p q z) s = .next s) ∧
        (e < 256 / tagWidth v → ∃ data, exec (.vins h d p q z) s =
            .next (s.land (s.acc + 16) [.v d data (lanesOf (tagWidth v) (256 / tagWidth v) fun i => i = e) v]) ∧
          elem (tagWidth v) e data = (s.sreg p).toNat % 2 ^ (8 * tagWidth v))))

/-- 05 R126 to R134: reductions, scans, conversions, retagging, quantising, planes, bounds and dot products complete: each lands what its
rule's function of the sources gives. VBND's flags are NV when an active element is a NaN, or a bound is one and an element is active; its
.trap form names the lowest active element out of bound. -/
def Obligations.VectorReductionsAndConversionsLand : Prop :=
  ∀ (s : State) (h : Hd) (rm : Rnd) (k : MReg) (d a b : VReg) (r p q : SReg) (t : BitVec 4),
    ready h ([.v a, .tag a, .v b, .tag b, .v d, .tag d, .m k, .s p, .s q] ++ rndSrcs rm) s = true → s.vtag a = t →
    let w := tagWidth t
    let n := 256 / w
    let m := s.rmode rm
    let x (i : Nat) : Nat := elem w i (s.vreg a)
    let gives (j : Instr) (u : BitVec 4) (f : Nat → Nat × BitVec 9) : Prop :=
      ∃ v, exec j s = .next v ∧ LandsLanes s v (s.acc + 16) d u (s.mreg k) f
    (∀ op : Fin 6, (op.val ≤ 2 → 1 ≤ t.toNat ∧ t.toNat ≤ 7) → (3 ≤ op.val → t = 0 ∨ 4 ≤ t.toNat ∧ t.toNat ≤ 8) →
      let e := redTree op.val m t 8 (s.redElems k a) 0
      let sum : Bool := op = 0 && 4 ≤ t.toNat
      exec (.vred h op rm k r a) s = .next (s.landS (s.acc + 32) r
        (extLow (t ∈ [4, 5, 6]) (8 * w) (BitVec.ofNat 64 (match e.1.head?.join with
          | none => redIdentity op.val t
          | some (i, v) => if sum then (intOut t true i).1 else v)))
        (e.2 ||| match e.1.head?.join with
          | none => 0
          | some (i, _) => if sum then (intOut t true i).2 else 0))) ∧
    (1 ≤ t.toNat → t.toNat ≤ 7 →
      let lo := (s.sreg p).toNat % 2 ^ (8 * w)
      let hi := (s.sreg q).toNat % 2 ^ (8 * w)
      let out (i : Nat) : Bool := (boundElem t (x i) lo hi).1 || (boundElem t (x i) lo hi).2
      let nan (z : Nat) : Bool := decide (t.toNat ≤ 3) && (fdecode (fmtOfTag t) z).isNaN
      let nv : BitVec 9 := if (List.range n).any fun i => active (s.mreg k) w i && (nan (x i) || nan lo || nan hi) then fNV else 0
      (∀ op : Fin 3, ∃ data, exec (.vscan h op rm k d a) s = .next (s.land (s.acc + 32)
          [.v d data (lanesOf w n (active (s.mreg k) w)) t] (scanSteps op.val m t 8 1 (s.redElems k a) 0).2) ∧
        ∀ i v z, ((scanSteps op.val m t 8 1 (s.redElems k a) 0).1)[i]? = some (some (v, z)) → i < n → elem w i data = z % 2 ^ (8 * w)) ∧
      (∀ f : BndForm, (match f with
        | .flag md => ∃ v, exec (.vbnd h f k a p q) s = .next (s.land (s.acc + 16) [.m md v] nv) ∧
            ∀ j, j < 256 → v.getLsbD j = (active (s.mreg k) w (j / w) && out (j / w))
        | .clamp vd => ∃ u, exec (.vbnd h f k a p q) s = .next u ∧ LandsLanes s u (s.acc + 16) vd t (s.mreg k) fun i =>
            let c := boundElem t (x i) lo hi
            (if c.1 then (s.sreg p).toNat else if c.2 then (s.sreg q).toNat else x i, nv)
        | .trap =>
          ((∀ i, i < n → active (s.mreg k) w i = true → out i = false) →
            exec (.vbnd h f k a p q) s = .next (s.land (s.acc + 16) [] nv)) ∧
          ∀ i, i < n → active (s.mreg k) w i = true → out i = true → (∀ j, j < i → active (s.mreg k) w j = true → out j = false) →
            exec (.vbnd h f k a p q) s = .next (s.raise 0x12 1 (BitVec.ofNat 32 i) (BitVec.ofNat 64 (x i)))))) ∧
    (t.toNat ≤ 8 → ∀ v : Fin 9, exec (.vtag h v d a) s =
      .next (s.land (s.acc + 16) [.v d (s.vreg a) (BitVec.allOnes 256) (BitVec.ofNat 4 v)])) ∧
    (t = 6 → ∃ data, exec (.vplane h .pack d a) s = .next (s.land (s.acc + 16) [.v d data (BitVec.allOnes 256) 8]) ∧
      ∀ j, j < 2048 → data.getLsbD j = (elem 1 (j % 256) (s.vreg a)).testBit (7 - j / 256)) ∧
    (t = 8 → ∀ c : BitVec 4, c ∈ [2, 4, 8] → ∃ data, exec (.vplane h (.unpack c) d a) s =
        .next (s.land (s.acc + 16) [.v d data (BitVec.allOnes 256) 6]) ∧
      ∀ i l, i < 256 → l < 8 → (elem 1 i data).testBit (7 - l) = (decide (l < c.toNat) && (s.vreg a).getLsbD (256 * l + i))) ∧
    (t ∈ [6, 7] → s.vtag b ∈ [6, 7] → s.vtag d = 4 → ∀ sat : Bool, gives (.vdot4 h sat k d a b) 4 fun i =>
      intOut 4 sat (toSigned 32 (elem 4 i (s.vreg d)) +
        ((List.range 4).map fun j => intVal t (elem 1 (4 * i + j) (s.vreg a)) * intVal (s.vtag b) (elem 1 (4 * i + j) (s.vreg b))).sum)) ∧
    (1 ≤ t.toNat → t.toNat ≤ 7 → ∀ (u : Fin 7) (g : BitVec 2), g.toNat < ratio t (BitVec.ofNat 4 (u.val + 1)) →
      exec (.vcvt h u rm k g d a) s =
        .next (s.landParts d a k t (BitVec.ofNat 4 (u.val + 1)) g.toNat (convert m t (BitVec.ofNat 4 (u.val + 1))))) ∧
    (1 ≤ t.toNat → t.toNat ≤ 3 → ∀ (uns : Bool) (g : BitVec 2), g.toNat < ratio t (if uns then 7 else 6) →
      exec (.vqnt h uns rm k g d a p) s = .next (s.landParts d a k t (if uns then 7 else 6) g.toNat
        fun z => quantize m (if uns then 7 else 6) (fdecode (fmtOfTag t) z) (f32 (s.sreg p)))) ∧
    (4 ≤ t.toNat → t.toNat ≤ 7 → ∀ (u : Fin 3) (g : BitVec 2) (c : BitVec 4) (centre : Bool),
      g.toNat < ratio t (BitVec.ofNat 4 (u.val + 1)) → (t = 6 ∨ (c = 0 ∧ centre = false)) →
      exec (.vdqnt h u rm k g d a p c centre) s = .next (s.landParts d a k t (BitVec.ofNat 4 (u.val + 1)) g.toNat fun z =>
        mulVal (fmtOfTag (BitVec.ofNat 4 (u.val + 1))) m
          (.fin (decide (pnTrunc c.toNat centre (intVal t z) < 0)) (pnTrunc c.toNat centre (intVal t z)).natAbs 0) (f32 (s.sreg p))))

/-! ## The workspace store (07 R152 to R162) -/

/-- 07 R156, R158 to R162: a load, store or atomic whose address it may use puts its access on the data port at issue + 2 (segment j of
VLDX and VSTX at issue + 2 + j) and changes nothing else at issue, but for an atomic, which is a commit point. -/
def Obligations.WorkspaceAccessesIssue : Prop :=
  ∀ (s : State) (h : Hd) (d a b c : SReg) (u v : VReg) (k : MReg) (x : BitVec 48),
    let ea : Word := s.sreg a + BitVec.ofInt 64 x.toInt
    let o := s.here
    let n (sz : Nat) : Nat := [1, 1, 2, 2, 4, 4, 8][sz]!
    let store (s : State) (at_ off len data mask psn : Nat) : State := s.schedRow at_ phWrite (some o)
      (.storeEffect { org := some o, key := wsKey s.cur.core off, len := len, data := data, mask := mask, psn := psn, rank := 1 })
    (∀ sz : Fin 7, ready h [.s a] s = true → reach s ea (n sz) (n sz) .read →
      exec (.ld h sz d a x) s = .next (s.schedAux (s.acc + 2) phSample (some o) (.load o ea.toNat (n sz) (sz.val ∈ [0, 2, 4]) d))) ∧
    (∀ sz : Fin 4, ready h [.s a, .s b] s = true → reach s ea (2 ^ sz.val) (2 ^ sz.val) .write →
      exec (.st h sz a b x) s = .next (store s (s.acc + 2) ea.toNat (2 ^ sz.val) ((s.sreg b).toNat % 2 ^ (8 * 2 ^ sz.val)) (2 ^ 2 ^ sz.val - 1) 0)) ∧
    (∀ tag : Fin 9, ready h [.s a, .m k] s = true → reach s ea 256 32 .read →
      exec (.vld h tag k u a x) s = .next (s.schedAux (s.acc + 2) phSample (some o) (.vload o ea.toNat tag (s.mreg k) u))) ∧
    (ready h [.s a, .v v, .tag v, .m k] s = true → reach s ea 256 32 .write →
      exec (.vst h k a v x) s = .next (store s (s.acc + 2) ea.toNat 256 (s.vreg v).toNat (s.mreg k).toNat
        (if s.vtag v = 15 then (s.mreg k).toNat else 0))) ∧
    (ready h [.s a, .v v, .tag v, .m k] s = true → s.vtag v = 4 →
      let segs := s.segments k a v x
      ((∀ e, e ∈ segs → reach s e.2 32 32 .read) → ∀ tag : Fin 9,
        exec (.vldx h tag k u a v x) s = .next (s.nextSeg o (segs.map fun e => (e.1, e.2.toNat)) 0 false tag
          (segLanes (segs.map fun e => (e.1, e.2.toNat))) u)) ∧
      (ready h [.v u, .tag u] s = true → (∀ e, e ∈ segs → reach s e.2 32 32 .write) →
        exec (.vstx h k a v u x) s = .next (segs.foldl (fun t e => store t (s.acc + 2 + e.1) e.2.toNat 32
          ((s.vreg u).toNat / 2 ^ (256 * e.1) % 2 ^ 256) (2 ^ 32 - 1) (if s.vtag u = 15 then 2 ^ 32 - 1 else 0)) s))) ∧
    (∀ dbl : Bool, ready h [.s a, .s b] s = true → reach s ea (if dbl then 8 else 4) (if dbl then 8 else 4) .both →
      let amo (op : Fin 9) (sg : Bool) (cmp : Word) : Res := .next (s.schedAux (s.acc + 2) phSample (some o)
        (.atomic o ea.toNat (if dbl then 8 else 4) op sg (s.sreg b) cmp d)).commit
      exec (.amoadd h dbl d a b x) s = amo 0 (!dbl) 0 ∧
      exec (.amoswp h dbl d a b x) s = amo 1 (!dbl) 0 ∧
      (ready h [.s c] s = true → exec (.amocas h dbl d a b c x) s = amo 2 (!dbl) (s.sreg c)) ∧
      exec (.amomin h dbl false d a b x) s = amo 3 (!dbl) 0 ∧
      exec (.amomax h dbl false d a b x) s = amo 4 (!dbl) 0 ∧
      exec (.amomin h dbl true d a b x) s = amo 5 false 0 ∧
      exec (.amomax h dbl true d a b x) s = amo 6 false 0 ∧
      exec (.amoand h dbl d a b x) s = amo 7 (!dbl) 0 ∧
      exec (.amoor h dbl d a b x) s = amo 8 (!dbl) 0)

/-- 07 R157, R158, R162: at its sample cycle a load whose units are good puts on the agenda the landing, at issue + 16, of the bytes it
reads, extended as F says; an atomic puts its write in the same cycle and the landing of the old value. Neither changes memory or a
register at once. 07 R160, R161: VLD lands its active elements, with tag 15 when one of them is poisoned; a segment of VLDX is read and the
next put at its cycle, and the last lands them all.
11 R234, 12 R256, 16 R304: LDR, SBD and PIL land at issue + 36 what they sample from the room, from the tier's replica and from the image in
the room: an active element that meets poison gives tag 15, and a scalar that does lands nothing and queues the trap of cause 0x06 SUB 0x03. -/
def Obligations.LoadsAndAtomicsSampleMemory : Prop :=
  (∀ (s : State) (o : Org) (off n : Nat) (sg : Bool) (d : SReg), n ∈ [1, 2, 4, 8] → s.cur.denied = none →
     (State.unitsOf 4 (wsKey o.core off) n).all (fun u => !s.badUnits.contains u && !s.psnUnits.contains u) = true →
     let old := s.readAs clsT (wsKey o.core off) n
     let value : Word := if sg then BitVec.ofInt 64 (toSigned (8 * n) old) else BitVec.ofNat 64 old
     let land (s : State) : State := s.schedRow (o.issue + 16) phLand (some o) (.landing { org := o, dests := [.s d value], flags := 0 })
     auxEvent (.load o off n sg d) s = land s ∧
     ∀ (op : Fin 9) (b c : Word),
       let new := atomNew op (8 * n) old (b.toNat % 2 ^ (8 * n)) (c.toNat % 2 ^ (8 * n))
       let w : Wr := { org := some o, key := wsKey o.core off, len := n, data := new, mask := 2 ^ n - 1, psn := 0, rank := 0 }
       auxEvent (.atomic o off n op sg b c d) s = land (s.schedRow s.acc phWrite (some o) (.storeEffect w))) ∧
  (∀ (s : State) (o : Org) (off : Nat) (tag : Fin 9) (m : Mask) (d : VReg), s.cur.denied = none →
     let key := wsKey o.core off
     let good (n : Nat) : Bool := (State.unitsOf 4 key n).all fun u => !s.badUnits.contains u
     let psn (i n : Nat) : Bool := (State.unitsOf 4 (key + i) n).any s.psnUnits.contains
     let t := BitVec.ofNat 4 tag.val
     let w := tagWidth t
     let lands (v : Nat) (lanes : Mask) (p : Bool) : State := s.schedRow (o.issue + 16) phLand (some o)
       (.landing { org := o, dests := [.v d (BitVec.ofNat 2048 v) lanes (if p then 15 else t)], flags := 0 })
     (good 256 = true → auxEvent (.vload o off tag m d) s = lands (s.readAs clsT key 256) (lanesOf w (256 / w) (active m w))
       ((List.range (256 / w)).any fun i => active m w i && psn (w * i) w)) ∧
     (good 32 = true → ∀ (j acc : Nat) (p : Bool),
       let v := acc + s.readAs clsT key 32 * 2 ^ (256 * j)
       auxEvent (.vsegs o [(j, off)] acc p tag m d) s = lands v m (p || psn 0 32) ∧
       ∀ (i off' : Nat) (l : List (Nat × Nat)), auxEvent (.vsegs o ((j, off) :: (i, off') :: l) acc p tag m d) s =
         s.schedAux (o.issue + 2 + i) phSample (some o) (.vsegs o ((i, off') :: l) v (p || psn 0 32) tag m d))) ∧
  (∀ (s : State) (o : Org) (off ofs : Nat) (m : Mask), s.cur.denied = none → s.upsets = [] → (s.tier (tierOf o.core)).bonds = [] →
     let known (key n : Nat) : Prop := ∀ u ∈ State.unitsOf 8 key n, s.ecc.get .good u = .good ∨ s.ecc.get .good u = .poison
     let psn (key n : Nat) : Bool := (State.unitsOf 8 key n).any fun u => s.ecc.get .good u = .poison
     let lands (d : DVal) : State := s.schedRow (o.issue + 36) phLand (some o) (.landing { org := o, dests := [d], flags := 0 })
     let room := roomKey o.core off
     let common := commonKey (tierOf o.core) off
     (∀ (sz : Fin 7) (d : SReg),
       let n := [1, 1, 2, 2, 4, 4, 8][sz.val]!
       let value (v : Nat) : Word := if sz.val ∈ [0, 2, 4] then BitVec.ofInt 64 (toSigned (8 * n) v) else BitVec.ofNat 64 v
       let gives (cls key : Nat) (tinfo : Nat) : State :=
         if psn key n then s.queueFor o 6 3 (BitVec.ofNat 32 tinfo) else lands (.s d (value (s.readAs cls key n)))
       (known room n → auxEvent (.roomLoad o off (.scalar sz d) m) s = gives clsT room off ∧
         auxEvent (.pilLoad o off ofs (.scalar sz d) m) s = gives clsT room (ofs % 2 ^ 24)) ∧
       (known common n → auxEvent (.stackLoad o off (.scalar sz d) m) s = gives clsS common off)) ∧
     ∀ (tag : Fin 9) (d : VReg) (k : MReg),
       let t := BitVec.ofNat 4 tag.val
       let w := tagWidth t
       let gives (cls key : Nat) : State := lands (.v d (BitVec.ofNat 2048 (s.readAs cls key 256)) (lanesOf w (256 / w) (active m w))
         (if (List.range (256 / w)).any fun i => active m w i && psn (key + w * i) w then 15 else t))
       (known room 256 → auxEvent (.roomLoad o off (.vec tag d k) m) s = gives clsT room ∧
         auxEvent (.pilLoad o off ofs (.vec tag d k) m) s = gives clsT room) ∧
       (known common 256 → auxEvent (.stackLoad o off (.vec tag d k) m) s = gives clsS common))

/-- 07 R155: an access that is misaligned takes cause 0x08, one outside the store cause 0x07 SUB 0x01, and one against the region rule cause
0x07 with its SUB, each with the address in TINFO; the load or store takes that trap and has no other effect.
07 R154: in supervisor mode every address of the store is legal; in task mode an access must lie inside the berth's workspace or inside
a window that permits it: otherwise cause 0x07, SUB 0x03 when a window holds it and forbids it, SUB 0x02 when none holds it. -/
def Obligations.RegionRuleAndIllegalAccesses : Prop :=
  (∀ (s : State) (h : Hd) (d a b : SReg) (x : BitVec 48) (sz : Fin 4), ready h [.s a, .s b] s = true →
     let ea : Word := s.sreg a + BitVec.ofInt 64 x.toInt
     let n := 2 ^ sz.val
     let traps (c sub : BitVec 8) : Res := .next (s.raise c sub (BitVec.ofNat 32 ea.toNat))
     let ld : Instr := .ld h ⟨2 * sz.val, by omega⟩ d a x
     let st : Instr := .st h sz a b x
     (ea.toNat % n ≠ 0 → exec ld s = traps 8 1 ∧ exec st s = traps 8 1) ∧
     (ea.toNat % n = 0 → 2 ^ 19 ≤ ea.toNat → exec ld s = traps 7 1 ∧ exec st s = traps 7 1) ∧
     (ea.toNat % n = 0 → ea.toNat < 2 ^ 19 → ∀ sub,
       (s.regionFault ea.toNat n .read = some sub → exec ld s = traps 7 sub) ∧
       (s.regionFault ea.toNat n .write = some sub → exec st s = traps 7 sub))) ∧
  (∀ (s : State) (ea size : Nat) (k : Access),
     let inside (w : Word) : Prop := w.toNat % 2 ^ 19 ≤ ea ∧ ea + size ≤ w.toNat / 2 ^ 32 % 2 ^ 20
     let may (w : Word) : Prop := match k with
       | .read => w.getLsbD 62 = true
       | .write => w.getLsbD 63 = true
       | .both => w.getLsbD 62 = true ∧ w.getLsbD 63 = true
     let own : Prop := s.cur.wsp ≤ ea ∧ ea + size ≤ s.cur.wsp + 8192
     let open_ (w : Word) : Prop := inside w ∧ may w
     (s.cur.mode = true → ea + size ≤ 2 ^ 19 → s.regionFault ea size k = none) ∧
     (s.cur.mode = false →
       (own ∨ open_ s.me.win0 ∨ open_ s.me.win1 → s.regionFault ea size k = none) ∧
       (¬own → ¬open_ s.me.win0 → ¬open_ s.me.win1 → inside s.me.win0 ∨ inside s.me.win1 → s.regionFault ea size k = some 3) ∧
       (¬own → ¬inside s.me.win0 → ¬inside s.me.win1 → s.regionFault ea size k = some 2)))

/-! ## Context, core registers, traps and returns (07 R163 to R177) -/

/-- 07 R163 to R165: MFC lands the register's value at issue + 16 and MTC puts its write there, both in supervisor mode for every register
and in task mode for the berth's own UWORD; any other access of task mode takes cause 0x16, SUB 0x02.
07 R163, R165: after MTC's effect a register that software may write reads as the bits written to its RW fields: WSP, MODE, the windows,
UWORD, TVEC, TRTB, DBGCTL, DBGADDR; memory is unchanged, but for the reserved bits of a workspace that WSP enters (01 R17, R18, R21). -/
def Obligations.CoreRegistersAccessAndReadBack : Prop :=
  (∀ (s : State) (h : Hd) (d a : SReg) (reg : BitVec 8) (bt : BitVec 4),
     let allowed : Prop := s.cur.mode = true ∨ (reg = 8 ∧ bt.toNat = s.cur.berth)
     (ready h [] s = true →
       (allowed → exec (.mfc h d reg bt) s = .next (s.landS (s.acc + 16) d (s.regVal s.cur.core reg.toNat bt.toNat))) ∧
       (¬allowed → exec (.mfc h d reg bt) s = .next (s.raise 0x16 2 (BitVec.ofNat 32 (0x8E + 256 * reg.toNat))))) ∧
     (ready h [.s a] s = true →
       (allowed → exec (.mtc h a reg bt) s =
         .next (s.schedAux (s.acc + 16) phSample (some s.here) (.regWrite s.cur.core reg.toNat bt.toNat (s.sreg a)))) ∧
       (¬allowed → exec (.mtc h a reg bt) s = .next (s.raise 0x16 2 (BitVec.ofNat 32 (0x8F + 256 * reg.toNat)))))) ∧
  (∀ (s : State) (c b : Nat) (v : Word),
     let after (r : Nat) : State := auxEvent (.regWrite c r b v) s
     let reads (r mask : Nat) : Prop := ((after r).regVal c r b).toNat = v.toNat &&& mask ∧ (r ≠ 2 → (after r).mem = s.mem)
     let w := wsKey c (v.toNat &&& 0x7E000)
     (∀ i, ¬(w + 0x08 ≤ i ∧ i < w + 0x30) → Memory.byte (after 2).mem i = Memory.byte s.mem i) ∧
     reads 0x02 0x7E000 ∧ reads 0x03 1 ∧ reads 0x06 0xC00FFFE00007FFE0 ∧ reads 0x07 0xC00FFFE00007FFE0 ∧
     reads 0x08 0xFFFFFFFFFFFFFFFF ∧ reads 0x10 0x7FFF ∧ reads 0x14 0xFFC000 ∧ reads 0x1B 0x1F ∧ reads 0x1C 0x7FFFF)

/-- 07 R171: XWSP to a workspace whose TEPC names a group sets WSP, PC and WPC at issue, saves the next group's PC in the old workspace's
TEPC at issue + 2 and lands the old WSP in s(D) of the new workspace at issue + 16; XWSP.task also enters task mode and ends the
handling. No byte of memory changes at issue and no other berth changes. -/
def Obligations.XwspSwitchesWorkspace : Prop :=
  ∀ (s : State) (h : Hd) (d a : SReg), ready h [.s a] s = true →
    let c := s.cur.core
    let b := s.cur.berth
    let new := (s.sreg a).toNat
    let key := wsKey c new + 0x20
    let t := s.readAs clsT key 8
    let o := s.here
    new < 2 ^ 19 → new % 8192 = 0 → (State.unitsOf 4 key 8).all (fun u => !s.badUnits.contains u) = true → t < 2 ^ 15 → t % 8 ≤ 4 →
    ∀ (i : Instr) (task : Bool), (i = .xwsp h d a ∧ task = false) ∨ (i = .xwspTask h d a ∧ task = true) →
      ∃ u, exec i s = .next u ∧ u.me.wsp = new ∧ u.me.pc = t ∧ u.me.wpc = t ∧
        (task = true → u.me.mode = false ∧ u.me.intrap = false) ∧
        (task = false → u.me.mode = s.me.mode ∧ u.me.intrap = s.me.intrap) ∧ u.mem = s.mem ∧
        (∀ c' b', (c', b') ≠ (c, b) → u.berth c' b' = s.berth c' b') ∧
        (∃ e ∈ u.agenda, e.at_ = s.acc + 2 ∧ e.act = .aux (.tepc o (wsKey c s.cur.wsp + 0x20) (BitVec.ofNat 64 s.cur.next))) ∧
        (∃ e ∈ u.agenda, e.at_ = s.acc + 16 ∧
          e.act = .row (.landing { org := { o with wsp := new }, dests := [.s d (BitVec.ofNat 64 s.cur.wsp)], flags := 0 }))

/-- 07 R157, R170: TRAP and SVC set WPC to the next group's PC and take their trap, cause 0x17 and 0x18, with the immediate in TINFO: at
once, or, when the group's other word can still fault, once that is decided. In a berth that handles no trap the handler is entered:
supervisor mode, INTRAP, PMODE the old mode, PC at TVEC. -/
def Obligations.TrapAndSvcEnterTheHandler : Prop :=
  ∀ (s : State) (h : Hd) (x : BitVec 32) (i : Instr) (cause : BitVec 8), ready h [] s = true →
    (i = .trap h x ∧ cause = 0x17) ∨ (i = .svc h x ∧ cause = 0x18) →
    let t : TrapInfo := { cause := cause, sub := 0, tinfo := x, tipc := s.cur.pc + s.cur.slot }
    (∀ n, s.cur.late = some n → exec i s = .next (s.commit.schedAux n phLand (some s.here) (.settle s.here (.trap t)))) ∧
    (s.cur.late = none → s.pastEdge s.here = false → s.me.intrap = false →
      ∃ u, exec i s = .next u ∧ u.me.pc = (s.core s.cur.core).tvec ∧ u.me.mode = true ∧ u.me.intrap = true ∧ u.me.pmode = s.me.mode ∧
        u.me.run = 1 ∧ u.agenda = s.agenda ∧ u = (s.commit.rewind s.here).takeTrap s.cur.core s.cur.berth s.acc t)

/-- 07 R157, R167, R173, 06 R141: RTE sets PC and WPC to TEPC and MODE to PMODE and clears INTRAP; the group it reaches is a waymark group. A
slip's handling ends, by which ITC becomes the smaller of ITC and WITC, and a deferred pre-emption takes effect: at once, or, when the group's
other word can still fault, once that is decided. (Which RTE ends nested handlings is the model's choice, log 58.) With no slip and no deferred pre-emption, memory, the agenda and every other berth are unchanged. -/
def Obligations.RteRestoresTheBerth : Prop :=
  ∀ (s : State) (h : Hd), ready h [] s = true →
    let c := s.cur.core
    let b := s.cur.berth
    let key := wsKey c s.cur.wsp + 0x20
    let t := s.readAs clsT key 8
    let v : State := (s.modMe fun x => { x with mode := x.pmode, intrap := false }).resumeAt t
    (State.unitsOf 4 key 8).all (fun u => !s.badUnits.contains u) = true → t < 2 ^ 15 → t % 8 ≤ 4 →
    (∀ n, s.cur.late = some n → exec (.rte h) s = .next (v.schedAux n phLand (some s.here) (.settle s.here (.handled true true)))) ∧
    (s.cur.late = none → s.pastEdge s.here = false → s.me.undo = none → exec (.rte h) s = .next (v.endHandling s.here true true)) ∧
    (s.cur.late = none → s.pastEdge s.here = false → s.me.slipTrap = true → s.me.pdef = false → s.island? c b ≠ none →
      ∃ u, exec (.rte h) s = .next u ∧ u.itc c b = min (s.itc c b) s.me.witc ∧ u.me.slipTrap = false ∧ u.me.pc = t ∧ u.me.wpc = t ∧
        u.me.intrap = false ∧ u.mem = s.mem) ∧
    (s.cur.late = none → s.me.slipTrap = false → s.me.pdef = false →
      ∃ u, exec (.rte h) s = .next u ∧ u.me.pc = t ∧ u.me.wpc = t ∧ u.me.mode = s.me.pmode ∧ u.me.intrap = false ∧ u.me.forceWm = true ∧
        u.mem = s.mem ∧ u.agenda = s.agenda ∧ ∀ c' b', (c', b') ≠ (c, b) → u.berth c' b' = s.berth c' b')

/-- 07 R157, R174 to R177, 06 R148, R150, R151: HALT stops the berth with RUN 0b010; FENCE waits 32 cycles and acts on the reads after them;
DBG.brk has no effect while DBGCTL.EN is 0 and else is the debug event, after the other word of its group; DBG.mark writes DBGMARK; RAIL.up
and RAIL.dn set and clear RQ; YIELDM writes the register at issue, lands the old mask at issue + 16 and gates turns by the new one from
then on; PWRST lands the power word. When the group's
other word can still fault, what they do outside the berth waits until that is decided. That DBG.brk in the lower slot takes its event only
after the other word of its group is the model's choice (log 53). -/
def Obligations.SystemInstructionsComplete : Prop :=
  ∀ (s : State) (h : Hd) (d a : SReg) (x : BitVec 32) (fr dst : BitVec 7), ready h [.s a] s = true →
    let c := s.cur.core
    let cl := clusterOf c
    let k := s.core c
    let halted : State := s.modMe fun y => { y with run := 2 }
    let later (t : State) (n : Nat) (e : Held) : Res := .next (t.schedAux n phLand (some s.here) (.settle s.here e))
    (∀ n, s.cur.late = some n →
      exec (.halt h) s = later halted n .halt ∧
      (k.dbgctl.getLsbD 0 = true → exec (.dbgBrk h x) s = later s n (.brk x)) ∧
      exec (.dbgMark h x) s = later s n (.mark x) ∧ exec (.railUp h) s = later s n (.rail true) ∧
      exec (.railDn h) s = later s n (.rail false)) ∧
    (s.cur.late = none → s.pastEdge s.here = false →
      (s.me.journey = none → exec (.halt h) s = .next halted) ∧
      (∀ p j, s.me.journey = some (p, j) → exec (.halt h) s = .next (halted.journeyHalted p j)) ∧
      (k.dbgctl.getLsbD 0 = true → s.words = [] → exec (.dbgBrk h x) s = .next ((s.rewind s.here).brkEvent s.here x)) ∧
      (k.dbgctl.getLsbD 0 = true → s.words ≠ [] →
        exec (.dbgBrk h x) s = .next (s.schedAux s.acc phTurn (some s.here) (.settle s.here (.brk x)))) ∧
      exec (.dbgMark h x) s = .next (s.setCore c { k with dbgmark := BitVec.ofNat 64 (x.toNat + 2 ^ 32 * s.cur.berth) }) ∧
      (∃ u, exec (.railUp h) s = .next u ∧ (u.core c).rq = true ∧ u.mem = s.mem ∧
        ((s.cluster cl).rail.1 = 0 ∨ (s.cluster cl).rail.1 = 3 → (u.cluster cl).rail = (2, s.acc + 184)) ∧
        ((s.cluster cl).rail.1 = 1 ∨ (s.cluster cl).rail.1 = 2 → (u.cluster cl).rail = (s.cluster cl).rail)) ∧
      (∃ u, exec (.railDn h) s = .next u ∧ (u.core c).rq = false ∧ u.mem = s.mem ∧
        ((s.cluster cl).rail.1 = 1 → u.rqAny cl = false → (s.cluster cl).array = none → (u.cluster cl).rail = (3, s.acc + 64)))) ∧
    exec (.fence h fr dst) s =
      .next ((s.schedAux (s.acc + 31) phEnd (some s.here) (.fence s.here fr dst)).waitFor (.cycle (s.acc + 32))) ∧
    (k.dbgctl.getLsbD 0 = false → exec (.dbgBrk h x) s = .next s) ∧
    (∃ m : BitVec 16,
      let gives (t : State) : Res := .next ((t.schedAux (s.acc + 15) phEnd (some s.here) (.yieldWrite c m)).landS (s.acc + 16) d
        (k.yieldm.setWidth 64))
      (s.cur.late = none → exec (.yieldm h d a) s = gives (s.setCore c { k with yieldm := m })) ∧
      (∀ n, s.cur.late = some n →
        exec (.yieldm h d a) s = gives (s.schedAux n phLand (some s.here) (.settle s.here (.yieldm m)))) ∧
      ∀ b, b < 16 → m.getLsbD b = ((s.sreg a).getLsbD b && (s.berth c b).isl != 0)) ∧
    ∃ v, exec (.pwrst h d) s = .next (s.landS (s.acc + 16) d v) ∧ v = s.powerWord c s.cur.berth

/-! ## Landings, stores and the events of a berth (01 R23 to R29, 06 R138 to R151, 07 R156, R169 to R173) -/

/-- 01 R15, R17, R21, R24, R25: a landing of s(r) that no stop has discarded and that no later-issued landing has overtaken writes the eight
bytes of the register, with good parity and no poison, and the same value into the duplicate s(r + 32) when DUP has its bit; its flags are
set in FST, which keeps those it holds; every other byte of memory is as before. A landing of s0 writes no register, and one that a trap or a
stop has discarded writes nothing, flags included. That flags which come with a result to s0 are set is the model's choice (log 54).
01 R15, R16, R25: with no duplicate to keep, a landing of a vector register writes its active lanes and its tag, one of a mask register its
32 bytes, one of a predicate its bit of PRED; m0 and p0 discard theirs. Every other byte of memory is as before. -/
def Obligations.LandingsWriteTheirRegisters : Prop :=
  (∀ (s : State) (o : Org) (r : SReg) (v : Word) (f : BitVec 9),
     MemOk s → coreOk o.core = true → o.berth < 16 → o.wsp < 2 ^ 19 → o.wsp % 8192 = 0 →
     let x := s.berth o.core o.berth
     let base := wsKey o.core o.wsp
     let k := base + sOff r
     let fst := base + 0x18
     let dup : Bool := s.isWorkspace o.core o.wsp && (s.dupOf base).testBit r.toNat
     let i : Instr := .landing { org := o, dests := [.s r v], flags := f }
     let sticky (t : State) : Prop := Memory.read t.mem fst 2 =
       if f = 0 then Memory.read s.mem fst 2 else (Memory.read s.mem fst 2 ||| f.toNat) &&& 0x17F
     let noFst (a : Nat) : Prop := f = 0 ∨ ¬(fst ≤ a ∧ a < fst + 8)
     (State.discarded x o.issue s.acc = true → exec i s = .next s) ∧
     (State.discarded x o.issue s.acc = false → r = 0 → ∃ t, exec i s = .next t ∧ (f = 0 → t = s) ∧ sticky t ∧
       ∀ a, noFst a → Memory.byte t.mem a = Memory.byte s.mem a) ∧
     (State.discarded x o.issue s.acc = false → r ≠ 0 → (∀ e ∈ x.landed, e.2.2 ≤ o.issue * 2 + o.slot) →
       ∃ t, exec i s = .next t ∧ Memory.read t.mem k 8 = v.toNat ∧ k ∉ t.badUnits ∧ k + 4 ∉ t.badUnits ∧ k ∉ t.psnUnits ∧ k + 4 ∉ t.psnUnits ∧
         (dup = true → Memory.read t.mem (k + 256) 8 = v.toNat) ∧ sticky t ∧
         (∀ a, ¬(k ≤ a ∧ a < k + 8) → ¬(dup = true ∧ k + 256 ≤ a ∧ a < k + 264) → noFst a →
           Memory.byte t.mem a = Memory.byte s.mem a) ∧
         t.agenda = s.agenda ∧ t.clusters = s.clusters ∧ t.tiers = s.tiers ∧ t.parts = s.parts ∧
         (t.berth o.core o.berth).pc = x.pc ∧ (t.berth o.core o.berth).mode = x.mode ∧ (t.berth o.core o.berth).run = x.run)) ∧
  (∀ (s : State) (o : Org), MemOk s → coreOk o.core = true → o.berth < 16 → o.wsp < 2 ^ 19 → o.wsp % 8192 = 0 →
     let x := s.berth o.core o.berth
     let base := wsKey o.core o.wsp
     State.discarded x o.issue s.acc = false → (∀ e ∈ x.landed, e.2.2 ≤ o.issue * 2 + o.slot) → s.dupOf base = 0 →
     (∀ (r : VReg) (data : Vec) (lanes : Mask) (tag : BitVec 4),
       ∃ t, exec (.landing { org := o, dests := [.v r data lanes tag], flags := 0 }) s = .next t ∧
         (∀ j, j < 256 → Memory.byte t.mem (base + vOff r + j) =
           if lanes.getLsbD j then BitVec.ofNat 8 (data.toNat / 2 ^ (8 * j)) else Memory.byte s.mem (base + vOff r + j)) ∧
         (Memory.byte t.mem (base + r.toNat / 2)).toNat / 16 ^ (r.toNat % 2) % 16 = tag.toNat ∧
         (Memory.byte t.mem (base + r.toNat / 2)).toNat / 16 ^ (1 - r.toNat % 2) % 16 =
           (Memory.byte s.mem (base + r.toNat / 2)).toNat / 16 ^ (1 - r.toNat % 2) % 16 ∧
         ∀ a, ¬(base + vOff r ≤ a ∧ a < base + vOff r + 256) → a ≠ base + r.toNat / 2 → Memory.byte t.mem a = Memory.byte s.mem a) ∧
     (∀ (r : MReg) (v : Mask),
       ∃ t, exec (.landing { org := o, dests := [.m r v], flags := 0 }) s = .next t ∧ (r = 0 → t = s) ∧
         (r ≠ 0 → Memory.read t.mem (base + mOff r) 32 = v.toNat) ∧
         ∀ a, ¬(base + mOff r ≤ a ∧ a < base + mOff r + 32) → Memory.byte t.mem a = Memory.byte s.mem a) ∧
     (∀ (r : PReg) (v : Bool),
       ∃ t, exec (.landing { org := o, dests := [.p r v], flags := 0 }) s = .next t ∧ (r = 0 → t = s) ∧
         (r ≠ 0 → (Memory.byte t.mem (base + 8)).getLsbD r.toNat = v) ∧
         (∀ q, 0 < q → q < 8 → q ≠ r.toNat → (Memory.byte t.mem (base + 8)).getLsbD q = (Memory.byte s.mem (base + 8)).getLsbD q) ∧
         ∀ a, ¬(base + 8 ≤ a ∧ a < base + 16) → Memory.byte t.mem a = Memory.byte s.mem a))

/-- 07 R156, 06 R146: a store served by its port writes the bytes of its mask and no other byte, but for the fixed bits of the workspace's
words 0x08 to 0x2F and the duplicates at 0x148 to 0x23F; one denied writes nothing: a berth's store takes the collision trap, cause 0x09
SUB 0x01, and a mesh write queues SUB 0x03.
11 R231, R234, 10 R203, 09 R198, 16 R306: a write into a room, at its effect cycle, undisturbed, changes the bytes of its mask and no
other; the stamp and flag writes of a record change its stamp field, or one bit of its byte 0x30; a USED write sets one bit of a slot's byte 11. -/
def Obligations.StoresAndRoomWritesChangeTheirBytes : Prop :=
  (∀ (s : State) (w : Wr), MemOk s → w.key + w.len ≤ 2 ^ 45 →
     (s.cur.denied = none → s.portWrites = [] → ∃ t, exec (.storeEffect w) s = .next t ∧ Stores s t w.key w.len w.data w.mask) ∧
     (∀ den o, s.cur.denied = some den → w.org = some o →
       (w.rank ≤ 1 → exec (.storeEffect w) s = .next (s.takeTrap o.core o.berth s.acc
         { cause := 9, sub := 1, tinfo := BitVec.ofNat 32 (den.2 + 256 * den.1), tcoord := BitVec.ofNat 64 (s.ttcOf o.core), tipc := o.pc })) ∧
       (1 < w.rank → exec (.storeEffect w) s = .next (s.queueFor o 9 3 (BitVec.ofNat 32 (den.2 + 256 * den.1))
         (BitVec.ofNat 64 (s.ttcOf (coreOfKey w.key))))))) ∧
  (∀ (s : State), MemOk s → calm s →
     (∀ w : Wr, 2 ^ 46 ≤ w.key → w.key + w.len ≤ 3 * 2 ^ 45 →
       ∃ t, exec (.roomWriteEffect (.bytes w)) s = .next t ∧ Stores s t w.key w.len w.data w.mask) ∧
     (∀ core off, coreOk core = true → off + 64 ≤ 2 ^ 24 →
       let key := roomKey core off
       (∀ v : BitVec 32, ∃ t, exec (.roomWriteEffect (.stamp none core off v)) s = .next t ∧ Stores s t (key + 0x28) 4 v.toNat 15) ∧
       (∀ o, ∃ t, exec (.roomWriteEffect (.sflag o core off)) s = .next t ∧
         Stores s t (key + 0x30) 1 (Memory.read s.mem (key + 0x30) 1 ||| 0x10) 1) ∧
       (∀ o, ∃ t, exec (.roomWriteEffect (.bflag o core off)) s = .next t ∧
         Stores s t (key + 0x30) 1 (Memory.read s.mem (key + 0x30) 1 ||| 0x20) 1) ∧
       ∃ t, exec (.roomWriteEffect (.used key)) s = .next t ∧ Stores s t (key + 11) 1 (Memory.read s.mem (key + 11) 1 ||| 2) 1))

/-- 01 R23, R27, R28, 06 R147, R151, 20 R361, 02 R38, 09 R193, 10 R211: a berth without the turn does nothing; a gated turn is counted and
issues nothing; a berth whose task has ended stops; a running one issues its next group, or takes the trap of its fetch, and so does one
that comes back from an MMAC; the traps held for it come first, of which the matrix check is asynchronous. -/
def Obligations.BerthTurnIssuesOrTraps : Prop :=
  ∀ (s : State) (b : BId), b.ok = true →
    let c := b.core
    let n := b.berth
    let x := s.berth c n
    let back : Prop := x.run = 3 ∧ ∃ a, x.backAt = some a ∧ a ≤ s.acc
    let quiet : Prop := x.held = [] ∨ s.acc < x.heldAt
    (s.hasTurn c n = false → exec (.berthTurn b) s = .next s) ∧
    (s.hasTurn c n = true → x.endAt ≠ none → ∃ t, exec (.berthTurn b) s = .next t ∧ (t.berth c n).run = 0 ∧ t.mem = s.mem) ∧
    (s.hasTurn c n = true → s.isGated c n = true → x.endAt = none →
      exec (.berthTurn b) s = .next (s.setBerth c n { x with gated := satInc 16 x.gated })) ∧
    (s.hasTurn c n = true → s.isGated c n = false → x.endAt = none →
      (quiet → x.run = 1 →
        (∀ g, s.fetch c n = .ok g → exec (.berthTurn b) s = .next (s.issueGroup c n g)) ∧
        (∀ e, s.fetch c n = .error e → exec (.berthTurn b) s = .next (s.fetchTrap c n e))) ∧
      (quiet → back →
        (∀ g, (s.reenter c n).fetch c n = .ok g → exec (.berthTurn b) s = .next ((s.reenter c n).issueGroup c n g)) ∧
        (∀ e, (s.reenter c n).fetch c n = .error e → exec (.berthTurn b) s = .next ((s.reenter c n).fetchTrap c n e))) ∧
      (quiet → x.run ≠ 1 → ¬back → exec (.berthTurn b) s = .next s) ∧
      (∀ t ts, x.held = t :: ts → x.heldAt ≤ s.acc →
        (x.run ≠ 3 ∨ back → exec (.berthTurn b) s = .next
          ((s.modBerth c n fun y => { y with held := ts, backAt := none }).takeTrap c n s.acc t (t.cause = 0x13) true)) ∧
        (x.run = 3 → ¬back → exec (.berthTurn b) s = .next s)))

/-- 01 R29, 04 R98 to R100, 06 R138, R141, R147, 07 R169, R172, R173, 11 R238, R239, 17 R323, 18 R335: the events of a berth, with what each
leaves. That an overrun's TIPC is the PC of the group issued last is the model's choice (log 34); R138 and R143 do not give it.
02 R38, 06 R149: a refetched line is written back from the code image of the plan, or, when its room copy is unreadable, stays out of use;
the rail of a cluster becomes dense or nominal at the end of the ramp under way and not at that of one replaced. -/
def Obligations.BerthAndRailEventsComplete : Prop :=
  (∀ (s : State) (b : BId), b.ok = true →
     let c := b.core
     let n := b.berth
     let x := s.berth c n
     let set (y : Berth) : State := s.setBerth c n y
     (x.run = 4 → exec (.waitEnd b) s = .next (set { x with run := 1, wait := .none })) ∧
     (∀ e, x.intrap = false → x.queue.find? (fun y => y.wsp = x.wsp) = some e →
       exec (.asyncTrapDelivery b) s = .next (((set { x with queue := x.queue.erase e }).setWpc c n x.pc s.acc).takeTrap c n s.acc e.info true)) ∧
     (∃ t, exec (.gatedTurn b) s = .next t ∧ t = { s with gateReq := (c, n) :: s.gateReq } ∧
       t.isGated c n = (s.core c).yieldNow.getLsbD n) ∧
     (∀ sub, x.run ≠ 0 → x.run ≠ 2 →
       (x.intrap = true ∨ x.pdef = true → exec (.preemptionStop b sub) s = .next (set { x with pdef := true })) ∧
       (x.intrap = false → x.pdef = false → ∃ t, exec (.preemptionStop b sub) s = .next t ∧ (t.berth c n).run = 0 ∧ (t.berth c n).wsp = x.wsp)) ∧
     (∀ sub, x.run = 0 ∨ x.run = 2 →
       exec (.preemptionStop b sub) s = .next (set { x with stops := x.stops.filter fun r => s.acc < r.q })) ∧
     (x.pdef = true → ∀ r, x.stops.find? (fun r => r.q ≤ s.acc) = some r →
       ∃ t, exec (.deferredPreemption b) s = .next t ∧ (t.berth c n).run = 0 ∧ (t.berth c n).pdef = false ∧ (t.berth c n).wpc = x.pc) ∧
     (∃ t, exec (.scanOverrun b) s = .next t ∧ t = (set { x with overDue := false }).takeTrap c n s.acc
       { cause := 0xB, sub := 4, tinfo := BitVec.ofNat 32 (s.ttcOf c - s.lenOf c),
         tcoord := State.slipCoord (s.ttcOf c) (s.lenOf c), tipc := x.lastPc }) ∧
     (s.cur.org = none → exec (.wakeEffect b) s = .next (set { x with wcnt := x.wcnt + 1 })) ∧
     (∀ o itc t seen d, x.wait = .wakes o itc t seen d →
       let ended : State := set { x with run := 1, wait := .none }
       exec (.waitwWakeSeen b) s = .next (ended.schedRow s.acc phLand (some o)
         (.landing { org := o, dests := [.s d (x.wcnt.setWidth 64)], flags := 0 })) ∧
       exec (.waitwDeadline b) s = .next (ended.takeTrap c n s.acc
         { cause := 0xB, sub := 9, tcoord := State.slipCoord (if itc then s.itc c n else s.ttcOf c) t, tipc := o.pc })) ∧
     (∀ o r fin d, x.wait = .receipts o r fin d →
       let ended : State := set { x with run := 1, wait := .none }
       exec (.rcptwReceiptSeen b) s = .next (ended.schedRow s.acc phLand (some o)
         (.landing { org := o, dests := [.s d (BitVec.ofNat 64 (s.ring c r).receipts)], flags := 0 })) ∧
       exec (.rcptwDeadline b) s = .next (ended.takeTrap c n s.acc
         { cause := 0xB, sub := 7, tinfo := BitVec.ofNat 32 (s.ttcOf c - fin), tcoord := State.slipCoord (s.ttcOf c) fin, tipc := o.pc })) ∧
     (x.pstop = true → x.run = 0 → (State.unitsOf 4 (wsKey c x.wsp + 0x20) 16).all (fun u => !s.badUnits.contains u) = true → ∃ t, exec (.berthRelease b) s = .next t ∧ (t.berth c n).run = 1 ∧ (t.berth c n).pstop = false ∧
       (t.berth c n).forceWm = true ∧ (t.berth c n).pc = s.readAs clsT (wsKey c x.wsp + 0x20) 8 % 2 ^ 15 ∧ t.mem = s.mem) ∧
     (x.pstop = false → exec (.berthRelease b) s = .next s)) ∧
  (∀ (s : State) (c line cl : Nat), coreOk c = true → cl < 24 →
     let k := s.core c
     let z := s.cluster cl
     let freed : State := s.setCore c { k with refetch := setDel k.refetch line }
     (k.badLines.contains line = false →
       exec (.lineRefetchWrite c line) s = .next (freed.writeAt (codeKey c (line * 64)) 64 (freed.codeImage c line).toNat (2 ^ 64 - 1) 0)) ∧
     (k.badLines.contains line = true → ∃ t, exec (.lineRefetchWrite c line) s = .next t ∧ line ∈ (t.core c).deadLines ∧ t.mem = s.mem) ∧
     (z.rail = (2, s.acc) → exec (.railDenseReached cl) s = .next (s.setCluster cl { z with rail := (1, s.acc) })) ∧
     (z.rail ≠ (2, s.acc) → exec (.railDenseReached cl) s = .next s) ∧
     (z.rail = (3, s.acc) → exec (.railNominalReached cl) s = .next (s.setCluster cl { z with rail := (0, s.acc) })) ∧
     (z.rail ≠ (3, s.acc) → exec (.railNominalReached cl) s = .next s))

/-! ## The mesh and the room (11 R219 to R242) -/

/-- 11 R234: LDR and STR whose address is aligned and in the room put their access on the core port at issue + 20, and change nothing else at
issue. -/
def Obligations.RoomLoadsAndStoresIssue : Prop :=
  ∀ (s : State) (h : Hd) (d a b : SReg) (u v : VReg) (k : MReg) (x : BitVec 48),
    let o := s.here
    let ea := (s.sreg a + BitVec.ofInt 64 x.toInt).toNat
    let n (sz : Nat) : Nat := [1, 1, 2, 2, 4, 4, 8][sz]!
    let load (form : LdForm) (m : Mask) : Res := .next (s.schedAux (s.acc + 20) phSample (some o) (.roomLoad o ea form m))
    let store (len data mask psn : Nat) : Res := .next (s.schedRow (s.acc + 20) phWrite (some o) (.roomWriteEffect (.bytes
      { org := some o, key := roomKey s.cur.core ea, len := len, data := data, mask := mask, psn := psn, rank := 1 })))
    (∀ sz : Fin 7, ready h [.s a] s = true → ea % n sz = 0 → ea + n sz ≤ 2 ^ 24 →
      exec (.ldr h (.scalar sz d) a x) s = load (.scalar sz d) 0) ∧
    (∀ tag : Fin 9, ready h [.s a, .m k] s = true → ea % 32 = 0 → ea + 256 ≤ 2 ^ 24 →
      exec (.ldr h (.vec tag u k) a x) s = load (.vec tag u k) (s.mreg k)) ∧
    (∀ sz : Fin 4, ready h [.s a, .s b] s = true → ea % 2 ^ sz.val = 0 → ea + 2 ^ sz.val ≤ 2 ^ 24 →
      exec (.str h (.scalar sz b) a x) s = store (2 ^ sz.val) ((s.sreg b).toNat % 2 ^ (8 * 2 ^ sz.val)) (2 ^ 2 ^ sz.val - 1) 0) ∧
    (ready h [.s a, .v v, .tag v, .m k] s = true → ea % 32 = 0 → ea + 256 ≤ 2 ^ 24 →
      exec (.str h (.vec v k) a x) s =
        store 256 (s.vreg v).toNat (s.mreg k).toNat (if s.vtag v = 15 then (s.mreg k).toNat else 0))

/-- 11 R225, R233 to R238: a mesh instruction whose itinerary passes its checks injects one packet at issue: SEND's and RLD's and RAMO's reach
their place 8 + 2h cycles later, 11 + 2h when the path ends with UP, WAKE's 9 + 2h; RAMO and WAKE are commit points.
11 R222, R223: an itinerary with an odd number of ones takes cause 0x0C, SUB 0x01, and any fault of the checks takes cause 0x0C with its SUB,
and with no packet injected, in SEND, RLD, RAMO and WAKE. -/
def Obligations.MeshInstructionsInjectOrTrap : Prop :=
  (∀ (s : State) (h : Hd) (d a b c : SReg) (u v : VReg) (k : MReg) (it : Itin) (nd : BitVec 8) (r : Route),
     let o := s.here
     let tier := tierOf s.cur.core
     let off := (s.sreg a).toNat + 32 * nd.toNat
     let fits (n : Nat) : Prop := off + n ≤ if itinUp it then 2 ^ 24 else 2 ^ 19
     let links := fwdLinks tier (meshIdx s.cur.core) r.hops r.up s.acc
     let go (ph : Nat) (act : PktAct) (beats : Nat) : State :=
       s.inject (s.acc + (if r.up then 11 else 8) + 2 * r.hops.length) ph o (.meshPacketDelivery
         { id := s.nextId, org := o, start := s.cur.core, hops := r.hops, dest := coreAtMesh tier r.dest, up := r.up, off := off,
           inj := s.acc, act := act }) links beats
     let wr (len data mask psn : Nat) : PktAct :=
       .write { org := some o, key := 0, len := len, data := data, mask := mask, psn := psn, rank := 3 }
     (s.routeCheck s.cur.core it .plain = .ok r →
       (ready h [.s a, .v v, .tag v, .m k] s = true → off % 32 = 0 → fits 256 → exec (.send h (.v v k) a it nd) s =
         .next (go phWrite (wr 256 (s.vreg v).toNat (s.mreg k).toNat (if s.vtag v = 15 then (s.mreg k).toNat else 0)) 4)) ∧
       (ready h [.s a, .s b] s = true → off % 8 = 0 → fits 8 →
         exec (.send h (.d b) a it nd) s = .next (go phWrite (wr 8 (s.sreg b).toNat 255 0) 1))) ∧
     (s.routeCheck s.cur.core it .reply = .ok r →
       (∀ tag : Fin 9, ready h [.s a] s = true → off % 32 = 0 → fits 256 →
         exec (.rld h (.v tag u) a it nd) s = .next (go phSample (.read (.v tag u)) 1)) ∧
       (ready h [.s a] s = true → off % 8 = 0 → fits 8 → exec (.rld h (.d d) a it nd) s = .next (go phSample (.read (.d d)) 1)) ∧
       (∀ (op : Fin 9) (dbl : Bool), ready h [.s a, .s b, .s c] s = true → off % (if dbl then 8 else 4) = 0 → fits (if dbl then 8 else 4) →
         exec (.ramo h op dbl d a b c it nd) s =
           .next (go phSample (.atomic op dbl d (s.sreg b) (if op = 2 then s.sreg c else 0)) 1).commit)) ∧
     (s.routeCheck s.cur.core it .noUp = .ok r → ready h [.s b] s = true →
       exec (.wake h b it) s = .next (s.inject (s.acc + 9 + 2 * r.hops.length) phWrite o
         (.wakeEffect ⟨coreAtMesh tier r.dest, (s.sreg b).toNat % 16⟩) (fwdLinks tier (meshIdx s.cur.core) r.hops false s.acc) 1).commit)) ∧
  (∀ (s : State) (h : Hd) (d a b c : SReg) (u v : VReg) (k : MReg) (it : Itin) (nd : BitVec 8),
     let off := (s.sreg a).toNat + 32 * nd.toNat
     let fits (al n : Nat) : Prop := off % al = 0 ∧ off + n ≤ if itinUp it then 2 ^ 24 else 2 ^ 19
     let traps (e : RouteFault) : Res := .next (s.raise 0xC (BitVec.ofNat 8 e.sub)
       (BitVec.ofNat 32 (e.k + 16 * e.dir + 256 * e.back.toNat)) (BitVec.ofNat 64 e.pos))
     (oddOnes 40 (it.hops.toNat + 2 ^ 39 * it.ipar.toNat) = true → ∀ shape,
       s.routeCheck s.cur.core it shape = .error { sub := 1, pos := meshIdx s.cur.core }) ∧
     (∀ e, s.routeCheck s.cur.core it .plain = .error e →
       (ready h [.s a, .s b] s = true → fits 8 8 → exec (.send h (.d b) a it nd) s = traps e) ∧
       (ready h [.s a, .v v, .tag v, .m k] s = true → fits 32 256 → exec (.send h (.v v k) a it nd) s = traps e)) ∧
     (∀ e, s.routeCheck s.cur.core it .reply = .error e →
       (ready h [.s a] s = true →
         (∀ tag : Fin 9, fits 32 256 → exec (.rld h (.v tag u) a it nd) s = traps e) ∧
         (fits 8 8 → exec (.rld h (.d d) a it nd) s = traps e)) ∧
       (∀ (op : Fin 9) (dbl : Bool), ready h [.s a, .s b, .s c] s = true → fits (if dbl then 8 else 4) (if dbl then 8 else 4) →
         exec (.ramo h op dbl d a b c it nd) s = traps e)) ∧
     (∀ e, s.routeCheck s.cur.core it .noUp = .error e → ready h [.s b] s = true → exec (.wake h b it) s = traps e))

/-- 11 R239 to R241: WAITW lands WCNT when a wake is there and else waits for one until its deadline; MAPR lands the gazetteer word; ITCHK lands
H, UPEND and DEST of a legal itinerary, and SUB, hop and position of the fault of another (its low bits are then free, log A15). -/
def Obligations.WaitwMaprItchkComplete : Prop :=
  ∀ (s : State) (h : Hd) (d a b : SReg) (x : BitVec 32) (y : BitVec 5) (it : Itin) (f : Fin 3), ready h [.s a, .s b] s = true →
    let core := s.cur.core
    let t := (s.sreg a).toNat + x.toNat
    let seen := (s.sreg b).setWidth 32
    let new := 0 < (s.me.wcnt - seen).toInt
    (t < s.lenOf core →
      (new → exec (.waitw h false d a b x) s = .next (s.landS (s.acc + 16) d (s.me.wcnt.setWidth 64))) ∧
      (¬new → s.ttcOf core < t → exec (.waitw h false d a b x) s = .next (s.waitFor (.wakes s.here false t seen d)))) ∧
    (∀ i, s.island? core s.cur.berth = some i →
      (new → exec (.waitw h true d a b x) s = .next (s.landS (s.acc + 16) d (s.me.wcnt.setWidth 64))) ∧
      (¬new → s.itc core s.cur.berth < t → exec (.waitw h true d a b x) s = .next (s.waitFor (.wakes s.here true t seen d)))) ∧
    ((s.sreg a).toNat + y.toNat ≤ 16 → exec (.mapr h d a y) s =
      .next (s.landS (s.acc + 16) d (BitVec.ofNat 64 (s.gazWord s.myPart (tierOf core) ((s.sreg a).toNat + y.toNat))))) ∧
    (let shape : Shape := if f = 0 then .plain else if f = 1 then .reply else .noUp
     (∀ r, s.routeCheck core it shape = .ok r →
       exec (.itchk h f d it) s = .next (s.landS (s.acc + 16) d (BitVec.ofNat 64 (r.hops.length + 16 * r.up.toNat + 32 * r.dest)))) ∧
     (∀ e, s.routeCheck core it shape = .error e → ∃ w, w < 512 ∧ exec (.itchk h f d it) s =
       .next (({ s with free := s.free + 1 } : State).landS (s.acc + 16) d (BitVec.ofNat 64 (w + 2 ^ 16 * e.sub + 2 ^ 24 * e.k + 2 ^ 28 * e.pos)))))

/-- 11 R220, R224, R225, R229, R235 to R237: an undisturbed packet, at its place, writes its bytes; or sends the reply that lands 22 + 4h cycles after
its injection, an atomic after putting the write of the new value in the same cycle. One that was injected before another site took the core's position is
dropped and counted.
11 R225, R229, R236: an undisturbed reply writes its register; a poisoned one gives a vector tag 15, and for a scalar it queues a poison trap; a reply
to a berth whose restart region has been discarded, or from before another site took the core's position, does nothing. -/
def Obligations.PacketsAndRepliesAct : Prop :=
  (∀ (s : State) (p : Packet), MemOk s → calm s → s.ecc = [] → (∀ n, (s.tier n).bonds = []) → coreOk p.dest = true → coreOk p.org.core = true →
     p.org.berth < 16 → p.off + 256 ≤ (if p.up then 2 ^ 24 else 2 ^ 19) →
     (p.up = false → s.staleFor p.dest p.inj = true → exec (.meshPacketDelivery p) s = .next (s.countDrop p.dest)) ∧
     (p.up = true ∨ s.staleFor p.dest p.inj = false →
     let key := if p.up then roomKey p.dest p.off else wsKey p.dest p.off
     let good (n : Nat) : Prop := p.up = false → (State.unitsOf 4 key n).all (fun u => !s.badUnits.contains u && !s.psnUnits.contains u) = true
     let reply (t : State) (d : DVal) (beats : Nat) : State :=
       t.inject (p.inj + 22 + 4 * p.hops.length) phLand p.org
         (.remoteReplyLanding { id := p.id, org := p.org, dest := d, psn := false, room := p.up, tinfo := BitVec.ofNat 32 (p.off % 2 ^ 24),
                                link := p.hops.head?.map fun h =>
                                  linkId (tierOf p.start) ((meshWalk (meshIdx p.start) p.hops).getD 1 0) (oppDir h) })
         (backLinks (tierOf p.start) (meshIdx p.start) p.hops p.up p.inj) beats
     (∀ w : Wr, w.len ≤ 256 → p.act = .write w → ∃ t, exec (.meshPacketDelivery p) s = .next t ∧ Stores s t key w.len w.data w.mask) ∧
     (∀ tag d, p.act = .read (.v tag d) → good 256 → exec (.meshPacketDelivery p) s =
       .next (reply s (.v d (BitVec.ofNat 2048 (s.readAs clsT key 256)) (BitVec.allOnes 256) (BitVec.ofNat 4 tag.val)) 4)) ∧
     (∀ d, p.act = .read (.d d) → good 8 →
       exec (.meshPacketDelivery p) s = .next (reply s (.s d (BitVec.ofNat 64 (s.readAs clsT key 8))) 1)) ∧
     (∀ op dbl d b c, p.act = .atomic op dbl d b c →
       let n := if dbl then 8 else 4
       good n →
       let old := s.readAs clsT key n
       let value : Word := if dbl = false ∧ op ≠ 5 ∧ op ≠ 6 then BitVec.ofInt 64 (toSigned (8 * n) old) else BitVec.ofNat 64 old
       let w : Wr := { org := some p.org, key := key, len := n, data := atomNew op (8 * n) old (b.toNat % 2 ^ (8 * n)) (c.toNat % 2 ^ (8 * n)),
                       mask := 2 ^ n - 1, psn := 0, rank := if p.up then 0 else 3 }
       exec (.meshPacketDelivery p) s =
         .next (reply (s.schedRow s.acc phWrite (some p.org) (if p.up then .roomWriteEffect (.bytes w) else .storeEffect w)) (.s d value) 1)))) ∧
  (∀ (s : State) (r : Reply), s.upsets = [] → coreOk r.org.core = true → r.org.berth < 16 →
     let gone := State.discarded (s.berth r.org.core r.org.berth) r.org.issue s.acc
     let stale := s.staleFor r.org.core r.org.issue
     (stale = true → exec (.remoteReplyLanding r) s = .next (s.countDrop r.org.core)) ∧
     (stale = false → gone = true → exec (.remoteReplyLanding r) s = .next s) ∧
     (stale = false → gone = false →
       (∀ d data lanes tag, r.dest = .v d data lanes tag →
         exec (.remoteReplyLanding r) s = .next (s.landOne r.org (.v d data lanes (if r.psn then 15 else tag)))) ∧
       (∀ d v, r.dest = .s d v →
         (r.psn = false → exec (.remoteReplyLanding r) s = .next (s.landOne r.org (.s d v))) ∧
         (r.psn = true → exec (.remoteReplyLanding r) s = .next (s.queueFor r.org 6 (if r.room then 3 else 2) r.tinfo)))))

/-! ## The matrix engine (09 R184 to R200, 10 R201 to R218) -/

/-- 10 R207, R212 to R217, 09 R192: a matrix instruction other than MMAC, with its owner, its resources and its record checks passed, takes what
it needs until its completion, and its work is on the agenda; nothing in memory changes at issue. MBSEL, MCHK and MSTAT land their value. -/
def Obligations.MatrixInstructionsComplete : Prop :=
  ∀ (s : State) (h : Hd) (d : SReg) (b c : SReg) (v : VReg) (tile : TileNo) (hn : Handle) (it : Itin) (nd : BitVec 8) (f32 row wake : Bool),
    let o := s.here
    let core := s.cur.core
    let cl := clusterOf core
    let k := s.cluster cl
    let t := s.tileOf core tile
    let ev (u : State) (at_ : Nat) (a : Act) : Prop := ∃ e ∈ u.agenda, e.at_ = at_ ∧ e.act = a
    let ends (u : State) (op : MacroOp) (n : Nat) (fin : Nat) : Prop := ev u fin (.row (.macroOpCompletion cl op n))
    (∀ r brow, s.ecc = [] → s.checkB hn.toNat = .ok (r, brow) →
      let n := 64 * sliceBytes (s.sampleRec clsM core hn.toNat) / 512
      (ready h [] s = true → mayMatrix s (24 + n) false → k.array = none → r.origin + 64 * sliceBytes r ≤ 2 ^ 24 →
        ∃ u, exec (.mbld h hn) s = .next u ∧ (u.cluster cl).array = some { org := some o, op := .mbld, tile := 0 } ∧
          ev u (s.acc + 4) (.aux (.bload { org := some o, task := none, core := core, origin := r.origin, fmt := r.fmt, cols := r.cols,
                                           row := brow, per := sliceBytes r, first := s.acc + 4, eff := s.acc + 23 + n } 0)) ∧
          ends u .mbld 0 (s.acc + 24 + n) ∧ u.mem = s.mem) ∧
      (ready h [] s = true → mayMatrix s 0 false →
        exec (.mbsel h hn) s = .next (s.schedAux (s.acc + 16) phLand (some o) (.selb core hn.toNat)))) ∧
    (ready h [] s = true → mayMatrix s 16 false → t.busy = false →
      ∃ u, exec (.mzero h f32 tile) s = .next u ∧ (u.tileOf core tile).busy = true ∧ ev u (s.acc + 16) (.aux (.mzero cl tile.toNat f32)) ∧
        ends u .mzero tile.toNat (s.acc + 16) ∧ u.mem = s.mem) ∧
    (ready h [.v v, .tag v] s = true → mayMatrix s 16 false → t.busy = false → s.vtag v = (if t.f32 then 1 else 4) →
      ∃ u, exec (.mbias h row tile v) s = .next u ∧ (u.tileOf core tile).busy = true ∧
        ev u (s.acc + 16) (.aux (.mbias cl tile.toNat row (s.vreg v))) ∧ ends u .mbias tile.toNat (s.acc + 16) ∧ u.mem = s.mem) ∧
    (∀ r rt base stride, s.ecc = [] → ready h [.s b, .s c] s = true → t.busy = false → k.drain = none →
      let hd := (s.sreg b).toNat % 256
      let cv := (s.sreg c).toNat
      let w := drainW r.fmt
      let n := s.scnAt core
      let own := if t.ivalid then t.istamp else n
      let stamp := match s.jstamp? with
        | some j => olderStamp own j
        | none => own
      s.mxRec hd = .ok r → r.ok = true → r.fmt ∈ [1, 2, 3, 6, 7] → s.routeCheck core it .plain = .ok rt →
      s.drainPlace hd r rt nd.toNat (cv % 2 ^ 16) (cv / 2 ^ 16 % 2 ^ 16) = .ok (base, stride) → mayMatrix s (24 + 64 * w) false →
      staleAt stamp r.limit n = false → ∀ i : Instr, (i = .mdrain h tile b c it nd ∧ wake = false) ∨ (i = .mdrainWake h tile b c it nd ∧ wake = true) →
        ∃ u dr, exec i s = .next u ∧ (u.cluster cl).drain = some { org := some o, op := .mdrain, tile := tile.toNat } ∧
          (u.tileOf core tile).busy = true ∧ ev u (s.acc + 24) (.aux (.drain dr 0)) ∧ dr.base = base ∧ dr.stride = stride ∧ dr.stamp = stamp ∧
          dr.fmt = r.fmt ∧ dr.wake = (if wake then some (cv / 2 ^ 32 % 16) else none) ∧
          ends u .mdrain tile.toNat (s.acc + 24 + 64 * w) ∧ u.mem = s.mem) ∧
    (ready h [.s b] s = true → k.array = none → t.busy = false →
      let off := (s.sreg b).toNat % 2 ^ 24
      off % 64 = 0 → off + 16448 ≤ 2 ^ 24 →
      (mayMatrix s 265 false → ∃ u, exec (.msave h tile b) s = .next u ∧
        (u.cluster cl).array = some { org := some o, op := .msave, tile := tile.toNat } ∧ (u.tileOf core tile).busy = true ∧
        (∃ m, ev u (s.acc + 19) (.aux (.saveGroup m 0)) ∧ m.off = off ∧ m.tile = tile.toNat) ∧ ends u .msave tile.toNat (s.acc + 265) ∧ u.mem = s.mem) ∧
      (let hdr := s.readAs clsM (roomKey core off) 64
       let bh := hdr / 2 ^ 96 % 256
       let n := 64 * sliceBytes (s.sampleRec clsM core bh) / 512
       ∀ r brow, s.ecc = [] → s.upsets = [] → (s.tier (tierOf core)).bonds = [] → mayMatrix s (265 + n) false → s.tainted (roomKey core off) 64 = false → headerOk hdr = true → s.checkB bh = .ok (r, brow) →
        ∃ u, exec (.mrestore h tile b) s = .next u ∧ (u.cluster cl).array = some { org := some o, op := .mrestore, tile := tile.toNat } ∧
          (u.tileOf core tile).busy = true ∧ ev u (s.acc + 16) (.aux (.selb core bh)) ∧
          (∃ m, ev u (s.acc + 9 + 64 * sliceBytes r / 512) (.aux (.restGroup m 1)) ∧ m.off = off ∧ m.hdr = hdr) ∧
          ends u .mrestore tile.toNat (s.acc + 265 + n) ∧ u.mem = s.mem)) ∧
    (ready h [] s = true → mayMatrix s 0 false →
      (∀ sel : Fin 3, exec (.mchk h sel d tile) s =
        .next (s.landS (s.acc + 16) d (if sel = 0 then t.mis else if sel = 1 then t.wb else t.na))) ∧
      exec (.mstat h d (.tile tile)) s = .next (s.landS (s.acc + 16) d (BitVec.ofNat 64 (tileWord t))) ∧
      exec (.mstat h d .eng) s = .next (s.landS (s.acc + 16) d (BitVec.ofNat 64 s.engWord)))

/-- 09 R193, 10 R208, R209: an MMAC whose checks pass and whose operands are fresh takes the array and its tile and its berth leaves the
rotation; it completes 24 cycles and its steps' cycles later. Memory is unchanged at issue.
09 R195, 03 R77: a step of an integer mode adds to each of the 64 by 64 elements the exact product of its row of A and its column of B, clamped
to 32 bits; SAT is set when an element was clamped. -/
def Obligations.MmacStartsAndTakesItsTime : Prop :=
  (∀ (s : State) (h : Hd) (mode : BitVec 8) (tile : TileNo) (a : SReg) (hn : Handle) (ks : BitVec 7) (ra rb : Rec) (key row hb : Nat) (ga gb : Bool),
     let core := s.cur.core
     let cl := clusterOf core
     let f := mode.toNat
     let t := s.tileOf core tile
     let k0s := (s.sreg a).toNat
     let s0 := if t.part then t.step else 0
     let fin := s.acc + 24 + (ks.toNat + 1 - s0) * stepCycles f
     s.ecc = [] → ready h [.s a] s = true → mayMatrix s (24 + (ks.toNat + 1 - s0) * stepCycles f) true → (s.cluster cl).array = none → t.busy = false →
     t.f32 = decide (f / 16 % 4 = 2) → (s.core core).selb = some hb → 
     s.mmacRecs f hn.toNat hn.toNat hb hb k0s s0 (ks.toNat + 1) = .ok (ra, key, rb, row) →
     (t.part = true → t.desc = { mode := f, ah := hn.toNat, k0s := k0s, ks := ks.toNat, bh := hb }) →
     s.staleCheck hn.toNat 1 ra = .ok (none, ga) → s.staleCheck hb 2 rb = .ok (none, gb) → s.railFault f = none → s.me.run = 1 →
     ∃ u, exec (.mmac h mode tile a hn ks) s = .next u ∧ u.me.run = 3 ∧ (u.tileOf core tile).busy = true ∧
       (∃ x, (u.cluster cl).array = some x ∧ x.org = some s.here ∧ x.op = .mmac ∧ x.tile = tile.toNat) ∧
       (∃ m, (u.cluster cl).mmac = some m ∧ m.s0 = s0 ∧ m.smax = ks.toNat + 1 ∧ m.data = t.els ∧ m.akey = key + k0s * (State.blockSize f ra).1) ∧
       (∃ e ∈ u.agenda, e.at_ = fin ∧ e.act = .row (.mmacCompletion cl)) ∧ u.mem = s.mem) ∧
  (∀ (m : MmacRun) (a : Nat) (b : List (List Nat)), m.kind ≠ 2 → m.cells = [] → m.data.length = 4096 → b.length = 64 →
     let r := intStep m a b
     let x (i j : Nat) : Int := (m.data.getD (64 * i + j) 0).toInt +
       ((List.range 64).map fun k => (aRow m a i).getD k 0 * (bCol m (b.getD j [])).getD k 0).sum
     (∀ i j, i < 64 → j < 64 → (r.data.getD (64 * i + j) 0).toInt = max (-2 ^ 31) (min (2 ^ 31 - 1) (x i j))) ∧
     (r.sat = true ↔ m.sat = true ∨ ∃ i j, i < 64 ∧ j < 64 ∧ (x i j < -2 ^ 31 ∨ 2 ^ 31 - 1 < x i j)))

/-- 09 R193, R194, 10 R209, R210: the completion of an MMAC writes its tile, and the stop of one leaves its tile partial with the steps made;
both end the run, and the stop keeps BUSY for 12 cycles more. The array is free then, or goes to a journey that is being parked in the
cluster (18 R331). With no MMAC under way neither does anything. That the stop keeps the array too for those 12 cycles is the model's choice
(log 41).
09 R192, 10 R213: a macro-op's completion frees its tile and its array or drain path; a drain's group of 64 bytes, undisturbed, writes them
at its destination. The array freed goes to a journey that is being parked in the cluster, if there is one (18 R331). -/
def Obligations.MatrixEventsWriteTheTile : Prop :=
  (∀ (s : State) (cl : Nat), cl < 24 →
     let k := s.cluster cl
     let parking : Bool := s.parts.any fun p => p.2.journeys.any fun j => j.2.state = 2 && j.2.core.any fun c => clusterOf c = cl
     (k.mmac = none → exec (.mmacCompletion cl) s = .next s ∧ exec (.mmacStop cl) s = .next s) ∧
     ∀ m, k.mmac = some m → coreOk m.org.core = true → m.org.berth < 16 →
       let old := k.tiles.get {} m.tile
       let x := s.berth m.org.core m.org.berth
       (∃ u, exec (.mmacCompletion cl) s = .next u ∧ (u.cluster cl).mmac = none ∧ (u.cluster cl).array.isSome = parking ∧
         (let t := (u.cluster cl).tiles.get {} m.tile
          t.data = m.data ∧ t.busy = false ∧ t.part = false ∧ t.sat = (old.sat || m.sat) ∧ t.ivalid = true ∧ t.desc = m.desc) ∧
         (x.run = 3 → x.wait = .none → (u.berth m.org.core m.org.berth).run = 3 ∧ (u.berth m.org.core m.org.berth).backAt = some s.acc ∧
           (u.berth m.org.core m.org.berth).wpc = x.pc) ∧ u.mem = s.mem) ∧
       (∃ u, exec (.mmacStop cl) s = .next u ∧ (u.cluster cl).mmac = none ∧ (u.cluster cl).array = k.array ∧
         (let t := (u.cluster cl).tiles.get {} m.tile
          t.data = m.data ∧ t.busy = old.busy ∧ t.part = true ∧ t.desc = m.desc ∧
          (m.s0 < m.smax → t.step = min m.smax ((s.acc - (m.start + 12)) / m.t + m.s0))) ∧
         (∃ e ∈ u.agenda, e.at_ = s.acc + 12 ∧ e.act = .aux (.mmacClear m.org cl)) ∧
         (x.run = 3 → x.wait = .none → (u.berth m.org.core m.org.berth).backAt = some (s.acc + 12)) ∧ u.mem = s.mem)) ∧
  (∀ (s : State),
     (∀ (cl tile : Nat) (op : MacroOp), cl < 24 → tile < 4 →
       ∃ u, exec (.macroOpCompletion cl op tile) s = .next u ∧
         (op ≠ .mbld → ((u.cluster cl).tiles.get {} tile).busy = false) ∧
         (op = .mdrain → (u.cluster cl).drain = none) ∧ (op ≠ .mdrain → (u.cluster cl).drain = (s.cluster cl).drain) ∧
         (op ∈ [.mbld, .msave, .mrestore] → (u.cluster cl).array.isSome =
           s.parts.any fun p => p.2.journeys.any fun j => j.2.state = 2 && j.2.core.any fun c => clusterOf c = cl) ∧
         (op ∉ [.mbld, .msave, .mrestore] → (u.cluster cl).array = (s.cluster cl).array) ∧
         (∀ n, n ≠ tile → (u.cluster cl).tiles.get {} n = (s.cluster cl).tiles.get {} n) ∧ u.mem = s.mem) ∧
     (∀ g : DrainGroup, MemOk s → calm s → coreOk (coreOfKey g.key) = true → spaceOf g.key = .ws ∨ spaceOf g.key = .room →
       (spaceOf g.key = .ws → s.staleFor (coreOfKey g.key) g.inj = false) →
       ∃ u, exec (.drainGroupEffect g) s = .next u ∧ Stores s u g.key 64 g.data (2 ^ 64 - 1)))

/-! ## The stack (12 R243 to R264) -/

/-- 12 R247, R253 to R256: a stack access within its limits, with the position its own and no beat of its tier in it, sends its beat two cycles
later; a directed one needs its target in service and awake, SBAMO and SBD a current replica; SBD samples it at issue + 20; SBAMO is a
commit point. -/
def Obligations.BeatInstructionsComplete : Prop :=
  ∀ (s : State) (h : Hd) (a b c d : SReg) (u v : VReg) (k : MReg) (q : BitVec 2) (x : BitVec 48),
    let o := s.here
    let ea := (s.sreg a + BitVec.ofInt 64 x.toInt).toNat
    let n (sz : Nat) : Nat := [1, 1, 2, 2, 4, 4, 8][sz]!
    let beat (kind dtier dpos aop : Nat) (psn : Bool) (data : Nat) (dreg : Option SReg) : Beat :=
      { kind := kind, src := tierOf s.cur.core, dtier := dtier, dpos := dpos, off := ea, aop := aop, psn := psn, data := data, org := some o,
        part := s.myPart, dreg := dreg, tries := 1, copy := 0, seg := 0, req := none }
    let send (w : Beat) : State := s.schedRow (s.acc + 2) phSample (some o) (.stackBeat w)
    let wide : Nat := (s.vreg v).toNat / 2 ^ (512 * q.toNat) % 2 ^ 512
    let current : Prop := (s.replicaOf (tierOf s.cur.core)).behind = false
    (s.slotCheck = none → ea < 2 ^ 22 →
      (ready h [.s a, .s b] s = true → ea % 8 = 0 →
        exec (.sbw h none (.d b) a x) s = .next (send (beat 1 7 0 0 false (s.sreg b).toNat none))) ∧
      (ready h [.s a, .v v, .tag v] s = true → ea % 64 = 0 →
        exec (.sbw h none (.v v q) a x) s = .next (send (beat 2 7 0 0 (s.vtag v = 15) wide none))) ∧
      (∀ (op : Fin 9) (dbl : Bool), ready h [.s a, .s b, .s c] s = true → ea % (if dbl then 8 else 4) = 0 → current →
        exec (.sbamo h op dbl d a b c x) s = .next (send (beat 3 7 0 (2 * op.val + dbl.toNat) false
          ((s.sreg b).toNat + 2 ^ 64 * (if op = 2 then (s.sreg c).toNat else 0)) (some d))).commit)) ∧
    (∀ t m, s.slotCheck = none → ea < 2 ^ 24 → s.dirTarget c = some (t, m) → s.tierRefuses t = false →
      (ready h [.s a, .s b, .s c] s = true → ea % 8 = 0 →
        exec (.sbw h (some c) (.d b) a x) s = .next (send (beat 4 t m 0 false (s.sreg b).toNat none))) ∧
      (ready h [.s a, .v v, .tag v, .s c] s = true → ea % 64 = 0 →
        exec (.sbw h (some c) (.v v q) a x) s = .next (send (beat 5 t m 0 (s.vtag v = 15) wide none)))) ∧
    (current →
      (∀ sz : Fin 7, ready h [.s a] s = true → ea < 2 ^ 22 → ea % n sz = 0 → exec (.sbd h (.scalar sz d) a x) s =
        .next (s.schedAux (s.acc + 20) phSample (some o) (.stackLoad o ea (.scalar sz d) 0))) ∧
      (∀ tag : Fin 9, ready h [.s a, .m k] s = true → ea + 256 ≤ 2 ^ 22 → ea % 32 = 0 → exec (.sbd h (.vec tag u k) a x) s =
        .next (s.schedAux (s.acc + 20) phSample (some o) (.stackLoad o ea (.vec tag u k) (s.mreg k)))))

/-- 12 R257 to R263: SBMAP records the partition's pending choice; SBSEQ lands its word; STAIRW with credit takes one and sends its entry, in the
receiver's FIFO 12 cycles later; STAIRR takes the oldest entry and returns the credit; STAIRF lands FREE; TGATE and TWAKE land the old state
of the tier and ask for the other. STAIRW and STAIRR are commit points. -/
def Obligations.StairwellsAndTiersComplete : Prop :=
  ∀ (s : State) (h : Hd) (d a b : SReg) (v : VReg) (n : BitVec 3) (f : Fin 3) (dn : Bool),
    let o := s.here
    let c := s.cur.core
    let ev (u : State) (at_ : Nat) (e : Act) : Prop := ∃ x ∈ u.agenda, x.at_ = at_ ∧ x.act = e
    (ready h [] s = true →
      (∀ p l, (s.core c).owner = some (p, l) → (s.part p).slotPend = none →
        exec (.sbmap h n) s = .next (s.modPart p fun k => { k with slotPend := some (n.toNat, s.ttcOf c, l) })) ∧
      exec (.sbseq h f d) s = .next (s.landS (s.acc + 16) d (BitVec.ofNat 64 (s.seqWord f))) ∧
      (s.seqWord 0 = (s.acc + 2) % 2 ^ 48) ∧
      exec (.stairf h dn d) s = .next (s.landS (s.acc + 16) d (BitVec.ofNat 64 (s.freeOf c dn))) ∧
      (∀ at_ slot tag rest, (s.fifoOf c dn).held = (at_, slot, tag) :: rest → at_ ≤ s.acc →
        ∃ u, exec (.stairr h dn v) s = .next u ∧ (u.fifoOf c dn).held = rest ∧ ev u (s.acc + 2) (.aux (.stairRead o dn slot tag v)) ∧
          (∀ e, s.stairTo c (!dn) = some e → ev u (s.acc + 14) (.row (.stairwellCreditReturn e dn))) ∧ u.me.wpc = s.me.pc ∧ u.mem = s.mem)) ∧
    (∀ dst, ready h [.v v, .tag v] s = true → s.stairTo c dn = some dst → dst ≠ c → let x := s.senderOf c dn
      x.free ≠ 0 → x.free ≠ 15 → (∀ l, x.last = some l → l + 7 < s.acc) →
      let q := s.fifoOf dst dn
      ∃ u, exec (.stairw h dn v) s = .next u ∧ (u.senderOf c dn).free = x.free - 1 ∧ (u.senderOf c dn).last = some s.acc ∧
        (u.fifoOf dst dn).held = q.held ++ [(s.acc + 14, q.wp, s.vtag v)] ∧ (u.fifoOf dst dn).wp = (q.wp + 1) % 8 ∧
        ev u (s.acc + 12) (.row (.stairwellEntryWrite dst dn q.wp (s.vreg v) (s.vtag v))) ∧ u.me.wpc = s.me.pc ∧ u.mem = s.mem) ∧
    (∀ t q, (s.sreg a).toNat % 8 = t → t < 6 → s.physTier s.myPart t = some q →
      let w := (s.tier q).power
      let landed := s.landS (s.acc + 16) d (BitVec.ofNat 64 w.state)
      let dl := (s.sreg b).toNat % 2 ^ 32
      (ready h [.s a, .s b] s = true → ∃ u, exec (.tgate h d a b) s = .next u ∧ u.agenda = landed.agenda ∧ u.mem = s.mem ∧
        (w.state = 0 → (u.tier q).power.state = 1 ∧ (u.tier q).power.deadline = dl ∧ (u.tier q).power.gateFrom = s.acc + 16) ∧
        (w.state = 1 → (u.tier q).power = { w with deadline := dl }) ∧ (w.state = 2 → (u.tier q).power = w) ∧
        (w.state = 3 → (s.tier q).replica.behind = true ∨ s.acc < w.wakeAt → (u.tier q).power = { w with recorded := some dl }) ∧
        (w.state = 3 → (s.tier q).replica.behind = false → w.wakeAt ≤ s.acc →
          (u.tier q).power.state = 1 ∧ (u.tier q).power.deadline = dl ∧ (u.tier q).power.gateFrom = s.acc + 16)) ∧
      (ready h [.s a] s = true → ∃ u, exec (.twake h d a) s = .next u ∧ u.mem = s.mem ∧
        (w.state = 0 → u = landed) ∧ (w.state = 1 → (u.tier q).power = { w with state := 0 }) ∧
        (w.state = 2 → (u.tier q).power.state = 3 ∧ (u.tier q).power.wakeAt = s.acc + 1024 ∧ ev u (s.acc + 1024) (.aux (.tierWake q))) ∧
        (w.state = 3 → (u.tier q).power = { w with recorded := none })))

/-- 12 R248 to R252, R259, R260, R262, R263: the events of the stack, undisturbed, with what each leaves; a tier that is asleep sends no beat.
12 R248 to R250: an undisturbed write beat writes its bytes in the replica of every awake tier and in the keeper, six cycles after it. -/
def Obligations.StackEventsReachTheirPlaces : Prop :=
  (∀ (s : State), MemOk s → calm s →
     let ev (u : State) (at_ : Nat) (e : Act) : Prop := ∃ x ∈ u.agenda, x.at_ = at_ ∧ x.act = e
     (∀ (b : Beat) (o : Org), b.dtier < 8 → b.src < 8 → b.org = some o → coreOk o.core = true → o.berth < 16 →
       (b.src < 6 → s.tierAway b.src = true → exec (.stackBeat b) s = .next s) ∧
       ((b.src < 6 → s.tierAway b.src = false) → ∃ u, exec (.stackBeat b) s = .next u ∧ u.hall.sent = some s.acc ∧ u.mem = s.mem ∧
         (b.kind ≤ 3 → ev u (s.acc + 6) (.aux (.beatApply b []))) ∧
         (b.kind = 4 ∨ b.kind = 5 → b.dtier < 6 → ev u (s.acc + 10) (.row (.directedBeatEffect b))) ∧
         (∀ r, b.kind = 8 → b.req = some r → ev u (s.acc + 6) (.row (.courierRequestAccept b.part o r))))) ∧
     (∀ b : Beat, b.dtier < 8 → b.src < 6 →
       (s.mayResend b = false → exec (.nackResend b) s = .next (s.schedRow (s.acc + 1) phEnd b.org (.nackResend b))) ∧
       (s.mayResend b = true → ∃ u, exec (.nackResend b) s = .next u ∧ u.hall.sent = some s.acc ∧ u.hall.retry = min (2 ^ 16 - 1) (s.hall.retry + 1) ∧
         (b.kind = 4 ∨ b.kind = 5 → b.dtier < 6 → ev u (s.acc + 10) (.row (.directedBeatEffect { b with tries := b.tries + 1 }))))) ∧
     (∀ b : Beat, b.dtier < 6 → b.dpos < 16 → s.tierAway b.dtier = false → b.off + 64 ≤ 2 ^ 24 →
       let n := if b.kind = 4 then 8 else 64
       ∃ u, exec (.directedBeatEffect b) s = .next u ∧ Stores s u (roomKey (coreAtMesh b.dtier b.dpos) b.off) n b.data (2 ^ n - 1)) ∧
     (∀ line, line < 65536 →
       (s.copySource = none → exec (.resyncCopyBeat line) s = .next s) ∧
       (∀ src, s.copySource = some src → ∃ u, exec (.resyncCopyBeat line) s = .next u ∧ u.hall.line = (line + 1) % 65536 ∧
         ev u (s.acc + 6) (.aux (.copyApply line src [])) ∧ u.mem = s.mem)) ∧
     (∀ (c : Nat) (dn : Bool), coreOk c = true →
       (∀ k data tag, k < 8 → (s.fifoOf c dn).base + 2048 ≤ 2 ^ 19 → ∃ u, exec (.stairwellEntryWrite c dn k data tag) s = .next u ∧
         Stores s u (wsKey c ((s.fifoOf c dn).base + 256 * k)) 256 data.toNat (2 ^ 256 - 1)) ∧
       ∃ u, exec (.stairwellCreditReturn c dn) s = .next u ∧ u.mem = s.mem ∧
         (u.senderOf c dn).free = if (s.senderOf c dn).free < 8 then (s.senderOf c dn).free + 1 else (s.senderOf c dn).free) ∧
     (∀ t, t < 6 →
       (s.gateDue t = false → exec (.tierGateEffect t) s = .next s) ∧
       (s.gateDue t = true → ∃ u, exec (.tierGateEffect t) s = .next u ∧ (u.tier t).power.state = 2 ∧ (u.tier t).replica.behind = true ∧
         (∀ e ∈ u.cores, tierOf e.1 = t → ∀ x ∈ e.2.berths, x.2.run = 0) ∧ u.mem = s.mem) ∧
       (¬((s.tier t).power.state = 3 ∧ (s.tier t).power.wakeAt = s.acc) → exec (.tierWakeW t) s = .next s) ∧
       ((s.tier t).power.state = 3 → (s.tier t).power.wakeAt = s.acc →
         ∃ u, exec (.tierWakeW t) s = .next u ∧ (u.tier t).replica.count = 0 ∧ (u.tier t).power = (s.tier t).power ∧ u.stairsEmpty t = true ∧
           u.mem = s.mem))) ∧
  (∀ (s : State) (b : Beat), MemOk s → b.kind = 1 ∨ b.kind = 2 → b.off + 64 ≤ 2 ^ 22 →
     let n := if b.kind = 1 then 8 else 64
     let t := auxEvent (.beatApply b []) s
     ∀ r, r < 7 →
       (s.rxAwake r = true → Memory.read t.mem (commonKey r b.off) n = b.data % 2 ^ (8 * n)) ∧
       ∀ a, a < 2 ^ 22 → (s.rxAwake r = false ∨ ¬(b.off ≤ a ∧ a < b.off + n)) →
         Memory.byte t.mem (commonKey r a) = Memory.byte s.mem (commonKey r a))

/-! ## The process images (16 R287 to R309, R418) -/

/-- 16 R303 to R308: PIL of a landing that is not stale, POS and STAMP.o in their position, STAMP.h, STALE, SCNR and INGST complete; STALE's word for
a record that is not stale is its age, SPOL and its handle, and STALE.chk of one that is stale with SPOL 1 also sets its SFLAG.
16 R289, 10 R203: a stamp is stale when it is VOID, or when its limit is not 0xFFFFFFFF and it is older than its limit. -/
def Obligations.ImageInstructionsAndStaleness : Prop :=
  (∀ (s : State) (h : Hd) (a b c d : SReg) (u v : VReg) (k : MReg) (w q : BitVec 2) (hn : Handle) (x : BitVec 48),
     let o := s.here
     let core := s.cur.core
     let ea := (s.sreg a + BitVec.ofInt 64 x.toInt).toNat
     let scn := s.scnAt core
     let send (kind r ofs data : Nat) (psn : Bool) : State := s.schedRow (s.acc + 2) phSample (some o) (.stackBeat
       { kind := kind, src := tierOf core, dtier := 6, dpos := 0, off := r * 2 ^ 16 + ofs, aop := 0, psn := psn, data := data, org := some o,
         part := s.myPart, dreg := none, tries := 1, copy := 0, seg := 0, req := none })
     (s.ecc = [] → ea % 64 = 0 → ∀ hdr : BitVec 512, hdr = BitVec.ofNat 512 (s.readAs clsT (roomKey core ea) 64) →
       let ofs := (s.sreg b).toNat
       staleAt (hdr.extractLsb' 0 32) (hdr.extractLsb' 96 32) scn = false ∨ hdr.getLsbD 88 = true →
       (∀ sz : Fin 7, let n := [1, 1, 2, 2, 4, 4, 8][sz.val]!
         ready h [.s a, .s b] s = true → ofs + n ≤ (hdr.extractLsb' 64 16).toNat → ea + 64 + ofs + n ≤ 2 ^ 24 → ofs % n = 0 →
         exec (.pil h (.scalar sz d) a b x) s =
           .next (s.schedAux (s.acc + 20) phSample (some o) (.pilLoad o (ea + 64 + ofs) ofs (.scalar sz d) 0))) ∧
       (∀ tag : Fin 9, ready h [.s a, .s b, .m k] s = true → ofs + 256 ≤ (hdr.extractLsb' 64 16).toNat → ea + 64 + ofs + 256 ≤ 2 ^ 24 → ofs % 32 = 0 →
         exec (.pil h (.vec tag u k) a b x) s =
           .next (s.schedAux (s.acc + 20) phSample (some o) (.pilLoad o (ea + 64 + ofs) ofs (.vec tag u k) (s.mreg k))))) ∧
     (∀ n row, let r := (s.sreg c).toNat % 256
       s.outRow s.myPart r = some (n, row) → row.owner = false → s.slotCheck = none →
       (ready h [.s a, .s c, .s b] s = true → ea + 8 ≤ row.length → (row.offset + ea) % 8 = 0 →
         exec (.pos h (.d b) a c x) s = .next (send 4 r ea (s.sreg b).toNat false)) ∧
       (ready h [.s a, .s c, .v v, .tag v] s = true → ea + 64 ≤ row.length → (row.offset + ea) % 64 = 0 →
         exec (.pos h (.v v q) a c x) s = .next (send 5 r ea ((s.vreg v).toNat / 2 ^ (512 * q.toNat) % 2 ^ 512) (s.vtag v = 15))) ∧
       (ready h [.s b, .s c] s = true → exec (.stampO h b c) s = .next (send 4 r 0xFFF8 ((s.sreg b).toNat % 2 ^ 32) false))) ∧
     (ready h [.s b] s = true → ∃ t, exec (.stampH h b hn) s = .next t ∧ t.mem = s.mem ∧
       ∃ e ∈ t.agenda, e.at_ = s.acc + 20 ∧
         e.act = .row (.roomWriteEffect (.stamp (some o) core (s.recOff core hn.toNat) ((s.sreg b).setWidth 32)))) ∧
     (∀ r, s.ecc = [] → ready h [] s = true → s.mxRec hn.toNat = .ok r → r.ok = true →
       (staleAt r.stamp r.limit scn = false → ∀ chk : Bool, exec (.stale h chk d hn) s =
         .next (s.landS (s.acc + 16) d (BitVec.ofNat 64 ((scn - r.stamp).toNat + 2 ^ 34 * r.spol + 2 ^ 40 * hn.toNat)))) ∧
       (∃ v, exec (.stale h true d hn) s = .next (s.landS (s.acc + 16) d v)) ∧
       (staleAt r.stamp r.limit scn = true → r.spol = 0 → exec (.stale h false d hn) s =
         .next (({ s with free := s.free + 1 } : State).raise 0x11 7 (BitVec.ofNat 32 hn.toNat) (Config.freeWord s.free))) ∧
       (staleAt r.stamp r.limit scn = true → r.spol = 1 → ∃ v, exec (.stale h false d hn) s =
         .next ((s.landS (s.acc + 16) d v).schedRow (s.acc + 20) phRec (some o) (.roomWriteEffect (.sflag none core (s.recOff core hn.toNat)))))) ∧
     (∀ t, ready h [] s = true → s.mxRec hn.toNat = .error t → s.countRecord hn.toNat = s →
       ∃ v, exec (.stale h true d hn) s = .next (({ s with free := s.free + 1 } : State).landS (s.acc + 16) d v)) ∧
     (ready h [] s = true →
       (let edge : BitVec 512 := (s.tier (s.clockOf core)).edge
        let field (o n : Nat) : Nat := edge.toNat / 2 ^ (8 * o) % 2 ^ (8 * n)
        exec (.scnr h w d) s = .next (s.landS (s.acc + 16) d (BitVec.ofNat 64 (if w = 0 then field 0 8 else if w = 1 then field 8 8
          else if w = 2 then field 0 8 + field 8 8 else field 20 4))) ∧
        exec (.ingst h d (.rx q)) s = .next (s.landS (s.acc + 16) d (BitVec.ofNat 64 (field (32 + 8 * q.toNat) 8))) ∧
        exec (.ingst h d .drop) s = .next (s.landS (s.acc + 16) d (BitVec.ofNat 64 (field 24 8)))))) ∧
  (∀ stamp limit n : BitVec 32, staleAt stamp limit n = true ↔
     stamp = 0xFFFFFFFF ∨ (limit ≠ 0xFFFFFFFF ∧ (limit.toNat : Int) < (n - stamp).toInt))

/-- 16 R292 to R302, R305, R306, R418: the events of the images, undisturbed, with what each leaves. The frames of a stream that is replicated
go out with a sequence number derived from SCN (23 R400); how, the spec does not say, and it is a free value (log 51). That a meter newly set
has full buckets, and that the tables of the ports change by these inputs, is the model's choice (logs 3, 24). -/
def Obligations.ImageEventsComplete : Prop :=
  ∀ (s : State), MemOk s → calm s →
    (∀ f : Frame, f.port < 4 →
      (f.fcsOk = false → ∃ t, exec (.frameReceive f) s = .next t ∧ (t.ports.get {} f.port).fcs = min (2 ^ 16 - 1) ((s.ports.get {} f.port).fcs + 1) ∧
        t.mem = s.mem) ∧
      (∀ x p k r, f.fcsOk = true → f.jumbo = false → f.payload.length ≤ 1500 → f.seqno = none ∨ s.recovered f = none →
        s.streamOf f = some x → s.servingEntry x.handle = some (p, k, r) → s.gateOpen x = true → (s.meterPass x f).2 = true →
        r.pstart + r.length ≤ f.payload.length →
        ∃ t, exec (.frameReceive f) s = .next t ∧ (t.streamSt p k).rx = true ∧ (t.streamSt p k).sel = (s.streamSt p k).sel ∧
          Stores s t (imgKey p false (!(s.streamSt p k).sel) r.offset) r.length (State.bytesVal ((f.payload.drop r.pstart).take r.length)) (2 ^ r.length - 1))) ∧
    (∀ (f : Frame) n h k reset, f.port < 4 → f.fcsOk = true → f.jumbo = false → f.payload.length ≤ 1500 → f.seqno = some n →
      s.recovered f = some (h, k, reset) → (State.recover (s.recovery.get {} h) k reset s.gt n).2 = false →
      ∃ t, exec (.frameReceive f) s = .next t ∧ (t.ports.get {} f.port).dupe = min (2 ^ 16 - 1) ((s.ports.get {} f.port).dupe + 1) ∧ t.mem = s.mem) ∧
    (∀ port cycle lists, port < 4 → lists.length ≤ 1024 → (s.ports.get {} port).held = [] →
      ∃ t, exec (.gateListExchange port (.qbv cycle lists)) s = .next t ∧ (t.ports.get {} port).windows = lists ∧ (t.ports.get {} port).cycle = cycle ∧
        t.mem = s.mem) ∧
    (∀ n cycle lists, n < 64 → lists.length ≤ 1024 →
      exec (.gateListExchange n (.gate cycle lists)) s = .next { s with streamGates := s.streamGates.put n (cycle, lists) }) ∧
    (∀ n cir cbs eir ebs, n < 64 → ∃ m : Meter, m.cir = cir ∧ m.eir = eir ∧ m.cbs = cbs ∧ m.ebs = ebs ∧ m.c = cbs * 2 ^ 32 ∧ m.e = ebs * 2 ^ 32 ∧
      exec (.gateListExchange n (.meter cir cbs eir ebs)) s = .next { s with meters := s.meters.put n m }) ∧
    (∀ (n h k reset q g f : Nat) (x : StreamFilter) (m : BitVec 4), n < 64 → h < 256 → 1 ≤ k → k ≤ 32 → g < 8 → f < 64 → q < 256 →
      x.handle < 256 → x.gate.all (· < 64) = true → x.meter.all (· < 64) = true →
      exec (.gateListExchange q (.filter x)) s = .next { s with filters := s.filters.put q x } ∧
      exec (.gateListExchange n (.pair h k reset)) s =
        .next { s with crPairs := s.crPairs.put n (h, k, reset), recovery := s.recovery.put h {} } ∧
      exec (.gateListExchange n (.replicate g f m)) s = .next { s with replicas := s.replicas.put n (g, f, m) }) ∧
    (∀ (port k : Nat) (classes : BitVec 8), port < 4 → 64 ≤ k → k ≤ 256 →
      (∃ t, exec (.gateListExchange port (.preempt classes k)) s = .next t ∧ (t.ports.get {} port).preempt = classes ∧
        (t.ports.get {} port).fragment = k ∧ t.mem = s.mem) ∧
      exec (.gateListExchange port .slave) s = .next { s with slavePort := some port }) ∧
    (∀ (p row i : Nat) pl d r t, p < 8 → (s.part p).plan = some pl → pl.delivers[row]? = some d → pl.streams[d.entry]? = some r →
      s.physTier p d.tier = some t →
      ∃ u b, exec (.deliveryBeat p row i) s = .next u ∧ ((u.part p).delivered.get 0 row) = i + 1 ∧ u.hall.sent = some s.acc ∧
        (∃ e ∈ u.agenda, e.at_ = s.acc + 10 ∧ e.act = .row (if t = 6 then .hallOutputWrite b else .directedBeatEffect b)) ∧
        b.dtier = t ∧ b.dpos = d.pos ∧ b.off = d.roomoff + 64 * i ∧ (b.data, b.psn) = s.deliveryData p d.entry i r ∧ u.mem = s.mem) ∧
    (∀ (p f : Nat) r, p < 8 → f < 64 → s.frameRow p f = some r → r.valid = true → s.egressOpen p (s.frameScan p f) = true →
      ∃ t, exec (.egressFrameTransmit p f) s = .next t ∧ t.mem = s.mem ∧
        ∀ port, (port = r.port ∨ port < 4 ∧ ∃ m, s.replicated p f = some m ∧ m.getLsbD port = true) →
          State.windowOpen (s.ports.get {} port) s.gt r.tclass = true →
          (t.ports.get {} port).sent = some (s.gt, p, f, s.frameBytes p r) ∧
          (t.ports.get {} port).sentSeq = (s.replicated p f).map fun _ => Config.seqNo (s.frameScan p f)) ∧
    (∀ (port cls : Nat), port < 4 → cls < 8 →
      (State.windowOpen (s.ports.get {} port) s.gt cls = false → exec (.qbvWindowOpening port cls) s = .next s) ∧
      (State.windowOpen (s.ports.get {} port) s.gt cls = true → (s.ports.get {} port).held = [] →
        ∃ t, exec (.qbvWindowOpening port cls) s = .next t ∧ (t.ports.get {} port).held = [] ∧ t.mem = s.mem)) ∧
    (∀ (b : Beat) (o : Org), b.part < 8 → b.org = some o →
      (b.dpos = 1 → exec (.hallOutputWrite b) s = .next (s.schedAux s.acc phEnd b.org (.pairData b))) ∧
      (∀ k r, b.dpos ≠ 1 → s.outRow b.part (b.off / 2 ^ 16) = some (k, r) → s.ended.contains (s.taskOf o.core o.berth) = false →
        let ofs := b.off % 2 ^ 16
        let n := if b.kind = 4 then 8 else 64
        (ofs = 0xFFF8 → ∃ t, exec (.hallOutputWrite b) s = .next t ∧ (t.outSt b.part k).ostamp = BitVec.ofNat 32 b.data ∧ t.mem = s.mem) ∧
        (ofs ≠ 0xFFF8 → ∃ t, exec (.hallOutputWrite b) s = .next t ∧ (t.outSt b.part k).w = true ∧
          Stores s t (imgKey b.part true (!(s.outSt b.part k).sel) r.offset + ofs) n b.data (2 ^ n - 1)))) ∧
    (∀ (c : Nat) (v : Word), c < 8 →
      (2 ^ 31 ≤ v.toNat → exec (.greqStore c v) s = .next s) ∧
      (v.toNat < 2 ^ 31 → ∃ t, exec (.greqStore c v) s = .next t ∧ (t.gates.get {} c).start = some s.acc ∧ (t.gates.get {} c).greq = v.toNat ∧
        (t.gates.get {} c).data = 0 ∧ (t.gates.get {} c).stat = 0 ∧ (∃ e ∈ t.agenda, e.at_ = s.acc + 40 ∧ e.act = .aux (.gateSample c s.acc)) ∧
        (∃ e ∈ t.agenda, e.at_ = s.acc + 96 ∧ e.act = .aux (.gateResult c s.acc)) ∧ t.mem = s.mem) ∧
      (∀ i, (s.gates.get {} c).start = some i → i + 96 = s.acc → ∃ t, exec (.gateResult c) s = .next t ∧
        (t.gates.get {} c).data = (s.gates.get {} c).got ∧ (t.gates.get {} c).stat = (s.gates.get {} c).status ||| 2 ^ 32 ∧
        (t.gates.get {} c).start = none ∧ t.mem = s.mem)) ∧
    exec .syncLock s = .next { s with seq := { s.seq with sync := true, hold := false } } ∧
    (s.seq.sync = true → exec .syncLoss s = .next { s with seq := { s.seq with sync := false, hold := true } }) ∧
    (s.seq.sync = false → exec .syncLoss s = .next s)

/-! ## The courier (17 R310 to R325) -/

/-- 17 R313, R314, R320, R323, R324: CPY whose checks pass and whose position is its tier's steps the core's copy count, lands the copy's ID and sends
its request; TLBW and TLBI send theirs; RCPTW waits for a receipt; RCPTR takes the receipt at RD, or claims the next
one, and XLGET a message, at issue + 2. CPY,
TLBW, RCPTR and XLGET are commit points. -/
def Obligations.CourierInstructionsComplete : Prop :=
  ∀ (s : State) (h : Hd) (dir ring : BitVec 2) (d a b c : SReg) (v : VReg) (hn : Handle) (win : BitVec 6) (idx : BitVec 10),
    let o := s.here
    let core := s.cur.core
    let p := s.myPart
    let request (r : CReq) (u : State) : State := u.schedRow (s.acc + 2) phSample (some o) (.stackBeat
      { kind := 8, src := tierOf core, dtier := 6, dpos := 0, off := 0, aop := 0, psn := false, data := 0, org := some o, part := p,
        dreg := none, tries := 1, copy := 0, seg := 0, req := some r })
    (∀ r place, s.ecc = [] → ready h [.s a, .s b, .s c] s = true → s.mxRec hn.toNat = .ok r → r.ok = true → r.fmt ∈ [1, 2, 3, 6, 7, 8] →
      s.recPlace r = some place → s.cpyFault p (s.cpyOf dir a b c hn.toNat win.toNat r place) = none → s.slotCheck = none →
      let id := (s.core core).copies + 1
      exec (.cpy h dir d a b c hn win) s = .next (request (.copy dir.toNat place r.fmt r.planes r.rows r.cols r.stride (s.sreg a) (s.sreg b) (s.sreg c)
        hn.toNat win.toNat id.toNat) ((s.modCore core fun k => { k with copies := id }).landS (s.acc + 16) d (id.setWidth 64))).commit) ∧
    (ready h [.s a, .s b] s = true → s.slotCheck = none →
      (idx.toNat < (s.tlbShare p).2 → entryOk (s.sreg b) = true →
        exec (.tlbwW h a b idx) s = .next (request (.tlbw (s.sreg a) (s.sreg b) idx.toNat) s).commit) ∧
      ((s.part p).row.a40 = true → exec (.tlbwRes h a b) s =
        .next (request (.res ((s.sreg a).toNat % 2 ^ 16) ((s.sreg a).toNat / 2 ^ 16 % 2 ^ 7) ((s.sreg b).getLsbD 0)) s).commit) ∧
      exec (.tlbi h (.va a)) s = .next (request (.tlbi (.va a) (s.sreg a)) s) ∧
      exec (.tlbi h .all) s = .next (request (.tlbi .all 0) s) ∧
      (idx.toNat < (s.tlbShare p).2 → exec (.tlbi h (.idx idx)) s = .next (request (.tlbi (.idx idx) 0) s))) ∧
    (ready h [] s = true →
      (∀ w, (s.ring core ring.toNat).valid = true → s.winRow p win.toNat = some w → s.servedCore p w = some core → s.ttcOf core < w.fin →
        exec (.rcptw h d ring win) s = .next (s.waitFor (.receipts o ring.toNat w.fin d))) ∧
      (let r := (s.ring core ring.toNat).skipPads
       (s.ring core ring.toNat).valid = true →
        (∀ x, r.claims = 0 → r.head? = some x → exec (.rcptr h v ring) s =
          .next ((s.modRing core ring.toNat fun _ => r.consume x).schedAux (s.acc + 2) phSample (some o) (.rcptRead o ring.toNat x v)).commit) ∧
        (r.claims ≠ 0 ∨ r.head? = none → exec (.rcptr h v ring) s =
          .next ((s.modRing core ring.toNat fun _ => { r with claims := r.claims + 1 }).schedAux (s.acc + 2) phSample (some o) (.rcptLate o ring.toNat v)).commit)) ∧
      (s.namedBy p false = true → exec (.xlget h d) s = .next (s.schedAux (s.acc + 2) phSample (some o) (.xlRead o p false d)).commit) ∧
      (s.namedBy p false = false → s.namedBy p true = true →
        exec (.xlget h d) s = .next (s.schedAux (s.acc + 2) phSample (some o) (.xlRead o p true d)).commit))

/-- 17 R310, R311, R315 to R321: the courier's events, undisturbed: a request is taken in acceptance order, or acts on the translation table; a
data beat's effect or acceptance follows it; a write to far memory that its page maps changes its 64 bytes; a page that a far read misses is told to the partition's
queue, once, with WR clear; a stop ends a copy with its FCODE and coordinate, or holds it for the supervisor of an A40 partition; a receipt is
written in its ring.
The model's choices: that a stop waits until the segments before it are in their places, and FCODE 1, 8 and 0x0A end the copy at once (log 25,
where R316 says only that it ends), and which unit a held copy of an A40 partition keeps (log 40). -/
def Obligations.CourierEventsComplete : Prop :=
  ∀ (s : State), MemOk s → calm s →
    let ev (u : State) (at_ : Nat) (e : Act) : Prop := ∃ x ∈ u.agenda, x.at_ = at_ ∧ x.act = e
    (∀ (p : Nat) (o : Org), p < 8 → coreOk o.core = true → o.berth < 16 →
      (∀ dir place fmt planes rows cols stride sa sb sc h win id, ∃ u,
        exec (.courierRequestAccept p o (.copy dir place fmt planes rows cols stride sa sb sc h win id)) s = .next u ∧
          u.courier.next = s.courier.next + 1 ∧ u.mem = s.mem ∧
          ∃ c, u.copy? s.courier.next = some c ∧ c.org = o ∧ c.part = p ∧ c.id = id ∧ c.place = place ∧ c.sa = sa ∧ c.sb = sb ∧ c.sc = sc) ∧
      (∀ va entry idx, entry.getLsbD 4 = false → entryValid entry = false →
        ∃ u, exec (.courierRequestAccept p o (.tlbw va entry idx)) s = .next u ∧ u.mem = s.mem ∧
          (u.courier.tlb.find? ((s.tlbShare p).1 + idx)).map (·.entry) = some (entry &&& ~~~16)) ∧
      (∀ va, ∃ u, exec (.courierRequestAccept p o (.tlbi .all va)) s = .next u ∧ u.mem = s.mem ∧
        ∀ e ∈ u.courier.tlb, s.inShare p e.1 = true → entryValid e.2.entry = false) ∧
      (∀ copy core ab, s.courier.copies = [] → exec (.courierRequestAccept p o (.res copy core ab)) s = .next s)) ∧
    (∀ n : Nat, s.copy? n = none → s.courier.side = [] → exec (.translationMiss n) s = .next s) ∧
    (∀ (n : Nat) c v, s.copy? n = some c → c.miss = some v → s.courier.side = [] → (s.part c.part).msgs = [] →
      ∃ u, exec (.translationMiss n) s = .next u ∧ u.mem = s.mem ∧ ∃ m, (u.part c.part).msgs = [m] ∧ m.sv = false ∧ m.about = v ∧
        m.word = 2 ^ 16 * v + 2 ^ 49) ∧
    (∀ (n g : Nat) (b : Beat), b.dtier < 6 → b.dpos < 16 →
      ∃ u, exec (.courierInboundBeat n g b) s = .next u ∧ u.hall.sent = some s.acc ∧ ev u (s.acc + 10) (.aux (.courierPut n b)) ∧ u.mem = s.mem) ∧
    (∀ (n g : Nat) (b : Beat) c, b.src < 6 → s.copy? n = some c →
      ∃ u, exec (.courierOutboundBeat n g b) s = .next u ∧ u.hall.sent = some s.acc ∧ ev u (s.acc + 6) (.row (.farMemoryAccess n g true)) ∧
        (u.copy? n).map (·.got) = some (c.got ++ [(g, b.data, b.aop)]) ∧ u.mem = s.mem) ∧
    (∀ (n g : Nat) c data psn pa, s.copy? n = some c → State.cutOff c g = false → c.held = none → s.farBlocked n c pa = false →
      c.got.find? (fun e => e.1 = g) = some (g, data, psn) →
      c.isHall = false → (s.copyXlate n c (c.segAt g).va).1 = .hit pa →
      ∃ u, exec (.farMemoryAccess n g true) s = .next u ∧ Stores s u (farKey pa) 64 data (2 ^ 64 - 1)) ∧
    (∀ (n g : Nat), s.courier.copies = [] → ∀ wr, exec (.farMemoryAccess n g wr) s = .next s) ∧
    (∀ (p vpn pa : Nat) e, p < 8 → s.courier.side = [e] → e.part = p → e.va / 2 ^ 16 = vpn → s.translate p e.va true = .hit pa →
      (∀ c, s.copy? e.copy = some c → s.farBlocked e.copy c pa = false) →
      ∃ u, exec (.sideLogReplay p vpn) s = .next u ∧ u.courier.side = [] ∧ Stores s u (farKey pa) 64 e.data (2 ^ 64 - 1)) ∧
    (∀ (n f row col : Nat) c, s.copy? n = some c → c.ended = false → c.held = none → c.rc = none → c.stop = none →
      let seg := ((List.range c.nsegs).find? fun i => (c.segAt i).row = row && (c.segAt i).col = col).getD c.next
      let now : Prop := f = 8 ∨ f = 10 ∨ (seg ≤ c.next ∧ ∀ i ∈ c.flying, seg ≤ i)
      ∃ u c', exec (.copyFaultStop n f row col) s = .next u ∧ u.mem = s.mem ∧ u.copy? n = some c' ∧
        ((s.part c.part).row.a40 = true → f ≤ 6 → c'.ended = false ∧ c'.held = some (seg, none) ∧ c'.fcode = f) ∧
        ((s.part c.part).row.a40 = false → f = 1 → c'.ended = true ∧ c'.fcode = 1 ∧ c'.got = [] ∧
          ∃ first, c'.coord = (c.segAt first).row + 2 ^ 16 * (c.segAt first).col ∧ (first = seg ∨ first ∈ c.flying ∨ ∃ g ∈ c.buf, first = g.1) ∧
            first ≤ seg ∧ (∀ i ∈ c.flying, first ≤ i) ∧ ∀ g ∈ c.buf, first ≤ g.1) ∧
        ((s.part c.part).row.a40 = false ∨ 6 < f → f ≠ 1 →
          (now → c'.ended = true ∧ c'.fcode = f ∧ c'.coord = row + 2 ^ 16 * col ∧ c'.got = []) ∧
          (¬now → c'.ended = false ∧ c'.stop = some (seg, f, row, col) ∧ c'.next = c.next ∧ ∀ g ∈ c'.got, g.1 < seg))) ∧
    (∀ (n : Nat) c r, s.copy? n = some c → c.rc = some r → s.tierAway (tierOf c.org.core) = false → coreOk c.org.core = true →
      let q := s.ring c.org.core c.ringNo
      q.base + 32 * r.unit + 32 * r.n ≤ 2 ^ 19 →
      ∃ u, exec (.receiptWrite n false) s = .next u ∧
        Stores s u (wsKey c.org.core (q.base + 32 * r.unit)) (32 * r.n) (s.receiptWords c r.n) (2 ^ (32 * r.n) - 1)) ∧
    (∀ (n : Nat) (pad : Bool), s.copy? n = none → exec (.receiptWrite n pad) s = .next s)

/-! ## Journeys (18 R326 to R340) -/

/-- 18 R336 to R339: JYLD is a commit point and stops its berth at issue, in the lower slot of a pair after the other word; JBUD lands what is left of the window, the journey stamp or the run; PREQ.stop and
PREQ.rel land the set they act on, and act 128 cycles later.
The model's choice (log 44; R337 gives only the trap cycle): JYLD in the lower slot of a pair stops the berth after the other word. -/
def Obligations.JourneyInstructionsComplete : Prop :=
  ∀ (s : State) (h : Hd) (d a b : SReg),
    let at128 (u : State) (e : Act) : Prop := ∃ x ∈ u.agenda, x.at_ = s.acc + 128 ∧ x.act = e
    (ready h [] s = true → ∀ p j, s.me.journey = some (p, j) →
      let x := s.journey p j
      (∃ u, exec (.jyld h) s = .next u ∧ u.me.wpc = s.me.pc ∧ (s.words = [] → u.me.run = 0) ∧
        (s.words ≠ [] → u.me.run = s.me.run ∧ ∃ e ∈ u.agenda, e.at_ = s.acc ∧ e.act = .aux (.settle s.here .jyld))) ∧
      (∃ u, auxEvent (.settle s.here .jyld) s = u ∧ u.me.run = 0) ∧
      (∀ r, s.journeyRow p j = some r →
        exec (.jbud h 0 d) s = .next (s.landS (s.acc + 16) d (BitVec.ofNat 64 (r.start + r.budget - s.ttcOf s.cur.core)))) ∧
      exec (.jbud h 1 d) s = .next (s.landS (s.acc + 16) d (x.jstamp.setWidth 64)) ∧
      exec (.jbud h 2 d) s = .next (s.landS (s.acc + 16) d (BitVec.ofNat 64 (x.runs % 2 ^ 32 + 2 ^ 32 * x.pidx + 2 ^ 34 * j)))) ∧
    (ready h [] s = true → s.me.journey = none → ∀ f, exec (.jbud h f d) s = .next (s.landS (s.acc + 16) d 0)) ∧
    (ready h [.s a, .s b] s = true → ∀ c, s.physCore s.myPart ((s.sreg a).toNat % 128) = some c →
      (∀ i, i < 16 → (s.sreg b).getLsbD i = true → (s.berth c i).journey = none) →
      ∃ m r : BitVec 16, (∀ i, i < 16 → m.getLsbD i = ((s.sreg b).getLsbD i && (s.shown c i).run != 0)) ∧
        (∀ i, i < 16 → r.getLsbD i = ((s.sreg b).getLsbD i && (s.berth c i).pstop)) ∧
        exec (.preqStop h d a b) s =
          .next ((s.landS (s.acc + 16) d (m.setWidth 64)).schedAux (s.acc + 128) phSample none (.preqStop c m)) ∧
        ∃ u, exec (.preqRel h d a b) s = .next u ∧ u.mem = s.mem ∧
          (∃ x ∈ u.agenda, x.at_ = s.acc + 16 ∧ x.act = .row (.landing { org := s.here, dests := [.s d (r.setWidth 64)], flags := 0 })) ∧
          ∀ i, i < 16 → (s.sreg b).getLsbD i = true → at128 u (.row (.berthRelease ⟨c, i⟩)))

/-- 18 R328, R329, R331 to R333: a window that opens with no run parked starts the journey fresh on its first placement, with its budget's end on the
agenda; a budget's end begins the park of a journey that runs; the parked cycle writes the save header; a carry starts with its first beat. -/
def Obligations.JourneyEventsComplete : Prop :=
  ∀ (s : State) (p j : Nat), p < 8 → j < 16 →
    let x := s.journey p j
    (s.activeRow p j = none → exec (.journeyWindowOpen p j) s = .next s) ∧
    (∀ r i c, s.activeRow p j = some r → x.state = 0 → s.placementOf p r 0 = some (i, c) → s.ttcOf c = r.start → (s.tier (tierOf c)).power.state < 2 →
      ∃ u, exec (.journeyWindowOpen p j) s = .next u ∧ (u.journey p j).state = 1 ∧ (u.journey p j).runs = 0 ∧ (u.journey p j).core = some c ∧
        u.itcOf (u.journey p j).itc = 0 ∧ (∀ b, b < 16 → r.berths.getLsbD b = true → (u.berth c b).run = 1 ∧ (u.berth c b).pc = (s.berth c b).entry) ∧
        (∃ e ∈ u.agenda, e.at_ = s.acc + r.budget ∧ e.act = .row (.budgetEnd p j)) ∧ u.mem = s.mem) ∧
    (x.state ≠ 1 → exec (.budgetEnd p j) s = .next s) ∧
    (∀ r c, s.activeRow p j = some r → x.state = 1 → x.failed = false → s.ended.contains (.journey p j) = false → x.core = some c →
      ∃ u, exec (.budgetEnd p j) s = .next u ∧ (u.journey p j).state = 2 ∧ (u.journey p j).tiles = rowTiles r ∧
        (∃ e ∈ u.agenda, e.at_ = s.acc ∧ e.act = .aux (.journeySave p j)) ∧ u.mem = s.mem) ∧
    (x.state ≠ 2 → ∃ u, exec (.journeyParked p j) s = .next u ∧ u.parts = s.parts ∧ u.cores = s.cores ∧ u.mem = s.mem) ∧
    (∀ r c, MemOk s → s.activeRow p j = some r → x.state = 2 → x.failed = false → s.ended.contains (.journey p j) = false → x.core = some c →
      coreOk c = true → r.saveoff + 0x1040 ≤ 2 ^ 24 →
      ∃ u, exec (.journeyParked p j) s = .next u ∧ (u.journey p j).state = 3 ∧
        Memory.read u.mem (roomKey c r.saveoff) 64 = s.headOf p j c r % 2 ^ 512) ∧
    (∀ i c, s.carryNext p j = some (j, i, c) →
      exec (.journeyCarry p j) s = .next (s.schedAux s.acc phSample none (.carryBeat p j c 0))) ∧
    (s.carryNext p j = none → exec (.journeyCarry p j) s = .next s)

/-! ## The redundant pair (23 R395 to R411) -/

/-- 23 R405 to R409: PSEND with the pair on and its partner there sends its beat to the hall; PDIG.add begins to read its lines; PDIG.rd, PROLE and PTAKE
land their word, PTAKE.take from a standby and PTAKE.resign from a primary with a fit partner ask for the roles to change. PSEND is a commit
point. With EN = 0 the role word has ROLE 0 and GATES 1 (R406). -/
def Obligations.PairInstructionsComplete : Prop :=
  ∀ (s : State) (h : Hd) (wk : Bool) (d a b c : SReg) (v : VReg) (q : BitVec 2) (it : Itin) (nd : BitVec 8) (x : BitVec 48),
    let o := s.here
    let p := s.myPart
    let y := s.pair p
    let core := s.cur.core
    let cv := (s.sreg c).toNat
    let send (kind form data : Nat) (psn : Bool) : State := s.schedRow (s.acc + 2) phSample (some o) (.stackBeat
      { kind := kind, src := tierOf core, dtier := 6, dpos := 1, off := 0, aop := 0, psn := psn, data := data, org := some o, part := p,
        dreg := none, tries := 1, copy := 0, seg := 0,
        req := some (.psend ((s.sreg a).toNat + 32 * nd.toNat) (cv % 8) (cv / 8 % 16) it (form + 2 * wk.toNat) (cv / 256 % 16)) })
    (y.en = true → y.peer = true → s.physTier p (cv % 8) ≠ none → s.slotCheck = none →
      (ready h [.s a, .s c, .s b] s = true → exec (.psend h wk (.d b) a c it nd) s = .next (send 4 0 (s.sreg b).toNat false).commit) ∧
      (ready h [.s a, .s c, .v v, .tag v] s = true → exec (.psend h wk (.v v q) a c it nd) s =
        .next (send 5 1 ((s.vreg v).toNat / 2 ^ (512 * q.toNat) % 2 ^ 512) (s.vtag v = 15)).commit)) ∧
    (ready h [.s a, .s b] s = true →
      let ea := (s.sreg a + BitVec.ofInt 64 x.toInt).toNat
      let n := (s.sreg b).toNat
      let k := s.core core
      ea < 2 ^ 24 → s.inDesig p (roomKey core ea) n = true → n % 64 = 0 → 64 ≤ n → n ≤ 4096 → ea % 64 = 0 → k.foldEnd ≤ s.acc →
      exec (.pdigAdd h a b x) s = .next ((s.setCore core { k with foldEnd := s.acc + 20 + n / 64 }).schedAux (s.acc + 20) phSample (some o)
        (.pdigLine o ea n 0 [] false))) ∧
    (ready h [] s = true →
      let landed := s.landS (s.acc + 16) d (BitVec.ofNat 64 (s.roleWord p))
      exec (.pdigRd h d) s = .next (s.landS (s.acc + 16) d (s.core core).dacc) ∧
      exec (.prole h d) s = .next landed ∧
      (y.en = false → s.roleWord p % 4 = 0 ∧ (s.roleWord p).testBit 4 = true) ∧
      (y.role ≠ 2 → exec (.ptakeTake h d) s = .next landed) ∧
      (y.role = 2 → ∃ u, exec (.ptakeTake h d) s = .next u ∧ (u.pair p).takeAt = some (s.gt + 552 * 180) ∧
        (∃ f, (u.pair p).sent = some f ∧ f.kind = 4 ∧ f.seq = y.seq) ∧ (u.pair p).role = 2 ∧ u.agenda = landed.agenda ∧ u.mem = s.mem) ∧
      (¬(y.role = 1 ∧ y.peer = true ∧ y.peerFit = true) → exec (.ptakeResign h d) s = .next landed) ∧
      (y.role = 1 → y.peer = true → y.peerFit = true → ∃ u, exec (.ptakeResign h d) s = .next u ∧
        (u.pair p).yieldAt = some (s.gt + 552 * 180, true) ∧ (∃ f, (u.pair p).sent = some f ∧ f.kind = 3 ∧ f.seq = y.seq) ∧
        (u.pair p).role = 1 ∧ u.agenda = landed.agenda ∧ u.mem = s.mem))

/-- 23 R395 to R404, R408: the events of the pair, with what each leaves: frames, their refusals and their deadlines; due instants; the decision
point, at which a fit standby that has missed a frame takes over and a primary that is to give way does; the digest's fold; the resync's lines.
The model's choices (log 47; R396 and R404 do not say them): a frame whose last sending can still arrive is not counted at its deadline, and a
line that the standby has written counts as sent there too. -/
def Obligations.PairEventsComplete : Prop :=
  ∀ (s : State) (p : Nat), p < 8 →
    let x := s.pair p
    (∀ (core : Nat) (data : List Word) (psn : Bool), coreOk core = true →
      let k := s.core core
      exec (.digestFold core data psn) s =
        .next (s.setCore core { k with dacc := data.foldl (fun c w => crc64 c (wordBytes w)) k.dacc, dpsn := k.dpsn || psn })) ∧
    (∀ f : PairFrame, f.part = p → badCopies f = 0 → (s.part p).row.valid = true → x.en = true →
      (f.kind = 1 → ∃ u, exec (.pairFrameReceive f) s = .next u ∧ (f.scn, f.mark) ∈ (u.pair p).hbGot ∧ (u.pair p).palarm = f.alarm ∧
        (u.pair p).peerFit = f.fit ∧ u.mem = s.mem) ∧
      (f.kind = 3 → ∃ u, exec (.pairFrameReceive f) s = .next u ∧ (u.pair p).resigned = true ∧ u.mem = s.mem) ∧
      (f.kind = 4 → x.role = 1 → ∃ u, exec (.pairFrameReceive f) s = .next u ∧ (u.pair p).yieldAt = some (s.gt, false) ∧ u.mem = s.mem) ∧
      (∀ k, MemOk s → s.portWrites = [] → f.kind = 6 → x.role = 2 → s.placeKey p f.a = some k →
        (∃ u, exec (.pairFrameReceive f) s = .next u ∧ u.mem = s.mem ∧
          ∃ e ∈ u.agenda, e.at_ = s.pairTurn k 64 s.acc ∧ e.act = .aux (.rsyPut k f.payload)) ∧
        Stores s (auxEvent (.rsyPut k f.payload) s) k 64 f.payload (2 ^ 64 - 1) ∧ k ∈ (auxEvent (.rsyPut k f.payload) s).rsySent)) ∧
    (∀ seq : Nat,
      (s.waitOf p seq = none → exec (.pairNackResend p seq) s = .next s ∧ exec (.pairFrameDeadline p seq) s = .next s) ∧
      (∀ w, s.waitOf p seq = some w →
        (s.gt < w.deadline → ∃ u, exec (.pairNackResend p seq) s = .next u ∧ (u.pair p).sent = some w.frame ∧
          (u.pair p).retry = min 255 (x.retry + 1) ∧ u.mem = s.mem) ∧
        (w.deadline ≤ s.gt → w.deadline < w.last + 552 * 180 → ∃ u, exec (.pairFrameDeadline p seq) s = .next u ∧ u.waitOf p seq = none ∧
          (u.pair p).lost = min 255 (x.lost + 1) ∧ u.mem = s.mem) ∧
        (w.last + 552 * 180 ≤ w.deadline → exec (.pairFrameDeadline p seq) s = .next s))) ∧
    (∀ (mark : Nat) (scn : BitVec 32),
      (x.en = false → ∀ dig, exec (.hbDue p mark dig scn) s = .next s) ∧
      (x.en = true → (scn, mark) ∈ x.hbGot → ∃ u, exec (.hbDue p mark false scn) s = .next u ∧ (u.pair p).peer = true ∧
        (u.pair p).hbmiss = x.hbmiss ∧ (scn, mark) ∉ (u.pair p).hbGot ∧ u.mem = s.mem) ∧
      (x.en = true → (scn, mark) ∉ x.hbGot → ∃ u, exec (.hbDue p mark false scn) s = .next u ∧ (u.pair p).peer = false ∧
        (u.pair p).miss = true ∧ (u.pair p).hbmiss = min (2 ^ 16 - 1) (x.hbmiss + 1) ∧ u.mem = s.mem)) ∧
    (∃ u, exec (.decisionPoint p) s = .next u ∧ (u.pair p).miss = false ∧ (u.pair p).resigned = false ∧ u.mem = s.mem ∧
      (x.role = 2 → x.en = true → x.fit = true → x.miss = true ∨ x.resigned = true →
        (u.pair p).role = 1 ∧ (u.pair p).gates = true ∧ (u.pair p).taken = true ∧ (u.pair p).rscn = s.hall.scn ∧
        ∀ t, s.leastTxoff p = some t → x.tdec ≤ t → 0 < s.seq.p → (u.pair p).passFrom = some s.hall.scn) ∧
      (∀ t fit, x.role = 1 → x.yieldAt = some (t, fit) → t ≤ s.gt →
        (u.pair p).role = 2 ∧ (u.pair p).gates = false ∧ (u.pair p).fit = fit ∧ (u.pair p).rscn = s.hall.scn) ∧
      (x.role = 2 → x.miss = false → x.resigned = false → x.takeAt = none → (u.pair p).role = 2) ∧
      (x.role = 1 → x.yieldAt = none → (u.pair p).role = 1 ∧ (u.pair p).gates = x.gates)) ∧
    (∀ line : Nat, ((s.rsyLines p)[line]? = none → exec (.rsyLineSend p line) s = .next s) ∧
      ∀ k, (s.rsyLines p)[line]? = some k → s.rsyNext p = some k →
        ∃ u, exec (.rsyLineSend p line) s = .next u ∧ k ∈ u.rsySent ∧ (s.badUnits = [] → u.mem = s.mem) ∧
          ∃ f, (u.pair p).sent = some f ∧ f.kind = 6 ∧
            ∀ i, i < 8 → s.tainted (k + 8 * i) 8 = false → f.payload / 2 ^ (64 * i) % 2 ^ 64 = s.readAs clsP (k + 8 * i) 8)

/-! ## Plans (18 R341 to R346) -/

/-- 18 R344: the plan port, by PLSTAT.STATE: an image is staged and its verification begins; the verification ends in state 2, or in 0 with
the error; ACTIVATE and STOP are asked for, to act at the next edge; a plan that the clock is too slow for gets error 0x06 (22 R383); the load
ends; ABORT cancels; the firmware sets a partition row that shares nothing
with another partition's.
The model's choices: the states 4 and 0 in which ABORT leaves PLSTAT, and the port that is closed while no firmware runs (log 45; R344 says
only that ABORT cancels states 1 to 3); a row that would share something is not set (log 29). -/
def Obligations.PlanEventsComplete : Prop :=
  ∀ (s : State) (p : Nat), p < 8 →
    let t := s.part p
    (∀ img : Plan,
      (s.boot.fw = none → exec (.plcmdStage p img) s = .next s) ∧
      (s.boot.fw ≠ none → t.plstat ≠ 1 → t.plstat ≠ 3 → t.activateReq = false →
        ∃ u, exec (.plcmdStage p img) s = .next u ∧ (u.part p).plstat = 1 ∧ (u.part p).plerr = t.plerr ∧ (u.part p).staged = some img ∧
          (u.part p).plan = t.plan ∧ u.mem = s.mem ∧
          ∃ e ∈ u.agenda, e.at_ = s.acc + Config.verifyDelay s.courier.work ∧ e.act = .aux (.planVerify p))) ∧
    (t.plstat ≠ 1 → exec (.planVerifyDone p) s = .next s) ∧
    (∀ pl, t.plstat = 1 → t.staged = some pl → ∃ u, exec (.planVerifyDone p) s = .next u ∧ u.mem = s.mem ∧
      (s.planErr p pl = 0 → (u.part p).plstat = 2 ∧ (u.part p).staged = some pl) ∧
      (s.planErr p pl ≠ 0 → (u.part p).plstat = 0 ∧ (u.part p).plerr = s.planErr p pl ∧ (u.part p).staged = none)) ∧
    (t.plstat ≠ 2 → exec (.plcmdActivate p) s = .next s) ∧
    (∀ pl, t.plstat = 2 → t.staged = some pl → ∃ u, exec (.plcmdActivate p) s = .next u ∧ u.mem = s.mem ∧ (u.part p).plstat = 2 ∧
      (s.tooSlow pl.fmin = true → (u.part p).plerr = 6 ∧ (u.part p).activateReq = t.activateReq) ∧
      (s.tooSlow pl.fmin = false → (u.part p).activateReq = true)) ∧
    (t.plstat ≠ 3 → exec (.planLoadDone p) s = .next s) ∧
    (∀ pl, t.plstat = 3 → t.staged = some pl → ∃ u, exec (.planLoadDone p) s = .next u ∧ (u.part p).loaded = true ∧ (u.part p).plstat = 3 ∧
      (u.part p).plan = t.plan ∧ (MemOk s → MemOk u)) ∧
    (1 ≤ t.plstat → t.plstat ≤ 3 → ∃ u, exec (.plcmdAbort p) s = .next u ∧ u.mem = s.mem ∧ (u.part p).staged = none ∧
      (u.part p).activateReq = false ∧ (t.running = true → (u.part p).plstat = 4) ∧ (t.running = false → t.plan = none → (u.part p).plstat = 0)) ∧
    (t.plstat = 0 ∨ 3 < t.plstat → exec (.plcmdAbort p) s = .next s) ∧
    (t.running = true → ∃ u, exec (.plcmdStop p) s = .next u ∧ (u.part p).stopReq = true ∧ (u.part p).running = true ∧ u.mem = s.mem) ∧
    (t.running = false → exec (.plcmdStop p) s = .next s) ∧
    (∀ r : PartRow, (s.boot.fw = none → exec (.partitionConfigure p r) s = .next s) ∧
      ((∃ e ∈ s.parts, e.1 ≠ p ∧ e.2.row.valid = true ∧ r.valid = true ∧ rowsMeet r e.2.row = true) → exec (.partitionConfigure p r) s = .next s) ∧
      (s.boot.fw ≠ none → (r.valid = true → ∀ e ∈ s.parts, e.1 ≠ p → e.2.row.valid = true → rowsMeet r e.2.row = false) →
        ∃ u, exec (.partitionConfigure p r) s = .next u ∧ (u.part p).row = r ∧ u.mem = s.mem))

/-! ## Clock, power, reset, boot, fuses and attestation (22 R381 to R394) -/

/-- 22 R381 to R394: requests for a clock step and their rail ramps; undervolting; the thermal samples, of which a trip resets the package; RESET_N,
power-up and the loss of supplies; the boot ROM by BOOTSEL, a host's image, fuses; the attestation report; PPS_OUT.
The model's choices: RESET_N leaves memory and the fuses (log 1); no clock runs from power-up or a loss of supplies on until RESET_N, and
fuses are blown only with firmware running (log 48); the undervolting's count starts again at each step (log 30); what a SHA-384 gives (log 9). -/
def Obligations.PowerAndBootEventsComplete : Prop :=
  ∀ s : State,
    let quiet (l : List Nat) : Prop := l.length = 25 ∧ ∀ k, k < 25 → l.getD k 0 < (s.thermOf k).twarn ∧ l.getD k 0 < (s.thermOf k).ttrip
    (∀ v : Word, let n := v.toNat % 8
      (5 ≤ n → exec (.freqreqWrite v) s = .next s) ∧
      (n < 5 → s.freq.act ≠ none → exec (.freqreqWrite v) s = .next { s with freq := { s.freq with queue := some n } }) ∧
      (n < 5 → s.freq.act = none → s.fMin < n → exec (.freqreqWrite v) s = .next { s with freq := { s.freq with fhold := true } }) ∧
      (n < 5 → s.freq.act = none → n ≤ s.fMin → s.freq.tcap = [] → s.freq.cur < n →
        exec (.freqreqWrite v) s = .next { s with freq := { s.freq with act := some (n, false) } }) ∧
      (n < 5 → s.freq.act = none → n ≤ s.fMin → s.freq.tcap = [] → n < s.freq.cur →
        ∃ u, exec (.freqreqWrite v) s = .next u ∧ u.freq.act = some (n, false) ∧ u.freq.cur = s.freq.cur ∧ u.mem = s.mem ∧
          u.freq.rampEnd = some (s.gt + 552 * 8000 * (s.freq.cur - n)))) ∧
    (∀ t, s.freq.rampEnd = some t →
      (s.gt < t → exec .railRampComplete s = .next s) ∧
      (t ≤ s.gt → ∃ u, exec .railRampComplete s = .next u ∧ u.mem = s.mem ∧
        (∀ n, s.freq.act = some (n, false) → u.freq.rampEnd = none ∧ u.freq.act = some (n, false)) ∧
        (∀ n, s.freq.act = some (n, true) → s.freq.queue = none → u.freq.rampEnd = none ∧ u.freq.act = none))) ∧
    (∀ k : Nat, k < 24 →
      let c := s.cluster k
      (s.boot.fw ≠ none → s.corrections k = 0 → c.ofsAt + 10000 ≤ s.scans → c.ofs < 12 →
        ∃ u, exec (.undervoltAdjust k true) s = .next u ∧ (u.cluster k).ofs = c.ofs + 1 ∧ u.mem = s.mem) ∧
      (s.boot.fw ≠ none → 16 < s.corrections k → 0 < c.ofs →
        ∃ u, exec (.undervoltAdjust k false) s = .next u ∧ (u.cluster k).ofs = c.ofs - 1 ∧ u.mem = s.mem) ∧
      ∀ lower : Bool, s.undervoltDue k ≠ some lower → exec (.undervoltAdjust k lower) s = .next s) ∧
    (∀ temps : List Nat,
      (quiet temps → ∃ u, exec (.thermalSample temps) s = .next u ∧ u.mem = s.mem ∧ u.acc = s.acc ∧ u.aon = s.aon ∧
        ∀ k, k < 25 → (u.thermOf k).temp = temps.getD k 0 ∧ (u.thermOf k).warn = false) ∧
      (temps.length = 25 → (∃ k, k < 25 ∧ (s.thermOf k).ttrip ≤ temps.getD k 0) →
        ∃ u, exec (.thermalSample temps) s = .next u ∧ u.aon.tripped = true ∧ u.acc = 0 ∧ u.cores = [] ∧ u.mem = s.mem)) ∧
    (s.aon.tripped = false → ∃ u, exec .reset s = .next u ∧ u.aon.powered = true ∧ u.acc = 0 ∧ u.cores = [] ∧ u.clusters = [] ∧ u.tiers = [] ∧
      u.parts = [] ∧ u.agenda = [] ∧ u.freq = {} ∧ u.mem = s.mem ∧ u.fuses = s.fuses ∧ u.gt = s.gt) ∧
    (s.aon.tripped = true →
      ((∃ k, k < 25 ∧ (s.thermOf k).twarn ≤ (s.thermOf k).temp) → exec .reset s = .next s) ∧
      ((∀ k, k < 25 → (s.thermOf k).temp < (s.thermOf k).twarn) → ∃ u, exec .reset s = .next u ∧ u.aon.tripped = false ∧ u.acc = 0 ∧
        u.cores = [] ∧ u.mem = s.mem ∧ u.fuses = s.fuses)) ∧
    (∃ u, exec .aonPowerUp s = .next u ∧ u.gt = 0 ∧ u.aon.powered = false ∧ u.mem = s.mem) ∧
    exec .supplyLoss s = .next { s with aon := { s.aon with powered := false } } ∧
    (∀ (img app : Option FwImage) (found : List Repair), let good (i : FwImage) : Prop := i.sigOk = true ∧ i.keyOk = true ∧ s.fuses.fw ≤ i.version
      ∃ u, exec (.boot ⟨img, app, found⟩) s = .next u ∧ (found = [] → u.mem = s.mem) ∧ u.fuses = s.fuses ∧
        (s.boot.bootsel % 4 = 1 → u.boot.fw = none ∧ u.boot.waiting = true) ∧
        (s.boot.bootsel % 4 = 3 → u.boot.fw = none ∧ u.boot.waiting = false) ∧
        (s.boot.bootsel % 2 = 0 →
          (∀ i, img = some i → good i → u.boot.fw = some i ∧ u.boot.err = false ∧ u.aon.gtOn = true ∧
            (∀ a, app = some a → (good a → u.boot.app = some a) ∧ (¬good a → u.boot.app = none))) ∧
          (∀ i, img = some i → ¬good i → u.boot.fw = none ∧ u.boot.err = true) ∧
          (img = none → u.boot.fw = none ∧ u.boot.err = true))) ∧
    (∀ i : FwImage,
      (s.boot.waiting = false → exec (.hostBootImageWrite i) s = .next s) ∧
      (s.boot.waiting = true → ∃ u, exec (.hostBootImageWrite i) s = .next u ∧ u.boot.waiting = false ∧ (s.boot.found = [] → u.mem = s.mem) ∧
        (i.sigOk = true → i.keyOk = true → s.fuses.fw ≤ i.version → u.boot.fw = some i ∧ (s.boot.appImg = none → u.boot.app = none)) ∧
        (¬(i.sigOk = true ∧ i.keyOk = true ∧ s.fuses.fw ≤ i.version) → u.boot.fw = s.boot.fw ∧ u.boot.err = true))) ∧
    (∀ (field n : Nat), exec (.fuseBlow field n false) s = .next s ∧ (s.boot.fw = none → exec (.fuseBlow field n true) s = .next s)) ∧
    (∀ (n : Nat) (i : FwImage), s.boot.fw = some i → n ≤ 64 →
      exec (.fuseBlow 1 n true) s = .next { s with fuses := { s.fuses with plan := max s.fuses.plan n } } ∧
      exec (.fuseBlow 2 n true) s = .next { s with fuses := { s.fuses with test := max s.fuses.test n } } ∧
      (n ≤ i.version → exec (.fuseBlow 0 n true) s = .next { s with fuses := { s.fuses with fw := max s.fuses.fw n } }) ∧
      (i.version < n → exec (.fuseBlow 0 n true) s = .next s)) ∧
    (∀ p : Nat, p < 8 →
      (∀ v : Word, v ≠ 1 → exec (.attcmdWrite p v) s = .next s) ∧
      ((s.part p).attcmd = 1 → exec (.attcmdWrite p 1) s = .next s) ∧
      ((s.part p).attcmd ≠ 1 → ∃ u, exec (.attcmdWrite p 1) s = .next u ∧ (u.part p).attcmd = 1 ∧ u.mem = s.mem ∧
        ∃ e ∈ u.agenda, e.act = .aux (.attest p)) ∧
      ((s.part p).attcmd ≠ 1 → exec (.attestationReportDone p) s = .next s) ∧
      ((s.part p).attcmd = 1 → ∃ u, exec (.attestationReportDone p) s = .next u ∧ (u.part p).attcmd = 2 ∧ u.mem = s.mem ∧
        (u.part p).report % 2 ^ 32 = 0x31525441 ∧ (u.part p).report / 2 ^ 32 % 2 ^ 8 = 1 ∧ (u.part p).report / 2 ^ 40 % 2 ^ 8 = p ∧
        (u.part p).report / 2 ^ 128 % 2 ^ 64 = s.gt / 552 % 2 ^ 64 ∧ (u.part p).report / 2 ^ 256 % 2 ^ 384 = (s.part p).nonce % 2 ^ 384 ∧
        (∀ i, s.boot.fw = some i → (u.part p).report / 2 ^ 640 % 2 ^ 384 = (Config.fwDigest i).toNat) ∧
        ∀ pl, (s.part p).plan = some pl → (u.part p).report / 2 ^ 1024 % 2 ^ 384 = (Config.planDigest pl).toNat)) ∧
    exec .ppsPulse s = .next { s with aon := { s.aon with pps := s.gt / (552 * 10 ^ 9) } }

/-! ## Scrub, repair, test packages, freeze and the hall's harts (13 R276, 18 R420, 20 R357, R365 to R372) -/

/-- 13 R276, 18 R420, 20 R357, R365 to R368: a scrubbed line with no failing word stays, one with a failing word is written back in the next cycle; the
firmware's repairs wait for the next edge; a test package holds its target until its vectors are done; a freeze stops the clocks 8 cycles
after its request; the harts' stores take effect in their windows; one that no row of R420's map names, or that names a read-only register, is counted and
discarded, and one to an unassigned offset of a register window is ignored; register accesses and those of a control core's own memory
are made in the order in which they come, a load of another place is sampled with its cycle's samples, or after a store that comes before it.
The model's choices: which line of an array the scrub reads (log 1); that a store of another hart to a register of the management core is
ignored (log 31); the widths of a common-room store (log 39); that register stores have 8 bytes, and which records the output view writes (log
50); a control core's own memory as a space of its own (log 32). -/
def Obligations.ReliabilityAndHartEventsComplete : Prop :=
  ∀ s : State,
    let discard := State.discardStore s
    (∀ a : ScrubArr, (match a with | .room c => c < 96 | .bstore k => k < 24 | .hall => True | .replica t => t < 7) →
      let key := (State.scrubSpan a).1 + 64 * (s.acc / 256 % (State.scrubSpan a).2)
      let bad := (s.lineEcc key).any fun e => e.2 = .corr || e.2 = .unc
      (bad = false → exec (.patrolScrub a) s = .next s) ∧
      (bad = true → ∃ u, exec (.patrolScrub a) s = .next u ∧ key ∈ u.scrubs ∧ u.mem = s.mem ∧
        ∃ e ∈ u.agenda, e.at_ = s.acc + 1 ∧ e.act = .aux (.scrubBack key))) ∧
    (∀ c : Nat, c < 96 → ∃ u, exec (.firmwareRepairAction (.mapOut c)) s = .next u ∧ c % 4 ∈ (u.cluster (clusterOf c)).mapOut ∧
      (u.cluster (clusterOf c)).outsite = (s.cluster (clusterOf c)).outsite ∧ u.mem = s.mem) ∧
    (∀ t m d : Nat, t < 6 → m < 16 → d < 5 → ∃ u, exec (.firmwareRepairAction (.clearLink t m d)) s = .next u ∧ u.mem = s.mem ∧
      (u.tier t).closing.get 0 m = (s.tier t).closing.get 0 m ||| BitVec.ofNat 5 (2 ^ d) ∧ (u.tier t).closed = (s.tier t).closed) ∧
    (∀ k : Nat, k < 24 → ∃ u, exec (.firmwareRepairAction (.degrade k)) s = .next u ∧ (u.cluster k).degrade = true ∧
      (u.cluster k).health = (s.cluster k).health ∧ u.mem = s.mem) ∧
    (∀ (t m : Nat) (link : BitVec 5) (turn : BitVec 16), t < 6 → m < 16 →
      ∃ u, exec (.firmwareRepairAction (.gazWrite t m link turn)) s = .next u ∧ u.mem = s.mem ∧
        (u.tier t).gazWrites.find? m = some (link, turn) ∧ (u.tier t).closed = (s.tier t).closed ∧ (u.tier t).turns = (s.tier t).turns) ∧
    (∀ code : Nat, (s.pfailDue = false → exec (.firmwareRepairAction (.pfail code)) s = .next s) ∧
      (s.pfailDue = true → ∃ u, exec (.firmwareRepairAction (.pfail code)) s = .next u ∧ u.test.pfailReq = s.test.pfailReq ++ [code] ∧
        u.test.pfail = s.test.pfail ∧ u.mem = s.mem)) ∧
    (∀ t : TestPkg,
      (s.test.pkg ≠ none ∨ t.headOk = false ∨ t.sigOk = false ∨ t.version < s.fuses.test → exec (.testPackageApply t) s = .next s) ∧
      (s.test.pkg = none → t.headOk = true → t.sigOk = true → s.fuses.test ≤ t.version → t.target = 2 → t.unit < 24 → (s.cluster t.unit).outsite = 7 →
        exec (.testPackageApply t) s = .next { s with test := { s.test with pkg := some t } }) ∧
      (s.test.pkg = some t → ∃ u, exec .testPackageDone s = .next u ∧ u.test.pkg = none ∧ u.test.pfail = s.test.pfail ∧ u.mem = s.mem)) ∧
    (s.test.pkg = none → exec .testPackageDone s = .next s) ∧
    (∀ src, ∃ u, exec (.freezeRequest src) s = .next u ∧ u.mem = s.mem ∧
      (s.aon.freezeAt = none → u.aon.freezeAt = some (s.acc + 8)) ∧ ∀ t, s.aon.freezeAt = some t → u.aon.freezeAt = some (min t (s.acc + 8))) ∧
    (∀ (h : Hart) (off : Nat) (v : Word),
      (off < 0x100000 → off % 8 ≠ 0 → exec (.hallRegisterWrite ⟨h, off, .bus⟩ v) s = .next s) ∧
      (0x120000 ≤ off ∨ 0x100000 ≤ off ∧ off < 0x110000 → exec (.hallRegisterWrite ⟨h, off, .bus⟩ v) s = .next discard) ∧
      exec (.hallRegisterWrite ⟨h, 0x90000, .bus⟩ v) s = .next discard ∧
      (∀ p : Nat, p < 8 → exec (.hallRegisterWrite ⟨h, p * 0x10000 + 0x20, .bus⟩ v) s = .next s) ∧
      (0xB0000 ≤ off → off < 0x100000 → exec (.hallRegisterWrite ⟨h, off, .bus⟩ v) s = .next s) ∧
      exec (.hallRegisterWrite ⟨.mgmt, 0x90008, .bus⟩ v) s = exec (.freqreqWrite v) s ∧
      (h ≠ .mgmt → exec (.hallRegisterWrite ⟨h, 0x90008, .bus⟩ v) s = .next s ∧ exec (.hallRegisterWrite ⟨h, 0x80000, .bus⟩ v) s = .next s) ∧
      (∀ p : Nat, p < 8 →
        (v.toNat % 16 = 2 → exec (.hallRegisterWrite ⟨h, p * 0x10000 + 0x10, .bus⟩ v) s = exec (.plcmdActivate p) s) ∧
        (v.toNat % 16 = 3 → exec (.hallRegisterWrite ⟨h, p * 0x10000 + 0x10, .bus⟩ v) s = exec (.plcmdAbort p) s) ∧
        (v.toNat % 16 = 4 → exec (.hallRegisterWrite ⟨h, p * 0x10000 + 0x10, .bus⟩ v) s = exec (.plcmdStop p) s) ∧
        exec (.hallRegisterWrite ⟨h, p * 0x10000 + 0xF030, .bus⟩ v) s = exec (.attcmdWrite p v) s ∧
        exec (.hallRegisterWrite ⟨h, p * 0x10000 + 0x18, .bus⟩ v) s = .next discard ∧
        ∃ u, exec (.hallRegisterWrite ⟨h, p * 0x10000 + 0xE000, .bus⟩ v) s = .next u ∧ (u.pair p).en = v.getLsbD 0 ∧ (u.pair p).pairid = v.getLsbD 1 ∧
          (u.pair p).hbtol = v.toNat / 2 ^ 32 % 2 ^ 16 ∧ (u.pair p).tdec = v.toNat / 2 ^ 48 ∧ u.mem = s.mem)) ∧
    (discard.hall.hsdisc = min (2 ^ 32 - 1) (s.hall.hsdisc + 1) ∧ discard.mem = s.mem) ∧
    (∀ (h : Hart) (addr len : Nat) (sp : HartSpace),
      let l : HartLoad := ⟨h, addr, len, sp⟩
      let now : Prop := sp = .seq ∨ sp = .own ∨ (0x10000000 ≤ addr ∧ addr < 0x10100000)
      (now → exec (.counterReadClear l) s = .next (auxEvent (.hartLoad l) s)) ∧
      (¬now → exec (.counterReadClear l) s = .next (s.schedAux s.acc (if s.hartStoring then phEnd else phSample) none (.hartLoad l))) ∧
      (auxEvent (.hartLoad l) s).mem = s.mem ∧
      ∀ k, (sp = .bus ∧ s.hartKey addr = some k) ∨ (∃ n, sp = .own ∧ h = .control n ∧ addr < 2 ^ 18 ∧ k = ctlKey (n % 8) addr) → len = 1 →
        s.tainted k 1 = false → ((auxEvent (.hartLoad l) s).harts.get {} h.num).got = (s.readByte clsH k).toNat) ∧
    (∀ (n a : Nat) (v : Word), MemOk s → a + 8 ≤ 2 ^ 18 → ∃ u, exec (.hallRegisterWrite ⟨.control n, a, .own⟩ v) s = .next u ∧
      Stores s u (ctlKey (n % 8) a) 8 v.toNat 255) ∧
    (∀ (n a : Nat) (v : Word), 2 ^ 18 < a + 8 → exec (.hallRegisterWrite ⟨.control n, a, .own⟩ v) s = .next discard) ∧
    (auxEvent (.hartLoad ⟨.mgmt, 0x10080018, 8, .bus⟩) s).hall.hsdisc = 0 ∧
    ((auxEvent (.hartLoad ⟨.mgmt, 0x10080018, 8, .bus⟩) s).harts.get {} 12).got = s.hall.hsdisc % 2 ^ 64 ∧
    (∀ h, h ≠ .mgmt → (auxEvent (.hartLoad ⟨h, 0x10080018, 8, .bus⟩) s).hall.hsdisc = s.hall.hsdisc) ∧
    (∀ c : Nat, c < 96 → ((auxEvent (.hartLoad ⟨.mgmt, 0x10080200 + 8 * c, 8, .bus⟩) s).core c).stat = {}) ∧
    (∀ off len data : Nat,
      (len = 8 ∨ len = 64 → off % len = 0 → off + len ≤ 2 ^ 22 → ∃ u b, exec (.commonRoomWindowStore off len data) s = .next u ∧
        u.hall.queue = s.hall.queue ++ [b] ∧ b.off = off ∧ b.data = data % 2 ^ (8 * len) ∧ b.kind = (if len = 8 then 1 else 2) ∧ u.mem = s.mem) ∧
      (¬((len = 8 ∨ len = 64) ∧ off % len = 0 ∧ off + len ≤ 2 ^ 22) → exec (.commonRoomWindowStore off len data) s = .next discard) ∧
      exec (.outputViewStore off len data) s = .next (s.schedAux s.acc phWrite none (.viewStore off len data)) ∧
      (∀ p k r, MemOk s → s.ownedRecs off len = [(p, k, r)] → r.offset ≤ off → off + len ≤ r.offset + r.length → r.offset + r.length ≤ 2 ^ 16 →
        Stores s (auxEvent (.viewStore off len data) s) (s.latchKey p k r + (off - r.offset)) len data (2 ^ (8 * len) - 1)) ∧
      (0 < len → s.ownedRecs off len = [] → auxEvent (.viewStore off len data) s = discard) ∧
      (off + len ≤ 2 ^ 25 → len ≤ 64 → exec (.hallSramStore off len data) s = .next (s.schedAux s.acc phEnd none (.hallStore off len data)) ∧
        (MemOk s → Stores s (auxEvent (.hallStore off len data) s) (hallKey off) len data (2 ^ (8 * len) - 1))) ∧
      (2 ^ 25 < off + len ∨ 64 < len → exec (.hallSramStore off len data) s = .next discard))

/-! ## The scan edge, phase marks and rollback (06 R137, R139, R140, 20 R362 to R364) -/

/-- 06 R137, R139, R140, 16 R288, R291, 20 R364: in b_E the hall's SCN becomes SCN.next, and six cycles later every tier that looks for it, then the cores, take the
edge; a tier that has taken the edge beat gets TTC 0 and its SCN, one that has not misses it; a phase mark ends the phase of its core: SLIPPED
and the noted records are cleared, and after a slipped phase the noted records get VOID stamps, all ones; a rollback restores one line of a log
per cycle. -/
def Obligations.ScanEventsComplete : Prop :=
  ∀ s : State,
    let ev (u : State) (at_ : Nat) (e : Act) : Prop := ∃ x ∈ u.agenda, x.at_ = at_ ∧ x.act = e
    (∃ u, exec .scanEdge s = .next u ∧ u.hall.scn = s.seq.scnNext ∧ u.seq.last = s.seq.next ∧ u.seq.edgeAt = some (s.acc + 6) ∧
      u.seq.drops = (0, 0, 0, 0) ∧ u.acc = s.acc ∧ (∀ t, t < 6 → s.looksForEdge t = true → ev u (s.acc + 6) (.aux (.tierEdge t))) ∧ ev u (s.acc + 6) (.aux .coreEdge) ∧
      ((∀ p, p < 8 → (s.part p).loaded = false) → u.seq.next = s.seq.next + s.seq.per)) ∧
    (∀ t : Nat, t < 6 → let u := auxEvent (.tierEdge t) s
      (∀ copy b, (s.tier t).taken = some (copy, b) → (u.tier t).ttc = 0 ∧ (u.tier t).scn = copy.extractLsb' 128 32 ∧ (u.tier t).edge = copy ∧
        (u.tier t).edgeMissed = false ∧ u.mem = s.mem) ∧
      ((s.tier t).taken = none → (s.tier t).power.state < 2 → (u.tier t).ttc = (s.tier t).ttc ∧ (u.tier t).scn = (s.tier t).scn ∧
        (u.tier t).edgeMissed = true ∧ u.mem = s.mem)) ∧
    (∀ c k : Nat, coreOk c = true →
      ((s.core c).phases[k]? = none → exec (.phaseMark c k) s = .next s) ∧
      (∀ r, (s.core c).phases[k]? = some r → ∃ u, exec (.phaseMark c k) s = .next u ∧ (u.core c).slipped = false ∧ (u.core c).noted = [] ∧
        (u.core c).phaseStart = s.acc ∧
        ((s.core c).slipped = false → u.mem = s.mem) ∧
        ((s.core c).slipped = true → MemOk s → (∀ n ∈ (s.core c).noted, spaceOf (n + 0x28) = .room) →
          ∀ a, Memory.byte u.mem a =
            if ((s.core c).noted.any fun n => n + 0x28 ≤ a && a < n + 0x2C) = true then 0xFF else Memory.byte s.mem a))) ∧
    (∀ c : Nat, coreOk c = true →
      ((s.undoLogs.get [] c).find? s.restorable = none →
        exec (.rollback c) s = .next (s.schedRow (s.acc + 1) phRec none (.rollback c))) ∧
      (∀ e, MemOk s → (s.undoLogs.get [] c).find? s.restorable = some e → e.line < 2 ^ 18 →
        ∃ u, exec (.rollback c) s = .next u ∧ Stores s u (roomKey c (64 * e.line)) 64 e.old (2 ^ 64 - 1) ∧
          ev u (s.acc + 1) (.row (.rollback c))))

/-! ## Words: the decoder and the encoder, fetching and the checks before execution (02 R32 to R50) -/

/-- 02 R40 to R47: decoding the encoding of any legal instruction gives it back, with every operand at every value. -/
def Obligations.EncodeThenDecode : Prop :=
  ∀ i : Instr, i.isEvent = false → i.wordOk = true → ∃ w, encode i = some w ∧ decodeWord w = .ok i

/-- 02 R44, R50: a word that the decoder accepts is the one encoding of a legal instruction: no bit of it is ignored. -/
def Obligations.DecodeThenEncode : Prop :=
  ∀ (w : BitVec 96) (i : Instr), decodeWord w = .ok i → i.isEvent = false ∧ i.wordOk = true ∧ encode i = some w

/-- Words that the spec itself writes out, and the instructions it says they are (02 R50's example, 04 R88, 05 R106, 06 R150, 07 R170, R178, 10 R218,
11 R241, 12 R264, 13 R273, 15, 16 R308, 17 R325, 18 R340, 23 R409): one or two of every family of the opcode table; and words that the decoder refuses: an
unassigned opcode, and a bit in a field that the instruction does not use. -/
def Obligations.SpecWordsDecode : Prop :=
  decodeWord 0 = .ok (.nop ⟨false, false, 0⟩) ∧
  decodeWord 0x01D0A30E0000000000000000 = .ok (.add ⟨true, true, 2⟩ 5 6 7) ∧
  decodeWord 0x230185160000000000000000 = .ok (.clmul ⟨false, false, 0⟩ 12 10 11) ∧
  decodeWord 0x34080000000000000000000B = .ok (.br ⟨false, false, 1⟩ 1 3) ∧
  decodeWord 0x390008000000FFFFFFFFFFF9 = .ok (.loop ⟨false, false, 0⟩ 16 (-1) 1) ∧
  decodeWord 0x430060840207000000000000 = .ok (.vfma ⟨false, false, 0⟩ .dyn 2 3 1 (.vec 2)) ∧
  decodeWord 0x4F00200A0040000000000000 = .ok (.vcmp ⟨false, false, 0⟩ 0 0 1 0 (.bs 5)) ∧
  decodeWord 0x8000A2000030000000000040 = .ok (.ld ⟨false, false, 0⟩ 6 5 4 0x40) ∧
  decodeWord 0x920000000000000000000021 = .ok (.svc ⟨false, false, 0⟩ 0x21) ∧
  decodeWord 0x940000000000000000000108 = .ok (.fence ⟨false, false, 0⟩ 8 1) ∧
  decodeWord 0x960000000008000000000000 = .ok (.railDn ⟨false, false, 0⟩) ∧
  decodeWord 0xA28022800048000000000703 = .ok (.mmac ⟨true, false, 0⟩ 9 1 5 3 7) ∧
  decodeWord 0xB2480A840003800000002C00 = .ok (.send ⟨false, true, 1⟩ (.v 2 3) 21 ⟨true, 44⟩ 0) ∧
  decodeWord 0xC100C20E0008000000000100 = .ok (.sbamo ⟨false, false, 0⟩ 0 true 6 4 7 0 0x100) ∧
  decodeWord 0xD000A20C0030000000000040 = .ok (.pil ⟨false, false, 0⟩ (.scalar 6 5) 4 6 0x40) ∧
  decodeWord 0xD60125166000000000000306 = .ok (.cpy ⟨false, false, 0⟩ 0 9 10 11 12 6 3) ∧
  decodeWord 0xDE00C20A0000000000000000 = .ok (.preqStop ⟨false, false, 0⟩ 6 4 5) ∧
  decodeWord 0xE000040A4810000000000500 = .ok (.psend ⟨false, false, 0⟩ true (.d 5) 8 9 ⟨false, 5⟩ 0) ∧
  decodeWord 0x3F0000000000000000000000 = .error (.unassigned 0x3F) ∧
  decodeWord 0x930000000000000000000001 = .error (.unusedNotZero 0x93)

/-- 02 R41: every word undergoes the decode checks whatever its guard: two words that differ in their guard only fail in the same way; and a word
whose guard is false has no further effect, so that the state after it is the state before; its W bit still counts for its group. -/
def Obligations.FalseGuardHasNoEffect : Prop :=
  (∀ (s : State) (v w : BitVec 96), v.extractLsb' 87 9 = w.extractLsb' 87 9 → v.extractLsb' 0 83 = w.extractLsb' 0 83 →
    ∀ e, s.decodeChecked v = .error e ↔ s.decodeChecked w = .error e) ∧
  (∀ (i : Instr) (h : Hd) (s : State), i.head? = some h → readable s (.p h.gp) = true → s.guardVal h = false → exec i s = .next s) ∧
  ∀ l pc br g, checkLine l pc br = .ok g → g.wmark = g.words.any fun w => w.2.getLsbD 87

/-- 02 R50: in supervisor mode a legal word passes every check; in task mode a privileged opcode, or an MTC that names a privileged register, takes
the privilege trap, cause 0x16 SUB 0x01, and any other legal word passes. -/
def Obligations.PrivilegedWordsTrapInTaskMode : Prop :=
  ∀ (s : State) (w : BitVec 96) (i : Instr), decodeWord w = .ok i → dupNamed (s.dupOf s.wsBase) w = none → regNamedOk s.cur.berth w = true →
    let maj := (w.extractLsb' 88 8).toNat
    let priv : Prop := maj ∈ [0x8D, 0x91, 0xC3, 0xD9, 0xDA, 0xDB, 0xDE, 0xE3, 0xC8, 0xC9, 0x97] ∨ (maj = 0x8F ∧ regPrivileged (w.toNat % 256) = true)
    (s.cur.mode = true → s.decodeChecked w = .ok i) ∧
    (s.cur.mode = false → ¬priv → s.decodeChecked w = .ok i) ∧
    (s.cur.mode = false → priv → ∃ x, s.decodeChecked w = .error (0x16, 1, x))

/-- 02 R36, R39, R49: the next group in sequence; the end of line 4,095; fill lines, and what plan load leaves in the lines that the image does not
give; unassigned opcodes. -/
def Obligations.FetchFollowsTheLines : Prop :=
  (∀ l pc br g, checkLine l pc br = .ok g → g.words ≠ [] ∧
    let last := (groupOf (linePtmpl l) (pc % 8)).1 + g.words.length - 1
    (last < 4 → g.next = pc / 8 * 8 + last + 1) ∧ (4 ≤ last → g.next = (pc / 8 + 1) * 8)) ∧
  (∀ (s : State) (c b : Nat), (s.berth c b).pc = 0x8000 →
    ∃ e, s.fetch c b = .error e ∧ e.info.cause = 2 ∧ e.info.sub = 7 ∧ e.info.tinfo = 4095) ∧
  (∀ (s : State) (h : Hd) (loff : BitVec 45) (ts : Fin 5) (t : Nat), ready h [] s = true → s.cur.committed = false → s.lineTarget loff 0 = some t →
    ∃ u, exec (.br h loff ts) s = .next u ∧ u.me.pc = 8 * t + ts.val ∧ u.me.branch = some (s.cur.pc + s.cur.slot) ∧ u.agenda = s.agenda) ∧
  (∀ (s : State) (c b : Nat), let pc := (s.berth c b).pc
    pc < 0x8000 → (s.core c).refetch.contains (pc / 8) = false → (s.core c).deadLines.contains (pc / 8) = false →
    s.lineAt c (pc / 8) ≠ BitVec.allOnes 512 → lparBad (s.lineAt c (pc / 8)) = false → (∀ k, k < 5 → sparBad (s.lineAt c (pc / 8)) k = false) →
    s.fetch c b = checkLine (s.lineAt c (pc / 8)) pc (s.berth c b).branch) ∧
  (∀ (s : State) (c b : Nat), (s.berth c b).pc < 0x8000 →
    let line := (s.berth c b).pc / 8
    s.lineAt c line = BitVec.allOnes 512 → (s.core c).refetch.contains line = false → (s.core c).deadLines.contains line = false →
    ∃ e, s.fetch c b = .error e ∧ e.info.cause = 1 ∧ e.info.sub = 2 ∧ e.refetch = none) ∧
  (∀ (s : State) (c l line : Nat) (ls vs : List (Nat × BitVec 512)), MemOk s → coreOk c = true → line < 4096 →
    (∀ e ∈ ls ++ vs, e.1 / 4096 = l → e.1 % 4096 ≠ line) → (s.loadCode c l ls vs).lineAt c line = BitVec.allOnes 512) ∧
  ∀ (s : State) (w : BitVec 96),
    let maj := (w.extractLsb' 88 8).toNat
    maj = 0x3F ∨ (0x6D ≤ maj ∧ maj ≤ 0x7F) ∨ (0x99 ≤ maj ∧ maj ≤ 0x9F) ∨ (0xAA ≤ maj ∧ maj ≤ 0xAF) ∨ (0xB9 ≤ maj ∧ maj ≤ 0xBF) ∨
      (0xCA ≤ maj ∧ maj ≤ 0xCF) ∨ maj = 0xDF ∨ 0xE4 ≤ maj →
    s.decodeChecked w = .error (1, 0, (w.extractLsb' 88 8).setWidth 32) ∧
    ∀ (c b k : Nat) (g : Group) (pre post : List (Nat × BitVec 96)), g.words = pre ++ (k, w) :: post →
      (∀ e ∈ pre, ∃ i, (s.beginGroup c b g.next).decodeChecked e.2 = .ok i) →
      let t := s.issueGroup c b g
      t.words = [] ∧ t.cur.trapped = true ∧ t.agenda.all (fun e => s.agenda.contains e || e.org = none) = true ∧
        ((s.berth c b).intrap = false → (t.berth c b).pc = (s.core c).tvec ∧ (t.berth c b).intrap = true ∧ t.agenda = s.agenda ∧
          (MemOk s → coreOk c = true → (s.berth c b).wsp < 2 ^ 19 → (s.berth c b).wsp % 8192 = 0 →
            Memory.read t.mem (wsKey c (s.berth c b).wsp + 0x28) 8 = 1 + 2 ^ 32 * maj))

/-! ## A step (01 R23, 02 R34) -/

/-- 01 R23, 02 R34, R36: when nothing is due before the turns of this cycle, the next turn is a running berth's, its group is fetched and its words
pass the checks, one step runs the group: of one word, the step is exec of its instruction, at the state in which the berth's PC has gone to
the next group; of two words that take no trap, exec of the first and then of the second. -/
def Obligations.StepRunsDecodedInstruction : Prop :=
  ∀ (s : State) (k : Nat) (b : BId) (g : Group), s.words = [] → dueInput s.ticks s.inputs = none → s.running = true →
    s.agenda.head?.all (fun e => !(e.at_ < s.acc || (e.at_ = s.acc && e.ph < phTurn))) = true →
    nextTurn s s.turnCore (96 - s.turnCore) = some (k, .berthTurn b) → b.ok = true →
    let c := b.core
    let n := b.berth
    let x := s.berth c n
    x.endAt = none → x.held = [] → x.run = 1 → s.isGated c n = false → s.fetch c n = .ok g →
    let begun : State := s.beginGroup c n g.next
    let issued (v : State) (slot : Nat) (rest : List (Nat × Instr)) : Prop :=
      v.words = rest ∧ (∃ l, v.cur = { core := c, berth := n, pc := x.pc, next := g.next, wsp := x.wsp, mode := x.mode, slot := slot,
                                       late := l, prevPc := x.lastPc,
                                       intrap := x.intrap }) ∧
      (∀ e ∈ v.kept, ¬(e.core = c ∧ e.berth = n)) ∧
      v.me.pc = g.next ∧ v.me.branch = none ∧ v.me.lastPc = x.pc ∧ v.me.mode = x.mode ∧ v.mem = s.mem ∧ v.badUnits = s.badUnits ∧ v.psnUnits = s.psnUnits ∧
      v.acc = s.acc ∧ v.agenda = s.agenda ∧ v.inputs = s.inputs ∧ v.turnCore = k + 1 ∧ v.clusters = s.clusters ∧ v.tiers = s.tiers ∧ v.parts = s.parts
    (∀ w i, g.words = [(0, w)] → begun.decodeChecked w = .ok i → ∃ v, issued v 0 [] ∧ step s = exec i v) ∧
    (∀ w1 w2 i j, g.words = [(0, w1), (1, w2)] → begun.decodeChecked w1 = .ok i → begun.decodeChecked w2 = .ok j →
      ∃ v, issued v 0 [(1, j)] ∧ ∀ t u, exec i v = .next t → t.cur.trapped = false →
        exec j { t with cur := { t.cur with slot := 1 }, words := [] } = .next u → u.cur.trapped = false → step s = .next u)

/-! ## What every instruction and every step keeps -/

/-- Every instruction word, on every state, and every event row that names units the E96 has, answers a next state; a row that names a unit it has
not is stopped by name. There is no other stop (00 R3, 02 R41). -/
def Obligations.EveryInstructionAnswers : Prop :=
  ∀ (i : Instr) (s : State), (i.unitsOk = true → ∃ t, exec i s = .next t) ∧ (i.unitsOk = false → exec i s = .fault .noSuchUnit)

/-- 01 R23, 07 R156, R166: at its issue an instruction word changes no byte of memory but the trap words of its berth's workspace, and those only where
it takes a trap or stops, and a register that its copy repairs; every result comes by an event of a later cycle. At the issue of a group nothing
is kept of landings after it (`StepRunsDecodedInstruction`). -/
def Obligations.IssueWritesOnlyTrapWords : Prop :=
  ∀ (i : Instr) (s t : State), i.isEvent = false → MemOk s → coreOk s.cur.core = true → s.me.wsp % 8192 = 0 → s.me.wsp < 2 ^ 19 →
    (∀ e ∈ s.kept, ¬(e.core = s.cur.core ∧ e.berth = s.cur.berth)) → exec i s = .next t →
    MemOk t ∧ t.acc = s.acc ∧ t.fuses = s.fuses ∧ t.gt = s.gt ∧
    ∀ a, ¬(wsKey s.cur.core s.me.wsp + 0x20 ≤ a ∧ a < wsKey s.cur.core s.me.wsp + 0x40) →
      ¬(wsKey s.cur.core t.me.wsp + 0x20 ≤ a ∧ a < wsKey s.cur.core t.me.wsp + 0x40) → s.badUnits.contains (a / 4 * 4) = false → Memory.byte t.mem a = Memory.byte s.mem a

/-- Every step keeps the canonical form of memory: from every state that has it, whatever the step does (13 R265, log A2). -/
def Obligations.StepKeepsMemoryCanonical : Prop := ∀ s t : State, MemOk s → step s = .next t → MemOk t

/-- Two memories in canonical form that read alike at every address are equal; a write keeps the form, its bytes are read back, and every other byte
reads as before (00 R5, 13 R265). -/
def Obligations.MemoryReadsBackWrites : Prop :=
  (∀ m m' : List Host.Cell, Memory.wf m = true → Memory.wf m' = true → (∀ a, Memory.byte m a = Memory.byte m' a) → m = m') ∧
  ∀ (m : List Host.Cell) (a n v mask : Nat), Memory.wf m = true →
    Memory.wf (Memory.write m a n v mask) = true ∧ Memory.read (Memory.write m a n v (2 ^ n - 1)) a n = v % 2 ^ (8 * n) ∧
    ∀ b, Memory.byte (Memory.write m a n v mask) b =
      if a ≤ b ∧ b < a + n ∧ mask.testBit (b - a) = true then BitVec.ofNat 8 (v / 2 ^ (8 * (b - a))) else Memory.byte m b

/-! ## Traps, and words that land a value (07 R166, R168, R169, 11 R240, 16 R308, 18 R338) -/

/-- 07 R166: a trap with another cause than poison or an unreadable code line writes TEPC, the cause word, TIPC and TCOORD in the berth's workspace
and enters the handler in supervisor mode: PMODE the old mode, INTRAP, PC and WPC at TVEC, RUN running. No other byte of memory and no other
berth changes. A synchronous trap in a handler is a double trap: the words go to DTCAUSE and DTIPC, DBL is set, RUN becomes 0b000, and memory
is unchanged.
07 R169: a new asynchronous trap goes to the tail of the berth's queue, with the workspace its instruction issued in; with four queued it is
discarded and AOVF is set. -/
def Obligations.TrapsEnterOrQueue : Prop :=
  (∀ (s : State) (c b : Nat) (t : TrapInfo) (async : Bool), MemOk s → coreOk c = true → b < 16 →
     let x := s.berth c b
     let k := wsKey c x.wsp + 0x20
     let u := s.takeTrap c b s.acc t async
     x.wsp < 2 ^ 19 → x.wsp % 8192 = 0 → x.wpc < 2 ^ 16 → t.tipc < 2 ^ 16 →
     (x.intrap = false ∨ async = true → t.cause ≠ 6 → ¬(t.cause = 3 ∧ t.sub = 3) →
       Memory.read u.mem k 8 = x.wpc ∧
       Memory.read u.mem (k + 8) 8 = t.cause.toNat + 2 ^ 8 * t.sub.toNat + 2 ^ 16 * async.toNat + 2 ^ 32 * t.tinfo.toNat ∧
       Memory.read u.mem (k + 16) 8 = t.tipc ∧ Memory.read u.mem (k + 24) 8 = t.tcoord.toNat ∧
       (∀ a, ¬(k ≤ a ∧ a < k + 32) → Memory.byte u.mem a = Memory.byte s.mem a) ∧
       (u.berth c b).pmode = x.mode ∧ (u.berth c b).mode = true ∧ (u.berth c b).intrap = true ∧ (u.berth c b).pc = (s.core c).tvec ∧
       (u.berth c b).wpc = (s.core c).tvec ∧ (u.berth c b).run = 1 ∧ (u.berth c b).wait = .none ∧ (u.berth c b).wsp = x.wsp ∧
       (∀ c' b', (c', b') ≠ (c, b) → u.berth c' b' = s.berth c' b') ∧ u.agenda = s.agenda) ∧
     (x.intrap = true → async = false →
       (u.core c).dtcause = BitVec.ofNat 64 (t.cause.toNat + 2 ^ 8 * t.sub.toNat + 2 ^ 16 * b + 2 ^ 32 * t.tinfo.toNat) ∧
       (u.core c).dtipc = BitVec.ofNat 64 t.tipc ∧ (u.berth c b).dbl = true ∧ (u.berth c b).run = 0 ∧ u.mem = s.mem ∧
       (s.taskOf c b ∈ u.ended) ∧ ∃ e ∈ u.agenda, e.at_ = s.acc + 20 ∧ e.act = .aux (.endVoid (s.taskOf c b)))) ∧
  (∀ (s : State) (c b wsp : Nat) (t : TrapInfo),
     let x := s.berth c b
     let y := (s.queueTrap c b wsp t).berth c b
     (x.queue.length < 4 → y.queue = x.queue ++ [{ info := t, wsp := wsp }] ∧ y.aovf = x.aovf) ∧
     (4 ≤ x.queue.length → y.queue = x.queue ∧ y.aovf = true) ∧
     y.pc = x.pc ∧ y.run = x.run ∧ y.intrap = x.intrap ∧ (s.queueTrap c b wsp t).mem = s.mem)

/-- 11 R240, 16 R308, 18 R338: MAPR lands gazetteer word s(A) + X, and above 16 takes the access-window trap, SUB 0x14; SCNR lands E, P, E + P or
the status word of the edge copy, INGST a word of its RX bitmap or its drop summary; JBUD lands what is left of the journey's window, the
journey stamp or the run; 0 in a berth that is not a journey's. All land at issue + 16. -/
def Obligations.ReadoutsLandTheirWords : Prop :=
  ∀ (s : State) (h : Hd) (d a : SReg) (x : BitVec 5) (w : BitVec 2),
    let lands (i : Instr) (v : Nat) : Prop := exec i s = .next (s.landS (s.acc + 16) d (BitVec.ofNat 64 v))
    let edge (lo n : Nat) : Nat := ((s.tier (s.clockOf s.cur.core)).edge).toNat / 2 ^ (8 * lo) % 2 ^ (8 * n)
    (ready h [.s a] s = true →
      let n := (s.sreg a).toNat + x.toNat
      (n ≤ 16 → lands (.mapr h d a x) (s.gazWord s.myPart (tierOf s.cur.core) n)) ∧
      (16 < n → exec (.mapr h d a x) s = .next (s.raise 7 0x14 (BitVec.ofNat 32 n)))) ∧
    (ready h [] s = true →
      lands (.scnr h 0 d) (edge 0 8) ∧ lands (.scnr h 1 d) (edge 8 8) ∧ lands (.scnr h 2 d) (edge 0 8 + edge 8 8) ∧ lands (.scnr h 3 d) (edge 20 4) ∧
      lands (.ingst h d (.rx w)) (edge (32 + 8 * w.toNat) 8) ∧ lands (.ingst h d .drop) (edge 24 8) ∧
      (s.me.journey = none → ∀ f, lands (.jbud h f d) 0) ∧
      (∀ p j, s.me.journey = some (p, j) →
        (∀ r, s.journeyRow p j = some r → lands (.jbud h 0 d) (r.start + r.budget - s.ttcOf s.cur.core)) ∧
        lands (.jbud h 1 d) (s.journey p j).jstamp.toNat ∧
        lands (.jbud h 2 d) ((s.journey p j).runs % 2 ^ 32 + 2 ^ 32 * (s.journey p j).pidx + 2 ^ 34 * j)))

/-! ## Reset (22 R388, R393) -/

/-- What reset leaves, as the registers' tables give it: ACC 0, the clock at step 4 with nothing asked for, RUN 0b001, TSTAT and its queue clear, DTCAUSE,
DTIPC, the phase marks' and copies' state clear, every tier awake with its replica current, TURN 0xDE7B, every cluster HEALTHY with no site out,
TWARN 100 and TTRIP 115, the partitions with no plan, ESTAMP VOID, PCFG's HBTOL and TDEC, SEQCTL off, and memory with nothing listed. -/
def Obligations.ResetLeavesTheTableValues : Prop :=
  let s := State.reset
  MemOk s ∧ s.mem = [] ∧ s.acc = 0 ∧ s.freq.cur = 4 ∧ s.freq.act = none ∧ s.freq.queue = none ∧ s.seq.en = false ∧ s.seq.sync = false ∧
  s.hall.hsdisc = 0 ∧ s.agenda = [] ∧
  ∀ c b t p k : Nat,
    let x := s.berth c b
    x.run = 1 ∧ x.intrap = false ∧ x.pmode = false ∧ x.dbl = false ∧ x.aovf = false ∧ x.pdef = false ∧ x.queue = [] ∧ x.win0 = 0 ∧ x.win1 = 0 ∧
    x.uword = 0 ∧ x.witc = 0 ∧ (s.core c).dtcause = 0 ∧ (s.core c).dtipc = 0 ∧ (s.core c).slipped = false ∧ (s.core c).rq = false ∧
    (s.core c).dbgctl = 0 ∧ (s.core c).stat = {} ∧ (s.tier t).power.state = 0 ∧ (s.tier t).replica.behind = false ∧ s.turnBits t c = 0xDE7B ∧
    (s.cluster k).health = 0 ∧ (s.cluster k).outsite = 7 ∧ (s.cluster k).ofs = 0 ∧ (s.thermOf k).twarn = 100 ∧ (s.thermOf k).ttrip = 115 ∧
    (s.part p).plstat = 0 ∧ (s.part p).plan = none ∧ (s.streamSt p c).estamp = 0xFFFFFFFF ∧ (s.pair p).en = false ∧ (s.pair p).hbtol = 500 ∧
    (s.pair p).tdec = 20000 ∧ (s.pair p).role = 0
end

