-- ==== Sys2Proof/Laws/Mem.lean ====
section
/-! SUPPORT. The laws of memory: every operation keeps the canonical form, and what a read after a write gives. -/

namespace Sys2Proof.Machine.Memory

/-- The addresses of a canonical memory after its first entry lie above it. -/
theorem wf_cons (e : Host.Cell) (m : List Host.Cell) :
    wf (e :: m) = true ↔ e.2 ≠ unlisted e.1 ∧ (∀ f ∈ m, e.1 < f.1) ∧ wf m = true := by
  induction m generalizing e with
  | nil => obtain ⟨a, v⟩ := e; simp [wf]
  | cons f m ih =>
    obtain ⟨a, v⟩ := e
    obtain ⟨b, w⟩ := f
    simp only [wf, Bool.and_eq_true, decide_eq_true_eq, ne_eq, List.mem_cons, forall_eq_or_imp, ih]
    constructor
    · rintro ⟨⟨h1, h2⟩, h3, h4, h5⟩
      exact ⟨h1, ⟨h2, fun f hf => Nat.lt_trans h2 (h4 f hf)⟩, h3, h4, h5⟩
    · rintro ⟨h1, ⟨h2, _⟩, h3, h4, h5⟩
      exact ⟨⟨h1, h2⟩, h3, h4, h5⟩

theorem byte_lt (m : List Host.Cell) (a : Nat) (h : ∀ f ∈ m, a < f.1) : byte m a = unlisted a := by
  induction m with
  | nil => rfl
  | cons e m ih =>
    obtain ⟨b, v⟩ := e
    have : b ≠ a := Nat.ne_of_gt (h (b, v) (List.mem_cons_self ..))
    simp only [byte, this, if_false]
    exact ih fun f hf => h f (List.mem_cons_of_mem _ hf)

theorem mem_insert (m : List Host.Cell) (a : Nat) (b : Byte) (f : Host.Cell) (h : f ∈ insert m a b) : f = (a, b) ∨ f ∈ m := by
  induction m with
  | nil => simpa [insert] using h
  | cons e m ih =>
    obtain ⟨j, v⟩ := e
    simp only [insert] at h
    split at h
    · rcases List.mem_cons.mp h with h | h <;> simp [h]
    · split at h
      · rcases List.mem_cons.mp h with h | h <;> simp [h]
      · rcases List.mem_cons.mp h with h | h
        · simp [h]
        · rcases ih h with h | h <;> simp [h]

theorem mem_drop (m : List Host.Cell) (a : Nat) (f : Host.Cell) (h : f ∈ drop m a) : f ∈ m := by
  induction m with
  | nil => simp [drop] at h
  | cons e m ih =>
    obtain ⟨j, v⟩ := e
    simp only [drop] at h
    split at h
    · simp [h]
    · rcases List.mem_cons.mp h with h | h
      · simp [h]
      · simp [ih h]

theorem wf_insert (m : List Host.Cell) (a : Nat) (b : Byte) (hb : b ≠ unlisted a) (h : wf m = true) : wf (insert m a b) = true := by
  induction m with
  | nil => simpa [insert, wf] using hb
  | cons e m ih =>
    obtain ⟨j, v⟩ := e
    obtain ⟨h1, h2, h3⟩ := (wf_cons _ _).mp h
    simp only [insert]
    split
    · rename_i he
      exact (wf_cons _ _).mpr ⟨hb, fun f hf => he ▸ h2 f hf, h3⟩
    · split
      · rename_i hl
        exact (wf_cons _ _).mpr ⟨hb, fun f hf => by
          rcases List.mem_cons.mp hf with hf | hf
          · simpa [hf] using hl
          · exact Nat.lt_trans hl (h2 f hf), h⟩
      · rename_i hn hl
        exact (wf_cons _ _).mpr ⟨h1, fun f hf => by
          rcases mem_insert m a b f hf with hf | hf
          · simp only [hf]
            omega
          · exact h2 f hf, ih h3⟩

theorem wf_drop (m : List Host.Cell) (a : Nat) (h : wf m = true) : wf (drop m a) = true := by
  induction m with
  | nil => rfl
  | cons e m ih =>
    obtain ⟨j, v⟩ := e
    obtain ⟨h1, h2, h3⟩ := (wf_cons _ _).mp h
    simp only [drop]
    split
    · exact h3
    · exact (wf_cons _ _).mpr ⟨h1, fun f hf => h2 f (mem_drop m a f hf), ih h3⟩

/-- A byte's write keeps the canonical form. -/
theorem wf_put (m : List Host.Cell) (a : Nat) (b : Byte) (h : wf m = true) : wf (put m a b) = true := by
  unfold put
  split
  · exact wf_drop m a h
  · rename_i hb
    exact wf_insert m a b hb h

/-- Every write keeps the canonical form. -/
theorem wf_write (m : List Host.Cell) (a n v mask : Nat) (h : wf m = true) : wf (write m a n v mask) = true := by
  induction n generalizing m a v mask with
  | zero => exact h
  | succ n ih =>
    simp only [write]
    split
    · exact ih _ _ _ _ (wf_put m a _ h)
    · exact ih _ _ _ _ h

theorem byte_insert (m : List Host.Cell) (a c : Nat) (b : Byte) : byte (insert m a b) c = if c = a then b else byte m c := by
  induction m with
  | nil =>
    simp only [insert, byte]
    by_cases h : c = a
    · simp [h]
    · simp [h, Ne.symm h]
  | cons e m ih =>
    obtain ⟨j, v⟩ := e
    simp only [insert]
    split
    · rename_i he
      subst he
      simp only [byte]
      by_cases h : c = a
      · simp [h]
      · simp [h, Ne.symm h]
    · split
      · simp only [byte]
        by_cases h : c = a
        · simp [h]
        · simp [h, Ne.symm h]
      · rename_i hn _
        simp only [byte, ih]
        by_cases h : c = a
        · subst h
          simp [Ne.symm hn]
        · simp [h]

theorem byte_drop (m : List Host.Cell) (a c : Nat) (h : wf m = true) : byte (drop m a) c = if c = a then unlisted a else byte m c := by
  induction m with
  | nil =>
    simp only [drop, byte]
    split
    · simp [*]
    · rfl
  | cons e m ih =>
    obtain ⟨j, v⟩ := e
    obtain ⟨_, h2, h3⟩ := (wf_cons _ _).mp h
    simp only [drop]
    split
    · rename_i he
      subst he
      by_cases hc : c = j
      · subst hc
        simp [byte_lt m c h2]
      · simp [byte, hc, Ne.symm hc]
    · rename_i hn
      simp only [byte, ih h3]
      by_cases hc : c = a
      · subst hc
        simp [hn]
      · simp [hc]

/-- A byte read after a byte's write. -/
theorem byte_put (m : List Host.Cell) (a c : Nat) (b : Byte) (h : wf m = true) : byte (put m a b) c = if c = a then b else byte m c := by
  unfold put
  split
  · rename_i hb
    rw [byte_drop m a c h, hb]
  · exact byte_insert m a c b

end Sys2Proof.Machine.Memory
end

