-- ==== Sys2Proof/Laws/Ops.lean ====
section
/-! SUPPORT. What each shared operation does, said once: a word at its issue, its sources, its results to come. -/

namespace Sys2Proof.Machine

open Safety

/-! ## Sources -/

/-- A fold that each element leaves as it was. -/
theorem foldl_keeps {α β : Type} (f : β → α → β) (b : β) (l : List α) (h : ∀ a ∈ l, f b a = b) : l.foldl f b = b := by
  induction l with
  | nil => rfl
  | cons a l ih =>
    rw [List.foldl_cons, h a (List.mem_cons_self ..)]
    exact ih fun c hc => h c (List.mem_cons_of_mem _ hc)

/-- A span none of whose units fails its parity reads with no repair (01 R22). -/
theorem State.checkParity_good (s : State) (key n : Nat) (h : ∀ u ∈ State.unitsOf 4 key n, s.badUnits.contains u = false) :
    s.checkParity key n = (s, none) := by
  unfold State.checkParity
  split
  · rfl
  · exact foldl_keeps _ _ _ fun u hu => if_neg (by rw [h u hu]; exact Bool.false_ne_true)

theorem State.checkSrc_readable (s : State) (x : Src) (h : readable s x = true) : s.checkSrc x = (s, none) := by
  have hall := List.all_eq_true.mp h
  have hp := s.checkParity_good (s.srcSpan x).1 (s.srcSpan x).2 fun u hu => by
    have := hall u hu
    simp_all
  have hn : ∀ r : SReg, x = .s r → s.psnFirst (s.srcSpan x).1 (s.srcSpan x).2 = none := fun r hx => by
    subst hx
    exact List.find?_eq_none.mpr fun u hu => by
      have := hall u hu
      simp_all
  have hq : ∀ r : PReg, x = .p r → s.psnFirst (s.srcSpan x).1 (s.srcSpan x).2 = none := fun r hx => by
    subst hx
    exact List.find?_eq_none.mpr fun u hu => by
      have := hall u hu
      simp_all
  unfold State.checkSrc
  simp only [hp]
  split
  · rfl
  · cases x with
    | s r => simp [hn r rfl]
    | p r => simp [hq r rfl]
    | m _ | v _ | tag _ | fst => rfl

theorem State.checkSrcs_readable (s : State) (l : List Src) (h : l.all (readable s) = true) : s.checkSrcs l = (s, none) :=
  foldl_keeps _ _ _ fun x hx => by rw [s.checkSrc_readable x (List.all_eq_true.mp h x hx)]; rfl

/-! ## A word at its issue -/

/-- A word that is ready takes its action on the state as it is. -/
theorem issueOp_ready (h : Hd) (srcs : List Src) (s : State) (k : State → State) (hr : ready h srcs s = true) :
    issueOp h srcs s k = .next (k s) := by
  obtain ⟨⟨h1, h2⟩, h3⟩ := by simpa [ready] using hr
  unfold issueOp
  rw [s.checkSrc_readable _ h1]
  simp only [h2, if_true]
  rw [s.checkSrcs_readable srcs (List.all_eq_true.mpr h3)]

/-- A word whose guard is false has no effect (02 R41). -/
theorem issueOp_skip (h : Hd) (srcs : List Src) (s : State) (k : State → State) (h1 : readable s (.p h.gp) = true)
    (h2 : s.guardVal h = false) : issueOp h srcs s k = .next s := by
  unfold issueOp
  rw [s.checkSrc_readable _ h1]
  simp [h2]

/-- Everything that a word at its issue can do: take a trap of a source, do nothing, or take its action. -/
theorem issueOp_cases (h : Hd) (srcs : List Src) (s t : State) (k : State → State) (e : issueOp h srcs s k = .next t) :
    (∃ u x, s.checkSrc (.p h.gp) = (u, some x) ∧ t = u.raiseInfo x) ∨
    (∃ u, s.checkSrc (.p h.gp) = (u, none) ∧
      ((u.guardVal h = false ∧ t = u) ∨
       (u.guardVal h = true ∧
        ((∃ v x, u.checkSrcs srcs = (v, some x) ∧ t = v.raiseInfo x) ∨ ∃ v, u.checkSrcs srcs = (v, none) ∧ t = k v)))) := by
  unfold issueOp at e
  split at e
  · rename_i u x hx
    cases e
    exact .inl ⟨u, x, hx, rfl⟩
  · rename_i u hu
    refine .inr ⟨u, hu, ?_⟩
    split at e
    · rename_i hg
      refine .inr ⟨hg, ?_⟩
      split at e
      · rename_i v x hx
        cases e
        exact .inl ⟨v, x, hx, rfl⟩
      · rename_i v hv
        cases e
        exact .inr ⟨v, hv, rfl⟩
    · rename_i hg
      cases e
      exact .inl ⟨by simpa using hg, rfl⟩

/-- A word at its issue neither faults nor is refused. -/
theorem issueOp_next (h : Hd) (srcs : List Src) (s : State) (k : State → State) : ∃ t, issueOp h srcs s k = .next t := by
  unfold issueOp
  split
  · exact ⟨_, rfl⟩
  · split
    · split <;> exact ⟨_, rfl⟩
    · exact ⟨_, rfl⟩

/-- A vector word that is ready and whose tags are accepted takes its action. -/
theorem vecOp_ready (h : Hd) (vs : List VSrc) (agree : Bool) (others : List Src) (s : State) (k : State → State)
    (hr : ready h (vSrcs vs ++ others) s = true) (ht : s.tagCheck vs agree = none) :
    vecOp h vs agree others s k = .next (k s) := by
  unfold vecOp
  rw [issueOp_ready _ _ _ _ hr]
  simp [ht]

/-! ## Results to come -/

/-- A result on its way is one landing on the agenda and nothing else. -/
theorem State.land_eq (s : State) (at_ : Nat) (dests : List DVal) (fl : BitVec 9) (h : dests ≠ []) :
    s.land at_ dests fl = s.sched at_ phLand (some s.here) (.row (.landing { org := s.here, dests := dests, flags := fl })) := by
  cases dests with
  | nil => exact absurd rfl h
  | cons d l => simp [land, schedRow]

theorem State.landS_eq (s : State) (at_ : Nat) (d : SReg) (v : Word) (fl : BitVec 9) :
    s.landS at_ d v fl = s.sched at_ phLand (some s.here) (.row (.landing { org := s.here, dests := [.s d v], flags := fl })) :=
  s.land_eq at_ [.s d v] fl (by simp)

/-- A landing on the agenda changes no register, no byte of memory, no status: only the agenda and its count. -/
theorem State.land_only (s : State) (at_ : Nat) (dests : List DVal) (fl : BitVec 9) :
    s.land at_ dests fl = { s with agenda := (s.land at_ dests fl).agenda, nextId := (s.land at_ dests fl).nextId } := by
  unfold land
  split <;> rfl

theorem State.mem_agendaIns (e f : Ev) (l : List Ev) : f ∈ agendaIns e l ↔ f = e ∨ f ∈ l := by
  induction l with
  | nil => simp [agendaIns]
  | cons g l ih =>
    unfold agendaIns
    split
    · simp
    · simp only [List.mem_cons, ih]
      exact ⟨fun h => by rcases h with h | h | h <;> simp [h], fun h => by rcases h with h | h | h <;> simp [h]⟩

/-! ## Elements of a vector result (03 R59, 05 R104) -/

/-- Element i of a joined list is its i-th number. -/
theorem joinElems_get (w : Nat) (l : List Nat) (i : Nat) (h : i < l.length) :
    joinElems w l / 2 ^ (8 * w * i) % 2 ^ (8 * w) = l[i] % 2 ^ (8 * w) := by
  induction l generalizing i with
  | nil => simp at h
  | cons x l ih =>
    have hx : x % 2 ^ (8 * w) < 2 ^ (8 * w) := Nat.mod_lt _ (Nat.two_pow_pos _)
    cases i with
    | zero => simp [joinElems, Nat.add_mul_mod_self_left]
    | succ i =>
      have hp : 2 ^ (8 * w * (i + 1)) = 2 ^ (8 * w) * 2 ^ (8 * w * i) := by
        rw [← Nat.pow_add, Nat.mul_succ, Nat.add_comm]
      simp only [joinElems, List.getElem_cons_succ, hp, ← Nat.div_div_eq_div_mul]
      rw [Nat.add_mul_div_left _ _ (Nat.two_pow_pos _), Nat.div_eq_of_lt hx, Nat.zero_add]
      exact ih i (by simpa using h)

/-- Element i of a vector register made of a list of elements. -/
theorem elem_join (w : Nat) (l : List Nat) (i : Nat) (h : i < l.length) (hw : 8 * w * i + 8 * w ≤ 2048) :
    elem w i (BitVec.ofNat 2048 (joinElems w l)) = l[i] % 2 ^ (8 * w) := by
  unfold elem
  rw [BitVec.toNat_ofNat, ← joinElems_get w l i h]
  have e : 2 ^ 2048 = 2 ^ (8 * w * i) * 2 ^ (2048 - 8 * w * i) := by
    rw [← Nat.pow_add]
    congr 1
    omega
  rw [e, Nat.mod_mul_right_div_self]
  exact Nat.mod_mod_of_dvd _ (Nat.pow_dvd_pow 2 (by omega))

/-- A vector result on its way: its data has in each active element the value given, and its flags are the union over them. -/
theorem State.landV_lands (s : State) (at_ : Nat) (d : VReg) (tag : BitVec 4) (k : MReg) (f : Nat → Nat × BitVec 9) :
    LandsLanes s (s.landV at_ d tag k f) at_ d tag (s.mreg k) f := by
  have hw : tagWidth tag = 1 ∨ tagWidth tag = 2 ∨ tagWidth tag = 4 ∨ tagWidth tag = 8 := by
    unfold tagWidth
    split <;> simp
  refine ⟨_, rfl, fun i hi ha => ?_⟩
  rw [elem_join _ _ _ (by simpa using hi)]
  · simp [ha]
  · rcases hw with h | h | h | h <;> rw [h] at hi ⊢ <;> omega

end Sys2Proof.Machine
end

