-- ==== Sys2Proof/Laws/PerInstr.lean ====
section
/-! SUPPORT. For every constructor of `Instr`: the encoder has a word for it exactly when its operands are legal ones of an instruction word (02 R44). -/

namespace Sys2Proof.Laws

/-- The encoder answers a word exactly for the legal instruction words. -/
def Encodes.Statement (i : Instr) : Prop := (encode i).isSome = i.wordOk

theorem encodes_of_raw (i : Instr) (h : (rawOf i).isSome = true) : (encode i).isSome = i.wordOk := by
  unfold encode
  cases i.wordOk
  · rfl
  · simpa using h

theorem encodes_of_event (i : Instr) (h : i.wordOk = false) : (encode i).isSome = i.wordOk := by
  rw [h]
  unfold encode
  rw [h]
  rfl

theorem Encodes.berthTurn (b : BId) : Encodes.Statement (.berthTurn b) := encodes_of_event _ rfl
theorem Encodes.lineRefetchWrite (core line : Nat) : Encodes.Statement (.lineRefetchWrite core line) := encodes_of_event _ rfl
theorem Encodes.asyncTrapDelivery (b : BId) : Encodes.Statement (.asyncTrapDelivery b) := encodes_of_event _ rfl
theorem Encodes.landing (l : Landing) : Encodes.Statement (.landing l) := encodes_of_event _ rfl
theorem Encodes.storeEffect (w : Wr) : Encodes.Statement (.storeEffect w) := encodes_of_event _ rfl
theorem Encodes.nop (h : Hd) : Encodes.Statement (.nop h) := encodes_of_raw _ rfl
theorem Encodes.add (h : Hd) (d a b : SReg) : Encodes.Statement (.add h d a b) := encodes_of_raw _ rfl
theorem Encodes.addi (h : Hd) (d a : SReg) (x : BitVec 48) : Encodes.Statement (.addi h d a x) := encodes_of_raw _ rfl
theorem Encodes.sub (h : Hd) (d a b : SReg) : Encodes.Statement (.sub h d a b) := encodes_of_raw _ rfl
theorem Encodes.mul (h : Hd) (d a b : SReg) : Encodes.Statement (.mul h d a b) := encodes_of_raw _ rfl
theorem Encodes.mulh (h : Hd) (d a b : SReg) : Encodes.Statement (.mulh h d a b) := encodes_of_raw _ rfl
theorem Encodes.mulhu (h : Hd) (d a b : SReg) : Encodes.Statement (.mulhu h d a b) := encodes_of_raw _ rfl
theorem Encodes.div (h : Hd) (d a b : SReg) : Encodes.Statement (.div h d a b) := encodes_of_raw _ rfl
theorem Encodes.divu (h : Hd) (d a b : SReg) : Encodes.Statement (.divu h d a b) := encodes_of_raw _ rfl
theorem Encodes.rem (h : Hd) (d a b : SReg) : Encodes.Statement (.rem h d a b) := encodes_of_raw _ rfl
theorem Encodes.remu (h : Hd) (d a b : SReg) : Encodes.Statement (.remu h d a b) := encodes_of_raw _ rfl
theorem Encodes.and (h : Hd) (d a : SReg) (o : Op2) : Encodes.Statement (.and h d a o) := encodes_of_raw _ rfl
theorem Encodes.or (h : Hd) (d a : SReg) (o : Op2) : Encodes.Statement (.or h d a o) := encodes_of_raw _ rfl
theorem Encodes.xor (h : Hd) (d a : SReg) (o : Op2) : Encodes.Statement (.xor h d a o) := encodes_of_raw _ rfl
theorem Encodes.andn (h : Hd) (d a : SReg) (o : Op2) : Encodes.Statement (.andn h d a o) := encodes_of_raw _ rfl
theorem Encodes.orn (h : Hd) (d a : SReg) (o : Op2) : Encodes.Statement (.orn h d a o) := encodes_of_raw _ rfl
theorem Encodes.shl (h : Hd) (d a : SReg) (o : Op2) : Encodes.Statement (.shl h d a o) := encodes_of_raw _ rfl
theorem Encodes.shr (h : Hd) (d a : SReg) (o : Op2) : Encodes.Statement (.shr h d a o) := encodes_of_raw _ rfl
theorem Encodes.sar (h : Hd) (d a : SReg) (o : Op2) : Encodes.Statement (.sar h d a o) := encodes_of_raw _ rfl
theorem Encodes.rol (h : Hd) (d a : SReg) (o : Op2) : Encodes.Statement (.rol h d a o) := encodes_of_raw _ rfl
theorem Encodes.clz (h : Hd) (d a : SReg) : Encodes.Statement (.clz h d a) := encodes_of_raw _ rfl
theorem Encodes.ctz (h : Hd) (d a : SReg) : Encodes.Statement (.ctz h d a) := encodes_of_raw _ rfl
theorem Encodes.popc (h : Hd) (d a : SReg) : Encodes.Statement (.popc h d a) := encodes_of_raw _ rfl
theorem Encodes.brev (h : Hd) (d a : SReg) : Encodes.Statement (.brev h d a) := encodes_of_raw _ rfl
theorem Encodes.min (h : Hd) (d a : SReg) (o : Op2) : Encodes.Statement (.min h d a o) := encodes_of_raw _ rfl
theorem Encodes.max (h : Hd) (d a : SReg) (o : Op2) : Encodes.Statement (.max h d a o) := encodes_of_raw _ rfl
theorem Encodes.minu (h : Hd) (d a : SReg) (o : Op2) : Encodes.Statement (.minu h d a o) := encodes_of_raw _ rfl
theorem Encodes.maxu (h : Hd) (d a : SReg) (o : Op2) : Encodes.Statement (.maxu h d a o) := encodes_of_raw _ rfl
theorem Encodes.abs (h : Hd) (d a : SReg) : Encodes.Statement (.abs h d a) := encodes_of_raw _ rfl
theorem Encodes.movi (h : Hd) (d : SReg) (x : BitVec 48) : Encodes.Statement (.movi h d x) := encodes_of_raw _ rfl
theorem Encodes.movhi (h : Hd) (d a : SReg) (x : BitVec 16) : Encodes.Statement (.movhi h d a x) := encodes_of_raw _ rfl
theorem Encodes.sext (h : Hd) (d a : SReg) (w1 : BitVec 6) : Encodes.Statement (.sext h d a w1) := encodes_of_raw _ rfl
theorem Encodes.zext (h : Hd) (d a : SReg) (w1 : BitVec 6) : Encodes.Statement (.zext h d a w1) := encodes_of_raw _ rfl
theorem Encodes.extb (h : Hd) (sg : Bool) (d a : SReg) (pos len1 : BitVec 6) : Encodes.Statement (.extb h sg d a pos len1) := encodes_of_raw _ rfl
theorem Encodes.insb (h : Hd) (d a : SReg) (pos len1 : BitVec 6) : Encodes.Statement (.insb h d a pos len1) := encodes_of_raw _ rfl
theorem Encodes.clmul (h : Hd) (d a b : SReg) : Encodes.Statement (.clmul h d a b) := encodes_of_raw _ rfl
theorem Encodes.clmulh (h : Hd) (d a b : SReg) : Encodes.Statement (.clmulh h d a b) := encodes_of_raw _ rfl
theorem Encodes.lea (h : Hd) (d a b : SReg) (sh : BitVec 3) (x : BitVec 48) : Encodes.Statement (.lea h d a b sh x) := encodes_of_raw _ rfl
theorem Encodes.cmp (h : Hd) (cond : BitVec 3) (d c : PReg) (a b : SReg) : Encodes.Statement (.cmp h cond d c a b) := encodes_of_raw _ rfl
theorem Encodes.cmpi (h : Hd) (cond : BitVec 3) (d c : PReg) (a : SReg) (x : BitVec 48) : Encodes.Statement (.cmpi h cond d c a x) := encodes_of_raw _ rfl
theorem Encodes.plog (h : Hd) (op : BitVec 3) (d a b : PReg) : Encodes.Statement (.plog h op d a b) := encodes_of_raw _ rfl
theorem Encodes.sel (h : Hd) (d a b : SReg) (c : PReg) : Encodes.Statement (.sel h d a b c) := encodes_of_raw _ rfl
theorem Encodes.fadd (h : Hd) (rm : Rnd) (d a b : SReg) : Encodes.Statement (.fadd h rm d a b) := encodes_of_raw _ rfl
theorem Encodes.fsub (h : Hd) (rm : Rnd) (d a b : SReg) : Encodes.Statement (.fsub h rm d a b) := encodes_of_raw _ rfl
theorem Encodes.fmul (h : Hd) (rm : Rnd) (d a b : SReg) : Encodes.Statement (.fmul h rm d a b) := encodes_of_raw _ rfl
theorem Encodes.ffma (h : Hd) (form : BitVec 2) (rm : Rnd) (d a b c : SReg) : Encodes.Statement (.ffma h form rm d a b c) := encodes_of_raw _ rfl
theorem Encodes.fdiv (h : Hd) (rm : Rnd) (d a b : SReg) : Encodes.Statement (.fdiv h rm d a b) := encodes_of_raw _ rfl
theorem Encodes.fsqrt (h : Hd) (rm : Rnd) (d a : SReg) : Encodes.Statement (.fsqrt h rm d a) := encodes_of_raw _ rfl
theorem Encodes.fmin (h : Hd) (d a b : SReg) : Encodes.Statement (.fmin h d a b) := encodes_of_raw _ rfl
theorem Encodes.fmax (h : Hd) (d a b : SReg) : Encodes.Statement (.fmax h d a b) := encodes_of_raw _ rfl
theorem Encodes.fcmp (h : Hd) (cond : BitVec 2) (d c : PReg) (a b : SReg) : Encodes.Statement (.fcmp h cond d c a b) := encodes_of_raw _ rfl
theorem Encodes.fcvt (h : Hd) (kind : Fin 10) (rm : Rnd) (d a : SReg) : Encodes.Statement (.fcvt h kind rm d a) := encodes_of_raw _ rfl
theorem Encodes.br (h : Hd) (loff : BitVec 45) (ts : Fin 5) : Encodes.Statement (.br h loff ts) := encodes_of_raw _ rfl
theorem Encodes.jmp (h : Hd) (a : SReg) : Encodes.Statement (.jmp h a) := encodes_of_raw _ rfl
theorem Encodes.call (h : Hd) (d : SReg) (loff : BitVec 45) (ts : Fin 5) : Encodes.Statement (.call h d loff ts) := encodes_of_raw _ rfl
theorem Encodes.callr (h : Hd) (d a : SReg) : Encodes.Statement (.callr h d a) := encodes_of_raw _ rfl
theorem Encodes.ret (h : Hd) (a : SReg) : Encodes.Statement (.ret h a) := encodes_of_raw _ rfl
theorem Encodes.loop (h : Hd) (a : SReg) (loff : BitVec 45) (ts : Fin 5) : Encodes.Statement (.loop h a loff ts) := encodes_of_raw _ rfl
theorem Encodes.brx (h : Hd) (a : SReg) (loff : BitVec 45) (ts : Fin 5) : Encodes.Statement (.brx h a loff ts) := encodes_of_raw _ rfl
theorem Encodes.waitc (h : Hd) (a : SReg) (x : BitVec 32) : Encodes.Statement (.waitc h a x) := encodes_of_raw _ rfl
theorem Encodes.waitcItc (h : Hd) (a : SReg) (x : BitVec 32) : Encodes.Statement (.waitcItc h a x) := encodes_of_raw _ rfl
theorem Encodes.waitr (h : Hd) (a : SReg) (x : BitVec 32) : Encodes.Statement (.waitr h a x) := encodes_of_raw _ rfl
theorem Encodes.waitEnd (b : BId) : Encodes.Statement (.waitEnd b) := encodes_of_event _ rfl
theorem Encodes.resync (h : Hd) : Encodes.Statement (.resync h) := encodes_of_raw _ rfl
theorem Encodes.resyncTo (h : Hd) (a : SReg) : Encodes.Statement (.resyncTo h a) := encodes_of_raw _ rfl
theorem Encodes.rdtt (h : Hd) (sel : BitVec 3) (d : SReg) : Encodes.Statement (.rdtt h sel d) := encodes_of_raw _ rfl
theorem Encodes.vadd (h : Hd) (sat : Bool) (rm : Rnd) (k : MReg) (d a : VReg) (o : VOp2) : Encodes.Statement (.vadd h sat rm k d a o) := encodes_of_raw _ rfl
theorem Encodes.vsub (h : Hd) (sat : Bool) (rm : Rnd) (k : MReg) (d a : VReg) (o : VOp2) : Encodes.Statement (.vsub h sat rm k d a o) := encodes_of_raw _ rfl
theorem Encodes.vmul (h : Hd) (sat : Bool) (rm : Rnd) (k : MReg) (d a : VReg) (o : VOp2) : Encodes.Statement (.vmul h sat rm k d a o) := encodes_of_raw _ rfl
theorem Encodes.vfma (h : Hd) (rm : Rnd) (k : MReg) (d a : VReg) (o : VOp2) : Encodes.Statement (.vfma h rm k d a o) := encodes_of_raw _ rfl
theorem Encodes.vfms (h : Hd) (rm : Rnd) (k : MReg) (d a : VReg) (o : VOp2) : Encodes.Statement (.vfms h rm k d a o) := encodes_of_raw _ rfl
theorem Encodes.vmin (h : Hd) (k : MReg) (d a : VReg) (o : VOp2) : Encodes.Statement (.vmin h k d a o) := encodes_of_raw _ rfl
theorem Encodes.vmax (h : Hd) (k : MReg) (d a : VReg) (o : VOp2) : Encodes.Statement (.vmax h k d a o) := encodes_of_raw _ rfl
theorem Encodes.vabs (h : Hd) (sat : Bool) (k : MReg) (d a : VReg) : Encodes.Statement (.vabs h sat k d a) := encodes_of_raw _ rfl
theorem Encodes.vneg (h : Hd) (sat : Bool) (k : MReg) (d a : VReg) : Encodes.Statement (.vneg h sat k d a) := encodes_of_raw _ rfl
theorem Encodes.vrcp (h : Hd) (k : MReg) (d a : VReg) : Encodes.Statement (.vrcp h k d a) := encodes_of_raw _ rfl
theorem Encodes.vrsq (h : Hd) (k : MReg) (d a : VReg) : Encodes.Statement (.vrsq h k d a) := encodes_of_raw _ rfl
theorem Encodes.vexp2 (h : Hd) (k : MReg) (d a : VReg) : Encodes.Statement (.vexp2 h k d a) := encodes_of_raw _ rfl
theorem Encodes.vlog2 (h : Hd) (k : MReg) (d a : VReg) : Encodes.Statement (.vlog2 h k d a) := encodes_of_raw _ rfl
theorem Encodes.vdiv (h : Hd) (rm : Rnd) (k : MReg) (d a b : VReg) : Encodes.Statement (.vdiv h rm k d a b) := encodes_of_raw _ rfl
theorem Encodes.vsqrt (h : Hd) (rm : Rnd) (k : MReg) (d a : VReg) : Encodes.Statement (.vsqrt h rm k d a) := encodes_of_raw _ rfl
theorem Encodes.vcmp (h : Hd) (cond : Fin 7) (k : MReg) (d : MReg) (a : VReg) (o : VOp2) : Encodes.Statement (.vcmp h cond k d a o) := encodes_of_raw _ rfl
theorem Encodes.vsel (h : Hd) (k : MReg) (d a b : VReg) (c : MReg) : Encodes.Statement (.vsel h k d a b c) := encodes_of_raw _ rfl
theorem Encodes.vand (h : Hd) (k : MReg) (d a : VReg) (o : VOp2) : Encodes.Statement (.vand h k d a o) := encodes_of_raw _ rfl
theorem Encodes.vor (h : Hd) (k : MReg) (d a : VReg) (o : VOp2) : Encodes.Statement (.vor h k d a o) := encodes_of_raw _ rfl
theorem Encodes.vxor (h : Hd) (k : MReg) (d a : VReg) (o : VOp2) : Encodes.Statement (.vxor h k d a o) := encodes_of_raw _ rfl
theorem Encodes.vnot (h : Hd) (k : MReg) (d a : VReg) : Encodes.Statement (.vnot h k d a) := encodes_of_raw _ rfl
theorem Encodes.vshl (h : Hd) (k : MReg) (d a : VReg) (n : ShAmt) : Encodes.Statement (.vshl h k d a n) := encodes_of_raw _ rfl
theorem Encodes.vshr (h : Hd) (k : MReg) (d a : VReg) (n : ShAmt) : Encodes.Statement (.vshr h k d a n) := encodes_of_raw _ rfl
theorem Encodes.vsar (h : Hd) (k : MReg) (d a : VReg) (n : ShAmt) : Encodes.Statement (.vsar h k d a n) := encodes_of_raw _ rfl
theorem Encodes.vclmul (h : Hd) (hi : Bool) (k : MReg) (d a : VReg) (o : VOp2) : Encodes.Statement (.vclmul h hi k d a o) := encodes_of_raw _ rfl
theorem Encodes.vpopc (h : Hd) (k : MReg) (d a : VReg) : Encodes.Statement (.vpopc h k d a) := encodes_of_raw _ rfl
theorem Encodes.vclz (h : Hd) (k : MReg) (d a : VReg) : Encodes.Statement (.vclz h k d a) := encodes_of_raw _ rfl
theorem Encodes.vperm (h : Hd) (k : MReg) (d a b : VReg) : Encodes.Statement (.vperm h k d a b) := encodes_of_raw _ rfl
theorem Encodes.vshuf (h : Hd) (pat : Fin 5) (k : MReg) (d a b : VReg) : Encodes.Statement (.vshuf h pat k d a b) := encodes_of_raw _ rfl
theorem Encodes.vslide (h : Hd) (up : Bool) (k : MReg) (d a b : VReg) (n : SlAmt) : Encodes.Statement (.vslide h up k d a b n) := by
  cases n <;> exact encodes_of_raw _ rfl
theorem Encodes.vbcast (h : Hd) (k : MReg) (d : VReg) (src : BcSrc) : Encodes.Statement (.vbcast h k d src) := by
  cases src <;> exact encodes_of_raw _ rfl
theorem Encodes.vextr (h : Hd) (sg : Bool) (d : SReg) (a : VReg) (b : SReg) (x : BitVec 16) : Encodes.Statement (.vextr h sg d a b x) := encodes_of_raw _ rfl
theorem Encodes.vins (h : Hd) (d : VReg) (a b : SReg) (x : BitVec 16) : Encodes.Statement (.vins h d a b x) := encodes_of_raw _ rfl
theorem Encodes.vred (h : Hd) (op : Fin 6) (rm : Rnd) (k : MReg) (d : SReg) (a : VReg) : Encodes.Statement (.vred h op rm k d a) := encodes_of_raw _ rfl
theorem Encodes.vscan (h : Hd) (op : Fin 3) (rm : Rnd) (k : MReg) (d a : VReg) : Encodes.Statement (.vscan h op rm k d a) := encodes_of_raw _ rfl
theorem Encodes.vcvt (h : Hd) (t : Fin 7) (rm : Rnd) (k : MReg) (q : BitVec 2) (d a : VReg) : Encodes.Statement (.vcvt h t rm k q d a) := encodes_of_raw _ rfl
theorem Encodes.vtag (h : Hd) (t : Fin 9) (d a : VReg) : Encodes.Statement (.vtag h t d a) := encodes_of_raw _ rfl
theorem Encodes.vqnt (h : Hd) (uns : Bool) (rm : Rnd) (k : MReg) (q : BitVec 2) (d a : VReg) (b : SReg) : Encodes.Statement (.vqnt h uns rm k q d a b) := encodes_of_raw _ rfl
theorem Encodes.vdqnt (h : Hd) (t : Fin 3) (rm : Rnd) (k : MReg) (q : BitVec 2) (d a : VReg) (b : SReg) (n : BitVec 4) (centre : Bool) : Encodes.Statement (.vdqnt h t rm k q d a b n centre) := encodes_of_raw _ rfl
theorem Encodes.vplane (h : Hd) (form : PlaneForm) (d a : VReg) : Encodes.Statement (.vplane h form d a) := by
  cases form <;> exact encodes_of_raw _ rfl
theorem Encodes.vbnd (h : Hd) (form : BndForm) (k : MReg) (a : VReg) (b c : SReg) : Encodes.Statement (.vbnd h form k a b c) := by
  cases form <;> exact encodes_of_raw _ rfl
theorem Encodes.vdot4 (h : Hd) (sat : Bool) (k : MReg) (d a b : VReg) : Encodes.Statement (.vdot4 h sat k d a b) := encodes_of_raw _ rfl
theorem Encodes.vmlog (h : Hd) (op : BitVec 3) (d a b : MReg) : Encodes.Statement (.vmlog h op d a b) := encodes_of_raw _ rfl
theorem Encodes.vmpop (h : Hd) (k : MReg) (d : SReg) (a : MReg) : Encodes.Statement (.vmpop h k d a) := encodes_of_raw _ rfl
theorem Encodes.vmfirst (h : Hd) (last : Bool) (k : MReg) (d : SReg) (a : MReg) : Encodes.Statement (.vmfirst h last k d a) := encodes_of_raw _ rfl
theorem Encodes.ld (h : Hd) (sz : Fin 7) (d a : SReg) (x : BitVec 48) : Encodes.Statement (.ld h sz d a x) := encodes_of_raw _ rfl
theorem Encodes.st (h : Hd) (sz : Fin 4) (a b : SReg) (x : BitVec 48) : Encodes.Statement (.st h sz a b x) := encodes_of_raw _ rfl
theorem Encodes.vld (h : Hd) (tag : Fin 9) (k : MReg) (d : VReg) (a : SReg) (x : BitVec 48) : Encodes.Statement (.vld h tag k d a x) := encodes_of_raw _ rfl
theorem Encodes.vst (h : Hd) (k : MReg) (a : SReg) (b : VReg) (x : BitVec 48) : Encodes.Statement (.vst h k a b x) := encodes_of_raw _ rfl
theorem Encodes.vldx (h : Hd) (tag : Fin 9) (k : MReg) (d : VReg) (a : SReg) (b : VReg) (x : BitVec 48) : Encodes.Statement (.vldx h tag k d a b x) := encodes_of_raw _ rfl
theorem Encodes.vstx (h : Hd) (k : MReg) (a : SReg) (b c : VReg) (x : BitVec 48) : Encodes.Statement (.vstx h k a b c x) := encodes_of_raw _ rfl
theorem Encodes.amoadd (h : Hd) (dbl : Bool) (d a b : SReg) (x : BitVec 48) : Encodes.Statement (.amoadd h dbl d a b x) := encodes_of_raw _ rfl
theorem Encodes.amoswp (h : Hd) (dbl : Bool) (d a b : SReg) (x : BitVec 48) : Encodes.Statement (.amoswp h dbl d a b x) := encodes_of_raw _ rfl
theorem Encodes.amocas (h : Hd) (dbl : Bool) (d a b c : SReg) (x : BitVec 48) : Encodes.Statement (.amocas h dbl d a b c x) := encodes_of_raw _ rfl
theorem Encodes.amomin (h : Hd) (dbl uns : Bool) (d a b : SReg) (x : BitVec 48) : Encodes.Statement (.amomin h dbl uns d a b x) := encodes_of_raw _ rfl
theorem Encodes.amomax (h : Hd) (dbl uns : Bool) (d a b : SReg) (x : BitVec 48) : Encodes.Statement (.amomax h dbl uns d a b x) := encodes_of_raw _ rfl
theorem Encodes.amoand (h : Hd) (dbl : Bool) (d a b : SReg) (x : BitVec 48) : Encodes.Statement (.amoand h dbl d a b x) := encodes_of_raw _ rfl
theorem Encodes.amoor (h : Hd) (dbl : Bool) (d a b : SReg) (x : BitVec 48) : Encodes.Statement (.amoor h dbl d a b x) := encodes_of_raw _ rfl
theorem Encodes.xwsp (h : Hd) (d a : SReg) : Encodes.Statement (.xwsp h d a) := encodes_of_raw _ rfl
theorem Encodes.xwspTask (h : Hd) (d a : SReg) : Encodes.Statement (.xwspTask h d a) := encodes_of_raw _ rfl
theorem Encodes.mfc (h : Hd) (d : SReg) (reg : BitVec 8) (berth : BitVec 4) : Encodes.Statement (.mfc h d reg berth) := encodes_of_raw _ rfl
theorem Encodes.mtc (h : Hd) (a : SReg) (reg : BitVec 8) (berth : BitVec 4) : Encodes.Statement (.mtc h a reg berth) := encodes_of_raw _ rfl
theorem Encodes.trap (h : Hd) (x : BitVec 32) : Encodes.Statement (.trap h x) := encodes_of_raw _ rfl
theorem Encodes.rte (h : Hd) : Encodes.Statement (.rte h) := encodes_of_raw _ rfl
theorem Encodes.svc (h : Hd) (x : BitVec 32) : Encodes.Statement (.svc h x) := encodes_of_raw _ rfl
theorem Encodes.halt (h : Hd) : Encodes.Statement (.halt h) := encodes_of_raw _ rfl
theorem Encodes.fence (h : Hd) (from_ to_ : BitVec 7) : Encodes.Statement (.fence h from_ to_) := encodes_of_raw _ rfl
theorem Encodes.dbgBrk (h : Hd) (x : BitVec 32) : Encodes.Statement (.dbgBrk h x) := encodes_of_raw _ rfl
theorem Encodes.dbgMark (h : Hd) (x : BitVec 32) : Encodes.Statement (.dbgMark h x) := encodes_of_raw _ rfl
theorem Encodes.railUp (h : Hd) : Encodes.Statement (.railUp h) := encodes_of_raw _ rfl
theorem Encodes.railDn (h : Hd) : Encodes.Statement (.railDn h) := encodes_of_raw _ rfl
theorem Encodes.railDenseReached (cluster : Nat) : Encodes.Statement (.railDenseReached cluster) := encodes_of_event _ rfl
theorem Encodes.railNominalReached (cluster : Nat) : Encodes.Statement (.railNominalReached cluster) := encodes_of_event _ rfl
theorem Encodes.yieldm (h : Hd) (d a : SReg) : Encodes.Statement (.yieldm h d a) := encodes_of_raw _ rfl
theorem Encodes.gatedTurn (b : BId) : Encodes.Statement (.gatedTurn b) := encodes_of_event _ rfl
theorem Encodes.pwrst (h : Hd) (d : SReg) : Encodes.Statement (.pwrst h d) := encodes_of_raw _ rfl
theorem Encodes.preemptionStop (b : BId) (sub : Nat) : Encodes.Statement (.preemptionStop b sub) := encodes_of_event _ rfl
theorem Encodes.deferredPreemption (b : BId) : Encodes.Statement (.deferredPreemption b) := encodes_of_event _ rfl
theorem Encodes.mbld (h : Hd) (hn : Handle) : Encodes.Statement (.mbld h hn) := encodes_of_raw _ rfl
theorem Encodes.mbsel (h : Hd) (hn : Handle) : Encodes.Statement (.mbsel h hn) := encodes_of_raw _ rfl
theorem Encodes.mmac (h : Hd) (mode : BitVec 8) (tile : TileNo) (a : SReg) (hn : Handle) (ks : BitVec 7) : Encodes.Statement (.mmac h mode tile a hn ks) := encodes_of_raw _ rfl
theorem Encodes.mmacCompletion (cluster : Nat) : Encodes.Statement (.mmacCompletion cluster) := encodes_of_event _ rfl
theorem Encodes.mmacStop (cluster : Nat) : Encodes.Statement (.mmacStop cluster) := encodes_of_event _ rfl
theorem Encodes.mzero (h : Hd) (f32 : Bool) (d : TileNo) : Encodes.Statement (.mzero h f32 d) := encodes_of_raw _ rfl
theorem Encodes.mbias (h : Hd) (row : Bool) (d : TileNo) (b : VReg) : Encodes.Statement (.mbias h row d b) := encodes_of_raw _ rfl
theorem Encodes.mdrain (h : Hd) (a : TileNo) (b c : SReg) (it : Itin) (nd : BitVec 8) : Encodes.Statement (.mdrain h a b c it nd) := encodes_of_raw _ rfl
theorem Encodes.mdrainWake (h : Hd) (a : TileNo) (b c : SReg) (it : Itin) (nd : BitVec 8) : Encodes.Statement (.mdrainWake h a b c it nd) := encodes_of_raw _ rfl
theorem Encodes.drainGroupEffect (g : DrainGroup) : Encodes.Statement (.drainGroupEffect g) := encodes_of_event _ rfl
theorem Encodes.msave (h : Hd) (a : TileNo) (b : SReg) : Encodes.Statement (.msave h a b) := encodes_of_raw _ rfl
theorem Encodes.mrestore (h : Hd) (d : TileNo) (b : SReg) : Encodes.Statement (.mrestore h d b) := encodes_of_raw _ rfl
theorem Encodes.macroOpCompletion (cluster : Nat) (op : MacroOp) (tile : Nat) : Encodes.Statement (.macroOpCompletion cluster op tile) := encodes_of_event _ rfl
theorem Encodes.mchk (h : Hd) (sel : Fin 3) (d : SReg) (a : TileNo) : Encodes.Statement (.mchk h sel d a) := encodes_of_raw _ rfl
theorem Encodes.mstat (h : Hd) (d : SReg) (form : MstatForm) : Encodes.Statement (.mstat h d form) := by
  cases form <;> exact encodes_of_raw _ rfl
theorem Encodes.ldr (h : Hd) (form : LdForm) (a : SReg) (x : BitVec 48) : Encodes.Statement (.ldr h form a x) := encodes_of_raw _ rfl
theorem Encodes.str (h : Hd) (form : StForm) (a : SReg) (x : BitVec 48) : Encodes.Statement (.str h form a x) := by
  cases form <;> exact encodes_of_raw _ rfl
theorem Encodes.send (h : Hd) (form : SendForm) (a : SReg) (it : Itin) (nd : BitVec 8) : Encodes.Statement (.send h form a it nd) := by
  cases form <;> exact encodes_of_raw _ rfl
theorem Encodes.rld (h : Hd) (form : RldForm) (a : SReg) (it : Itin) (nd : BitVec 8) : Encodes.Statement (.rld h form a it nd) := by
  cases form <;> exact encodes_of_raw _ rfl
theorem Encodes.ramo (h : Hd) (op : Fin 9) (dbl : Bool) (d a b c : SReg) (it : Itin) (nd : BitVec 8) : Encodes.Statement (.ramo h op dbl d a b c it nd) := encodes_of_raw _ rfl
theorem Encodes.wake (h : Hd) (b : SReg) (it : Itin) : Encodes.Statement (.wake h b it) := encodes_of_raw _ rfl
theorem Encodes.wakeEffect (b : BId) : Encodes.Statement (.wakeEffect b) := encodes_of_event _ rfl
theorem Encodes.waitw (h : Hd) (itc : Bool) (d a b : SReg) (x : BitVec 32) : Encodes.Statement (.waitw h itc d a b x) := encodes_of_raw _ rfl
theorem Encodes.waitwWakeSeen (b : BId) : Encodes.Statement (.waitwWakeSeen b) := encodes_of_event _ rfl
theorem Encodes.waitwDeadline (b : BId) : Encodes.Statement (.waitwDeadline b) := encodes_of_event _ rfl
theorem Encodes.mapr (h : Hd) (d a : SReg) (x : BitVec 5) : Encodes.Statement (.mapr h d a x) := encodes_of_raw _ rfl
theorem Encodes.itchk (h : Hd) (f : Fin 3) (d : SReg) (it : Itin) : Encodes.Statement (.itchk h f d it) := encodes_of_raw _ rfl
theorem Encodes.meshPacketDelivery (p : Packet) : Encodes.Statement (.meshPacketDelivery p) := encodes_of_event _ rfl
theorem Encodes.remoteReplyLanding (r : Reply) : Encodes.Statement (.remoteReplyLanding r) := encodes_of_event _ rfl
theorem Encodes.sbw (h : Hd) (dir : Option SReg) (data : BeatData) (a : SReg) (x : BitVec 48) : Encodes.Statement (.sbw h dir data a x) := encodes_of_raw _ rfl
theorem Encodes.sbamo (h : Hd) (op : Fin 9) (dbl : Bool) (d a b c : SReg) (x : BitVec 48) : Encodes.Statement (.sbamo h op dbl d a b c x) := encodes_of_raw _ rfl
theorem Encodes.sbd (h : Hd) (form : LdForm) (a : SReg) (x : BitVec 48) : Encodes.Statement (.sbd h form a x) := encodes_of_raw _ rfl
theorem Encodes.sbmap (h : Hd) (n : BitVec 3) : Encodes.Statement (.sbmap h n) := encodes_of_raw _ rfl
theorem Encodes.sbseq (h : Hd) (f : Fin 3) (d : SReg) : Encodes.Statement (.sbseq h f d) := encodes_of_raw _ rfl
theorem Encodes.stackBeat (b : Beat) : Encodes.Statement (.stackBeat b) := encodes_of_event _ rfl
theorem Encodes.nackResend (b : Beat) : Encodes.Statement (.nackResend b) := encodes_of_event _ rfl
theorem Encodes.directedBeatEffect (b : Beat) : Encodes.Statement (.directedBeatEffect b) := encodes_of_event _ rfl
theorem Encodes.resyncCopyBeat (line : Nat) : Encodes.Statement (.resyncCopyBeat line) := encodes_of_event _ rfl
theorem Encodes.stairw (h : Hd) (dn : Bool) (b : VReg) : Encodes.Statement (.stairw h dn b) := encodes_of_raw _ rfl
theorem Encodes.stairwellEntryWrite (core : Nat) (dn : Bool) (k : Nat) (data : Vec) (tag : BitVec 4) : Encodes.Statement (.stairwellEntryWrite core dn k data tag) := encodes_of_event _ rfl
theorem Encodes.stairr (h : Hd) (dn : Bool) (d : VReg) : Encodes.Statement (.stairr h dn d) := encodes_of_raw _ rfl
theorem Encodes.stairwellCreditReturn (core : Nat) (dn : Bool) : Encodes.Statement (.stairwellCreditReturn core dn) := encodes_of_event _ rfl
theorem Encodes.stairf (h : Hd) (dn : Bool) (d : SReg) : Encodes.Statement (.stairf h dn d) := encodes_of_raw _ rfl
theorem Encodes.tgate (h : Hd) (d a b : SReg) : Encodes.Statement (.tgate h d a b) := encodes_of_raw _ rfl
theorem Encodes.twake (h : Hd) (d a : SReg) : Encodes.Statement (.twake h d a) := encodes_of_raw _ rfl
theorem Encodes.pil (h : Hd) (form : LdForm) (a b : SReg) (x : BitVec 48) : Encodes.Statement (.pil h form a b x) := encodes_of_raw _ rfl
theorem Encodes.pos (h : Hd) (data : BeatData) (a c : SReg) (x : BitVec 48) : Encodes.Statement (.pos h data a c x) := encodes_of_raw _ rfl
theorem Encodes.hallOutputWrite (b : Beat) : Encodes.Statement (.hallOutputWrite b) := encodes_of_event _ rfl
theorem Encodes.stampH (h : Hd) (b : SReg) (hn : Handle) : Encodes.Statement (.stampH h b hn) := encodes_of_raw _ rfl
theorem Encodes.stampO (h : Hd) (b c : SReg) : Encodes.Statement (.stampO h b c) := encodes_of_raw _ rfl
theorem Encodes.stale (h : Hd) (q : Bool) (d : SReg) (hn : Handle) : Encodes.Statement (.stale h q d hn) := encodes_of_raw _ rfl
theorem Encodes.scnr (h : Hd) (f : BitVec 2) (d : SReg) : Encodes.Statement (.scnr h f d) := encodes_of_raw _ rfl
theorem Encodes.ingst (h : Hd) (d : SReg) (form : IngForm) : Encodes.Statement (.ingst h d form) := by
  cases form <;> exact encodes_of_raw _ rfl
theorem Encodes.cpy (h : Hd) (dir : BitVec 2) (d a b c : SReg) (hn : Handle) (win : BitVec 6) : Encodes.Statement (.cpy h dir d a b c hn win) := encodes_of_raw _ rfl
theorem Encodes.courierRequestAccept (part : Nat) (org : Org) (r : CReq) : Encodes.Statement (.courierRequestAccept part org r) := encodes_of_event _ rfl
theorem Encodes.translationMiss (copy : Nat) : Encodes.Statement (.translationMiss copy) := encodes_of_event _ rfl
theorem Encodes.courierInboundBeat (copy : Nat) (seg : Nat) (b : Beat) : Encodes.Statement (.courierInboundBeat copy seg b) := encodes_of_event _ rfl
theorem Encodes.courierOutboundBeat (copy : Nat) (seg : Nat) (b : Beat) : Encodes.Statement (.courierOutboundBeat copy seg b) := encodes_of_event _ rfl
theorem Encodes.sideLogReplay (part : Nat) (vpn : Nat) : Encodes.Statement (.sideLogReplay part vpn) := encodes_of_event _ rfl
theorem Encodes.copyFaultStop (copy : Nat) (fcode : Nat) (row col : Nat) : Encodes.Statement (.copyFaultStop copy fcode row col) := encodes_of_event _ rfl
theorem Encodes.receiptWrite (copy : Nat) (pad : Bool) : Encodes.Statement (.receiptWrite copy pad) := encodes_of_event _ rfl
theorem Encodes.rcptw (h : Hd) (d : SReg) (ring : BitVec 2) (win : BitVec 6) : Encodes.Statement (.rcptw h d ring win) := encodes_of_raw _ rfl
theorem Encodes.rcptwReceiptSeen (b : BId) : Encodes.Statement (.rcptwReceiptSeen b) := encodes_of_event _ rfl
theorem Encodes.rcptwDeadline (b : BId) : Encodes.Statement (.rcptwDeadline b) := encodes_of_event _ rfl
theorem Encodes.rcptr (h : Hd) (d : VReg) (ring : BitVec 2) : Encodes.Statement (.rcptr h d ring) := encodes_of_raw _ rfl
theorem Encodes.tlbwW (h : Hd) (a b : SReg) (idx : BitVec 10) : Encodes.Statement (.tlbwW h a b idx) := encodes_of_raw _ rfl
theorem Encodes.tlbwRes (h : Hd) (a b : SReg) : Encodes.Statement (.tlbwRes h a b) := encodes_of_raw _ rfl
theorem Encodes.tlbi (h : Hd) (form : TlbiForm) : Encodes.Statement (.tlbi h form) := by
  cases form <;> exact encodes_of_raw _ rfl
theorem Encodes.xlget (h : Hd) (d : SReg) : Encodes.Statement (.xlget h d) := encodes_of_raw _ rfl
theorem Encodes.jyld (h : Hd) : Encodes.Statement (.jyld h) := encodes_of_raw _ rfl
theorem Encodes.jbud (h : Hd) (f : Fin 3) (d : SReg) : Encodes.Statement (.jbud h f d) := encodes_of_raw _ rfl
theorem Encodes.preqStop (h : Hd) (d a b : SReg) : Encodes.Statement (.preqStop h d a b) := encodes_of_raw _ rfl
theorem Encodes.preqRel (h : Hd) (d a b : SReg) : Encodes.Statement (.preqRel h d a b) := encodes_of_raw _ rfl
theorem Encodes.budgetEnd (part j : Nat) : Encodes.Statement (.budgetEnd part j) := encodes_of_event _ rfl
theorem Encodes.journeyParked (part j : Nat) : Encodes.Statement (.journeyParked part j) := encodes_of_event _ rfl
theorem Encodes.journeyWindowOpen (part j : Nat) : Encodes.Statement (.journeyWindowOpen part j) := encodes_of_event _ rfl
theorem Encodes.journeyCarry (part j : Nat) : Encodes.Statement (.journeyCarry part j) := encodes_of_event _ rfl
theorem Encodes.psend (h : Hd) (wk : Bool) (data : BeatData) (a c : SReg) (it : Itin) (nd : BitVec 8) : Encodes.Statement (.psend h wk data a c it nd) := encodes_of_raw _ rfl
theorem Encodes.pdigAdd (h : Hd) (a b : SReg) (x : BitVec 48) : Encodes.Statement (.pdigAdd h a b x) := encodes_of_raw _ rfl
theorem Encodes.pdigRd (h : Hd) (d : SReg) : Encodes.Statement (.pdigRd h d) := encodes_of_raw _ rfl
theorem Encodes.prole (h : Hd) (d : SReg) : Encodes.Statement (.prole h d) := encodes_of_raw _ rfl
theorem Encodes.ptakeTake (h : Hd) (d : SReg) : Encodes.Statement (.ptakeTake h d) := encodes_of_raw _ rfl
theorem Encodes.ptakeResign (h : Hd) (d : SReg) : Encodes.Statement (.ptakeResign h d) := encodes_of_raw _ rfl
theorem Encodes.scanOverrun (b : BId) : Encodes.Statement (.scanOverrun b) := encodes_of_event _ rfl
theorem Encodes.phaseMark (core k : Nat) : Encodes.Statement (.phaseMark core k) := encodes_of_event _ rfl
theorem Encodes.rollback (core : Nat) : Encodes.Statement (.rollback core) := encodes_of_event _ rfl
theorem Encodes.deliveryBeat (part row i : Nat) : Encodes.Statement (.deliveryBeat part row i) := encodes_of_event _ rfl
theorem Encodes.egressFrameTransmit (part f : Nat) : Encodes.Statement (.egressFrameTransmit part f) := encodes_of_event _ rfl
theorem Encodes.pairNackResend (p seq : Nat) : Encodes.Statement (.pairNackResend p seq) := encodes_of_event _ rfl
theorem Encodes.pairFrameDeadline (p seq : Nat) : Encodes.Statement (.pairFrameDeadline p seq) := encodes_of_event _ rfl
theorem Encodes.hbDue (p mark : Nat) (dig : Bool) (scn : BitVec 32) : Encodes.Statement (.hbDue p mark dig scn) := encodes_of_event _ rfl
theorem Encodes.roomWriteEffect (w : RoomWr) : Encodes.Statement (.roomWriteEffect w) := encodes_of_event _ rfl
theorem Encodes.farMemoryAccess (copy seg : Nat) (wr : Bool) : Encodes.Statement (.farMemoryAccess copy seg wr) := encodes_of_event _ rfl
theorem Encodes.berthRelease (b : BId) : Encodes.Statement (.berthRelease b) := encodes_of_event _ rfl
theorem Encodes.digestFold (core : Nat) (data : List Word) (psn : Bool) : Encodes.Statement (.digestFold core data psn) := encodes_of_event _ rfl
theorem Encodes.frameReceive (f : Frame) : Encodes.Statement (.frameReceive f) := encodes_of_event _ rfl
theorem Encodes.gateListExchange (n : Nat) (t : EthTable) : Encodes.Statement (.gateListExchange n t) := encodes_of_event _ rfl
theorem Encodes.syncLock : Encodes.Statement (.syncLock) := encodes_of_event _ rfl
theorem Encodes.syncLoss : Encodes.Statement (.syncLoss) := encodes_of_event _ rfl
theorem Encodes.greqStore (c : Nat) (v : Word) : Encodes.Statement (.greqStore c v) := encodes_of_event _ rfl
theorem Encodes.gateResult (c : Nat) : Encodes.Statement (.gateResult c) := encodes_of_event _ rfl
theorem Encodes.commonRoomWindowStore (off len data : Nat) : Encodes.Statement (.commonRoomWindowStore off len data) := encodes_of_event _ rfl
theorem Encodes.outputViewStore (off len data : Nat) : Encodes.Statement (.outputViewStore off len data) := encodes_of_event _ rfl
theorem Encodes.hallRegisterWrite (a : HartAddr) (v : Word) : Encodes.Statement (.hallRegisterWrite a v) := encodes_of_event _ rfl
theorem Encodes.counterReadClear (l : HartLoad) : Encodes.Statement (.counterReadClear l) := encodes_of_event _ rfl
theorem Encodes.plcmdStage (p : Nat) (img : Plan) : Encodes.Statement (.plcmdStage p img) := encodes_of_event _ rfl
theorem Encodes.planVerifyDone (p : Nat) : Encodes.Statement (.planVerifyDone p) := encodes_of_event _ rfl
theorem Encodes.plcmdActivate (p : Nat) : Encodes.Statement (.plcmdActivate p) := encodes_of_event _ rfl
theorem Encodes.planLoadDone (p : Nat) : Encodes.Statement (.planLoadDone p) := encodes_of_event _ rfl
theorem Encodes.plcmdAbort (p : Nat) : Encodes.Statement (.plcmdAbort p) := encodes_of_event _ rfl
theorem Encodes.plcmdStop (p : Nat) : Encodes.Statement (.plcmdStop p) := encodes_of_event _ rfl
theorem Encodes.freqreqWrite (v : Word) : Encodes.Statement (.freqreqWrite v) := encodes_of_event _ rfl
theorem Encodes.railRampComplete : Encodes.Statement (.railRampComplete) := encodes_of_event _ rfl
theorem Encodes.undervoltAdjust (cluster : Nat) (lower : Bool) : Encodes.Statement (.undervoltAdjust cluster lower) := encodes_of_event _ rfl
theorem Encodes.thermalSample (temps : List Nat) : Encodes.Statement (.thermalSample temps) := encodes_of_event _ rfl
theorem Encodes.firmwareRepairAction (r : Repair) : Encodes.Statement (.firmwareRepairAction r) := encodes_of_event _ rfl
theorem Encodes.testPackageApply (t : TestPkg) : Encodes.Statement (.testPackageApply t) := encodes_of_event _ rfl
theorem Encodes.freezeRequest (src : FreezeSrc) : Encodes.Statement (.freezeRequest src) := encodes_of_event _ rfl
theorem Encodes.reset : Encodes.Statement (.reset) := encodes_of_event _ rfl
theorem Encodes.aonPowerUp : Encodes.Statement (.aonPowerUp) := encodes_of_event _ rfl
theorem Encodes.boot (imgs : BootImages) : Encodes.Statement (.boot imgs) := encodes_of_event _ rfl
theorem Encodes.fuseBlow (field minimum : Nat) (signed : Bool) : Encodes.Statement (.fuseBlow field minimum signed) := encodes_of_event _ rfl
theorem Encodes.attcmdWrite (p : Nat) (v : Word) : Encodes.Statement (.attcmdWrite p v) := encodes_of_event _ rfl
theorem Encodes.ppsPulse : Encodes.Statement (.ppsPulse) := encodes_of_event _ rfl
theorem Encodes.pairFrameReceive (f : PairFrame) : Encodes.Statement (.pairFrameReceive f) := encodes_of_event _ rfl
theorem Encodes.hallSramStore (off len data : Nat) : Encodes.Statement (.hallSramStore off len data) := encodes_of_event _ rfl
theorem Encodes.attestationReportDone (p : Nat) : Encodes.Statement (.attestationReportDone p) := encodes_of_event _ rfl
theorem Encodes.testPackageDone : Encodes.Statement (.testPackageDone) := encodes_of_event _ rfl
theorem Encodes.hostBootImageWrite (img : FwImage) : Encodes.Statement (.hostBootImageWrite img) := encodes_of_event _ rfl
theorem Encodes.supplyLoss : Encodes.Statement (.supplyLoss) := encodes_of_event _ rfl
theorem Encodes.partitionConfigure (p : Nat) (r : PartRow) : Encodes.Statement (.partitionConfigure p r) := encodes_of_event _ rfl
theorem Encodes.scanEdge : Encodes.Statement (.scanEdge) := encodes_of_event _ rfl
theorem Encodes.patrolScrub (a : ScrubArr) : Encodes.Statement (.patrolScrub a) := encodes_of_event _ rfl
theorem Encodes.decisionPoint (p : Nat) : Encodes.Statement (.decisionPoint p) := encodes_of_event _ rfl
theorem Encodes.rsyLineSend (p line : Nat) : Encodes.Statement (.rsyLineSend p line) := encodes_of_event _ rfl
theorem Encodes.tierGateEffect (tier : Nat) : Encodes.Statement (.tierGateEffect tier) := encodes_of_event _ rfl
theorem Encodes.tierWakeW (tier : Nat) : Encodes.Statement (.tierWakeW tier) := encodes_of_event _ rfl
theorem Encodes.qbvWindowOpening (port tclass : Nat) : Encodes.Statement (.qbvWindowOpening port tclass) := encodes_of_event _ rfl

end Sys2Proof.Laws
end

