-- ==== Sys2Proof/Laws/State.lean ====
section
/-! SUPPORT. What each update of State leaves alone, field by field: one lemma per field and update, true by unfolding. -/

namespace Sys2Proof.Machine.State

variable (s : State)

/-! ## setCore -/

@[simp] theorem setCore_acc (n : Nat) (c : Core) : (s.setCore n c).acc = s.acc := rfl
@[simp] theorem setCore_gt (n : Nat) (c : Core) : (s.setCore n c).gt = s.gt := rfl
@[simp] theorem setCore_mem (n : Nat) (c : Core) : (s.setCore n c).mem = s.mem := rfl
@[simp] theorem setCore_badUnits (n : Nat) (c : Core) : (s.setCore n c).badUnits = s.badUnits := rfl
@[simp] theorem setCore_psnUnits (n : Nat) (c : Core) : (s.setCore n c).psnUnits = s.psnUnits := rfl
@[simp] theorem setCore_ecc (n : Nat) (c : Core) : (s.setCore n c).ecc = s.ecc := rfl
@[simp] theorem setCore_undrained (n : Nat) (c : Core) : (s.setCore n c).undrained = s.undrained := rfl
@[simp] theorem setCore_kept (n : Nat) (c : Core) : (s.setCore n c).kept = s.kept := rfl
@[simp] theorem setCore_clusters (n : Nat) (c : Core) : (s.setCore n c).clusters = s.clusters := rfl
@[simp] theorem setCore_tiers (n : Nat) (c : Core) : (s.setCore n c).tiers = s.tiers := rfl
@[simp] theorem setCore_parts (n : Nat) (c : Core) : (s.setCore n c).parts = s.parts := rfl
@[simp] theorem setCore_rsySent (n : Nat) (c : Core) : (s.setCore n c).rsySent = s.rsySent := rfl
@[simp] theorem setCore_scrubs (n : Nat) (c : Core) : (s.setCore n c).scrubs = s.scrubs := rfl
@[simp] theorem setCore_undoLogs (n : Nat) (c : Core) : (s.setCore n c).undoLogs = s.undoLogs := rfl
@[simp] theorem setCore_undoOvf (n : Nat) (c : Core) : (s.setCore n c).undoOvf = s.undoOvf := rfl
@[simp] theorem setCore_freq (n : Nat) (c : Core) : (s.setCore n c).freq = s.freq := rfl
@[simp] theorem setCore_fuses (n : Nat) (c : Core) : (s.setCore n c).fuses = s.fuses := rfl
@[simp] theorem setCore_boot (n : Nat) (c : Core) : (s.setCore n c).boot = s.boot := rfl
@[simp] theorem setCore_aon (n : Nat) (c : Core) : (s.setCore n c).aon = s.aon := rfl
@[simp] theorem setCore_test (n : Nat) (c : Core) : (s.setCore n c).test = s.test := rfl
@[simp] theorem setCore_ticks (n : Nat) (c : Core) : (s.setCore n c).ticks = s.ticks := rfl
@[simp] theorem setCore_hall (n : Nat) (c : Core) : (s.setCore n c).hall = s.hall := rfl
@[simp] theorem setCore_courier (n : Nat) (c : Core) : (s.setCore n c).courier = s.courier := rfl
@[simp] theorem setCore_seq (n : Nat) (c : Core) : (s.setCore n c).seq = s.seq := rfl
@[simp] theorem setCore_ports (n : Nat) (c : Core) : (s.setCore n c).ports = s.ports := rfl
@[simp] theorem setCore_filters (n : Nat) (c : Core) : (s.setCore n c).filters = s.filters := rfl
@[simp] theorem setCore_streamGates (n : Nat) (c : Core) : (s.setCore n c).streamGates = s.streamGates := rfl
@[simp] theorem setCore_meters (n : Nat) (c : Core) : (s.setCore n c).meters = s.meters := rfl
@[simp] theorem setCore_crPairs (n : Nat) (c : Core) : (s.setCore n c).crPairs = s.crPairs := rfl
@[simp] theorem setCore_recovery (n : Nat) (c : Core) : (s.setCore n c).recovery = s.recovery := rfl
@[simp] theorem setCore_replicas (n : Nat) (c : Core) : (s.setCore n c).replicas = s.replicas := rfl
@[simp] theorem setCore_slavePort (n : Nat) (c : Core) : (s.setCore n c).slavePort = s.slavePort := rfl
@[simp] theorem setCore_harts (n : Nat) (c : Core) : (s.setCore n c).harts = s.harts := rfl
@[simp] theorem setCore_planImages (n : Nat) (c : Core) : (s.setCore n c).planImages = s.planImages := rfl
@[simp] theorem setCore_gates (n : Nat) (c : Core) : (s.setCore n c).gates = s.gates := rfl
@[simp] theorem setCore_timed (n : Nat) (c : Core) : (s.setCore n c).timed = s.timed := rfl
@[simp] theorem setCore_flights (n : Nat) (c : Core) : (s.setCore n c).flights = s.flights := rfl
@[simp] theorem setCore_upsets (n : Nat) (c : Core) : (s.setCore n c).upsets = s.upsets := rfl
@[simp] theorem setCore_servo (n : Nat) (c : Core) : (s.setCore n c).servo = s.servo := rfl
@[simp] theorem setCore_farOld (n : Nat) (c : Core) : (s.setCore n c).farOld = s.farOld := rfl
@[simp] theorem setCore_free (n : Nat) (c : Core) : (s.setCore n c).free = s.free := rfl
@[simp] theorem setCore_recNotes (n : Nat) (c : Core) : (s.setCore n c).recNotes = s.recNotes := rfl
@[simp] theorem setCore_ended (n : Nat) (c : Core) : (s.setCore n c).ended = s.ended := rfl
@[simp] theorem setCore_faults (n : Nat) (c : Core) : (s.setCore n c).faults = s.faults := rfl
@[simp] theorem setCore_scans (n : Nat) (c : Core) : (s.setCore n c).scans = s.scans := rfl
@[simp] theorem setCore_oldNotes (n : Nat) (c : Core) : (s.setCore n c).oldNotes = s.oldNotes := rfl
@[simp] theorem setCore_oldLogs (n : Nat) (c : Core) : (s.setCore n c).oldLogs = s.oldLogs := rfl
@[simp] theorem setCore_oldOvf (n : Nat) (c : Core) : (s.setCore n c).oldOvf = s.oldOvf := rfl
@[simp] theorem setCore_contlog (n : Nat) (c : Core) : (s.setCore n c).contlog = s.contlog := rfl
@[simp] theorem setCore_logs (n : Nat) (c : Core) : (s.setCore n c).logs = s.logs := rfl
@[simp] theorem setCore_agenda (n : Nat) (c : Core) : (s.setCore n c).agenda = s.agenda := rfl
@[simp] theorem setCore_nextId (n : Nat) (c : Core) : (s.setCore n c).nextId = s.nextId := rfl
@[simp] theorem setCore_inputs (n : Nat) (c : Core) : (s.setCore n c).inputs = s.inputs := rfl
@[simp] theorem setCore_gateReq (n : Nat) (c : Core) : (s.setCore n c).gateReq = s.gateReq := rfl
@[simp] theorem setCore_turnCore (n : Nat) (c : Core) : (s.setCore n c).turnCore = s.turnCore := rfl
@[simp] theorem setCore_denials (n : Nat) (c : Core) : (s.setCore n c).denials = s.denials := rfl
@[simp] theorem setCore_portWrites (n : Nat) (c : Core) : (s.setCore n c).portWrites = s.portWrites := rfl
@[simp] theorem setCore_words (n : Nat) (c : Core) : (s.setCore n c).words = s.words := rfl
@[simp] theorem setCore_cur (n : Nat) (c : Core) : (s.setCore n c).cur = s.cur := rfl

/-! ## setBerth -/

@[simp] theorem setBerth_acc (c b : Nat) (x : Berth) : (s.setBerth c b x).acc = s.acc := rfl
@[simp] theorem setBerth_gt (c b : Nat) (x : Berth) : (s.setBerth c b x).gt = s.gt := rfl
@[simp] theorem setBerth_mem (c b : Nat) (x : Berth) : (s.setBerth c b x).mem = s.mem := rfl
@[simp] theorem setBerth_badUnits (c b : Nat) (x : Berth) : (s.setBerth c b x).badUnits = s.badUnits := rfl
@[simp] theorem setBerth_psnUnits (c b : Nat) (x : Berth) : (s.setBerth c b x).psnUnits = s.psnUnits := rfl
@[simp] theorem setBerth_ecc (c b : Nat) (x : Berth) : (s.setBerth c b x).ecc = s.ecc := rfl
@[simp] theorem setBerth_undrained (c b : Nat) (x : Berth) : (s.setBerth c b x).undrained = s.undrained := rfl
@[simp] theorem setBerth_kept (c b : Nat) (x : Berth) : (s.setBerth c b x).kept = s.kept := rfl
@[simp] theorem setBerth_clusters (c b : Nat) (x : Berth) : (s.setBerth c b x).clusters = s.clusters := rfl
@[simp] theorem setBerth_tiers (c b : Nat) (x : Berth) : (s.setBerth c b x).tiers = s.tiers := rfl
@[simp] theorem setBerth_parts (c b : Nat) (x : Berth) : (s.setBerth c b x).parts = s.parts := rfl
@[simp] theorem setBerth_rsySent (c b : Nat) (x : Berth) : (s.setBerth c b x).rsySent = s.rsySent := rfl
@[simp] theorem setBerth_scrubs (c b : Nat) (x : Berth) : (s.setBerth c b x).scrubs = s.scrubs := rfl
@[simp] theorem setBerth_undoLogs (c b : Nat) (x : Berth) : (s.setBerth c b x).undoLogs = s.undoLogs := rfl
@[simp] theorem setBerth_undoOvf (c b : Nat) (x : Berth) : (s.setBerth c b x).undoOvf = s.undoOvf := rfl
@[simp] theorem setBerth_freq (c b : Nat) (x : Berth) : (s.setBerth c b x).freq = s.freq := rfl
@[simp] theorem setBerth_fuses (c b : Nat) (x : Berth) : (s.setBerth c b x).fuses = s.fuses := rfl
@[simp] theorem setBerth_boot (c b : Nat) (x : Berth) : (s.setBerth c b x).boot = s.boot := rfl
@[simp] theorem setBerth_aon (c b : Nat) (x : Berth) : (s.setBerth c b x).aon = s.aon := rfl
@[simp] theorem setBerth_test (c b : Nat) (x : Berth) : (s.setBerth c b x).test = s.test := rfl
@[simp] theorem setBerth_ticks (c b : Nat) (x : Berth) : (s.setBerth c b x).ticks = s.ticks := rfl
@[simp] theorem setBerth_hall (c b : Nat) (x : Berth) : (s.setBerth c b x).hall = s.hall := rfl
@[simp] theorem setBerth_courier (c b : Nat) (x : Berth) : (s.setBerth c b x).courier = s.courier := rfl
@[simp] theorem setBerth_seq (c b : Nat) (x : Berth) : (s.setBerth c b x).seq = s.seq := rfl
@[simp] theorem setBerth_ports (c b : Nat) (x : Berth) : (s.setBerth c b x).ports = s.ports := rfl
@[simp] theorem setBerth_filters (c b : Nat) (x : Berth) : (s.setBerth c b x).filters = s.filters := rfl
@[simp] theorem setBerth_streamGates (c b : Nat) (x : Berth) : (s.setBerth c b x).streamGates = s.streamGates := rfl
@[simp] theorem setBerth_meters (c b : Nat) (x : Berth) : (s.setBerth c b x).meters = s.meters := rfl
@[simp] theorem setBerth_crPairs (c b : Nat) (x : Berth) : (s.setBerth c b x).crPairs = s.crPairs := rfl
@[simp] theorem setBerth_recovery (c b : Nat) (x : Berth) : (s.setBerth c b x).recovery = s.recovery := rfl
@[simp] theorem setBerth_replicas (c b : Nat) (x : Berth) : (s.setBerth c b x).replicas = s.replicas := rfl
@[simp] theorem setBerth_slavePort (c b : Nat) (x : Berth) : (s.setBerth c b x).slavePort = s.slavePort := rfl
@[simp] theorem setBerth_harts (c b : Nat) (x : Berth) : (s.setBerth c b x).harts = s.harts := rfl
@[simp] theorem setBerth_planImages (c b : Nat) (x : Berth) : (s.setBerth c b x).planImages = s.planImages := rfl
@[simp] theorem setBerth_gates (c b : Nat) (x : Berth) : (s.setBerth c b x).gates = s.gates := rfl
@[simp] theorem setBerth_timed (c b : Nat) (x : Berth) : (s.setBerth c b x).timed = s.timed := rfl
@[simp] theorem setBerth_flights (c b : Nat) (x : Berth) : (s.setBerth c b x).flights = s.flights := rfl
@[simp] theorem setBerth_upsets (c b : Nat) (x : Berth) : (s.setBerth c b x).upsets = s.upsets := rfl
@[simp] theorem setBerth_servo (c b : Nat) (x : Berth) : (s.setBerth c b x).servo = s.servo := rfl
@[simp] theorem setBerth_farOld (c b : Nat) (x : Berth) : (s.setBerth c b x).farOld = s.farOld := rfl
@[simp] theorem setBerth_free (c b : Nat) (x : Berth) : (s.setBerth c b x).free = s.free := rfl
@[simp] theorem setBerth_recNotes (c b : Nat) (x : Berth) : (s.setBerth c b x).recNotes = s.recNotes := rfl
@[simp] theorem setBerth_ended (c b : Nat) (x : Berth) : (s.setBerth c b x).ended = s.ended := rfl
@[simp] theorem setBerth_faults (c b : Nat) (x : Berth) : (s.setBerth c b x).faults = s.faults := rfl
@[simp] theorem setBerth_scans (c b : Nat) (x : Berth) : (s.setBerth c b x).scans = s.scans := rfl
@[simp] theorem setBerth_oldNotes (c b : Nat) (x : Berth) : (s.setBerth c b x).oldNotes = s.oldNotes := rfl
@[simp] theorem setBerth_oldLogs (c b : Nat) (x : Berth) : (s.setBerth c b x).oldLogs = s.oldLogs := rfl
@[simp] theorem setBerth_oldOvf (c b : Nat) (x : Berth) : (s.setBerth c b x).oldOvf = s.oldOvf := rfl
@[simp] theorem setBerth_contlog (c b : Nat) (x : Berth) : (s.setBerth c b x).contlog = s.contlog := rfl
@[simp] theorem setBerth_logs (c b : Nat) (x : Berth) : (s.setBerth c b x).logs = s.logs := rfl
@[simp] theorem setBerth_agenda (c b : Nat) (x : Berth) : (s.setBerth c b x).agenda = s.agenda := rfl
@[simp] theorem setBerth_nextId (c b : Nat) (x : Berth) : (s.setBerth c b x).nextId = s.nextId := rfl
@[simp] theorem setBerth_inputs (c b : Nat) (x : Berth) : (s.setBerth c b x).inputs = s.inputs := rfl
@[simp] theorem setBerth_gateReq (c b : Nat) (x : Berth) : (s.setBerth c b x).gateReq = s.gateReq := rfl
@[simp] theorem setBerth_turnCore (c b : Nat) (x : Berth) : (s.setBerth c b x).turnCore = s.turnCore := rfl
@[simp] theorem setBerth_denials (c b : Nat) (x : Berth) : (s.setBerth c b x).denials = s.denials := rfl
@[simp] theorem setBerth_portWrites (c b : Nat) (x : Berth) : (s.setBerth c b x).portWrites = s.portWrites := rfl
@[simp] theorem setBerth_words (c b : Nat) (x : Berth) : (s.setBerth c b x).words = s.words := rfl
@[simp] theorem setBerth_cur (c b : Nat) (x : Berth) : (s.setBerth c b x).cur = s.cur := rfl

/-! ## setCluster -/

@[simp] theorem setCluster_acc (n : Nat) (c : Cluster) : (s.setCluster n c).acc = s.acc := rfl
@[simp] theorem setCluster_gt (n : Nat) (c : Cluster) : (s.setCluster n c).gt = s.gt := rfl
@[simp] theorem setCluster_mem (n : Nat) (c : Cluster) : (s.setCluster n c).mem = s.mem := rfl
@[simp] theorem setCluster_badUnits (n : Nat) (c : Cluster) : (s.setCluster n c).badUnits = s.badUnits := rfl
@[simp] theorem setCluster_psnUnits (n : Nat) (c : Cluster) : (s.setCluster n c).psnUnits = s.psnUnits := rfl
@[simp] theorem setCluster_ecc (n : Nat) (c : Cluster) : (s.setCluster n c).ecc = s.ecc := rfl
@[simp] theorem setCluster_undrained (n : Nat) (c : Cluster) : (s.setCluster n c).undrained = s.undrained := rfl
@[simp] theorem setCluster_kept (n : Nat) (c : Cluster) : (s.setCluster n c).kept = s.kept := rfl
@[simp] theorem setCluster_cores (n : Nat) (c : Cluster) : (s.setCluster n c).cores = s.cores := rfl
@[simp] theorem setCluster_tiers (n : Nat) (c : Cluster) : (s.setCluster n c).tiers = s.tiers := rfl
@[simp] theorem setCluster_parts (n : Nat) (c : Cluster) : (s.setCluster n c).parts = s.parts := rfl
@[simp] theorem setCluster_rsySent (n : Nat) (c : Cluster) : (s.setCluster n c).rsySent = s.rsySent := rfl
@[simp] theorem setCluster_scrubs (n : Nat) (c : Cluster) : (s.setCluster n c).scrubs = s.scrubs := rfl
@[simp] theorem setCluster_undoLogs (n : Nat) (c : Cluster) : (s.setCluster n c).undoLogs = s.undoLogs := rfl
@[simp] theorem setCluster_undoOvf (n : Nat) (c : Cluster) : (s.setCluster n c).undoOvf = s.undoOvf := rfl
@[simp] theorem setCluster_freq (n : Nat) (c : Cluster) : (s.setCluster n c).freq = s.freq := rfl
@[simp] theorem setCluster_fuses (n : Nat) (c : Cluster) : (s.setCluster n c).fuses = s.fuses := rfl
@[simp] theorem setCluster_boot (n : Nat) (c : Cluster) : (s.setCluster n c).boot = s.boot := rfl
@[simp] theorem setCluster_aon (n : Nat) (c : Cluster) : (s.setCluster n c).aon = s.aon := rfl
@[simp] theorem setCluster_test (n : Nat) (c : Cluster) : (s.setCluster n c).test = s.test := rfl
@[simp] theorem setCluster_ticks (n : Nat) (c : Cluster) : (s.setCluster n c).ticks = s.ticks := rfl
@[simp] theorem setCluster_hall (n : Nat) (c : Cluster) : (s.setCluster n c).hall = s.hall := rfl
@[simp] theorem setCluster_courier (n : Nat) (c : Cluster) : (s.setCluster n c).courier = s.courier := rfl
@[simp] theorem setCluster_seq (n : Nat) (c : Cluster) : (s.setCluster n c).seq = s.seq := rfl
@[simp] theorem setCluster_ports (n : Nat) (c : Cluster) : (s.setCluster n c).ports = s.ports := rfl
@[simp] theorem setCluster_filters (n : Nat) (c : Cluster) : (s.setCluster n c).filters = s.filters := rfl
@[simp] theorem setCluster_streamGates (n : Nat) (c : Cluster) : (s.setCluster n c).streamGates = s.streamGates := rfl
@[simp] theorem setCluster_meters (n : Nat) (c : Cluster) : (s.setCluster n c).meters = s.meters := rfl
@[simp] theorem setCluster_crPairs (n : Nat) (c : Cluster) : (s.setCluster n c).crPairs = s.crPairs := rfl
@[simp] theorem setCluster_recovery (n : Nat) (c : Cluster) : (s.setCluster n c).recovery = s.recovery := rfl
@[simp] theorem setCluster_replicas (n : Nat) (c : Cluster) : (s.setCluster n c).replicas = s.replicas := rfl
@[simp] theorem setCluster_slavePort (n : Nat) (c : Cluster) : (s.setCluster n c).slavePort = s.slavePort := rfl
@[simp] theorem setCluster_harts (n : Nat) (c : Cluster) : (s.setCluster n c).harts = s.harts := rfl
@[simp] theorem setCluster_planImages (n : Nat) (c : Cluster) : (s.setCluster n c).planImages = s.planImages := rfl
@[simp] theorem setCluster_gates (n : Nat) (c : Cluster) : (s.setCluster n c).gates = s.gates := rfl
@[simp] theorem setCluster_timed (n : Nat) (c : Cluster) : (s.setCluster n c).timed = s.timed := rfl
@[simp] theorem setCluster_flights (n : Nat) (c : Cluster) : (s.setCluster n c).flights = s.flights := rfl
@[simp] theorem setCluster_upsets (n : Nat) (c : Cluster) : (s.setCluster n c).upsets = s.upsets := rfl
@[simp] theorem setCluster_servo (n : Nat) (c : Cluster) : (s.setCluster n c).servo = s.servo := rfl
@[simp] theorem setCluster_farOld (n : Nat) (c : Cluster) : (s.setCluster n c).farOld = s.farOld := rfl
@[simp] theorem setCluster_free (n : Nat) (c : Cluster) : (s.setCluster n c).free = s.free := rfl
@[simp] theorem setCluster_recNotes (n : Nat) (c : Cluster) : (s.setCluster n c).recNotes = s.recNotes := rfl
@[simp] theorem setCluster_ended (n : Nat) (c : Cluster) : (s.setCluster n c).ended = s.ended := rfl
@[simp] theorem setCluster_faults (n : Nat) (c : Cluster) : (s.setCluster n c).faults = s.faults := rfl
@[simp] theorem setCluster_scans (n : Nat) (c : Cluster) : (s.setCluster n c).scans = s.scans := rfl
@[simp] theorem setCluster_oldNotes (n : Nat) (c : Cluster) : (s.setCluster n c).oldNotes = s.oldNotes := rfl
@[simp] theorem setCluster_oldLogs (n : Nat) (c : Cluster) : (s.setCluster n c).oldLogs = s.oldLogs := rfl
@[simp] theorem setCluster_oldOvf (n : Nat) (c : Cluster) : (s.setCluster n c).oldOvf = s.oldOvf := rfl
@[simp] theorem setCluster_contlog (n : Nat) (c : Cluster) : (s.setCluster n c).contlog = s.contlog := rfl
@[simp] theorem setCluster_logs (n : Nat) (c : Cluster) : (s.setCluster n c).logs = s.logs := rfl
@[simp] theorem setCluster_agenda (n : Nat) (c : Cluster) : (s.setCluster n c).agenda = s.agenda := rfl
@[simp] theorem setCluster_nextId (n : Nat) (c : Cluster) : (s.setCluster n c).nextId = s.nextId := rfl
@[simp] theorem setCluster_inputs (n : Nat) (c : Cluster) : (s.setCluster n c).inputs = s.inputs := rfl
@[simp] theorem setCluster_gateReq (n : Nat) (c : Cluster) : (s.setCluster n c).gateReq = s.gateReq := rfl
@[simp] theorem setCluster_turnCore (n : Nat) (c : Cluster) : (s.setCluster n c).turnCore = s.turnCore := rfl
@[simp] theorem setCluster_denials (n : Nat) (c : Cluster) : (s.setCluster n c).denials = s.denials := rfl
@[simp] theorem setCluster_portWrites (n : Nat) (c : Cluster) : (s.setCluster n c).portWrites = s.portWrites := rfl
@[simp] theorem setCluster_words (n : Nat) (c : Cluster) : (s.setCluster n c).words = s.words := rfl
@[simp] theorem setCluster_cur (n : Nat) (c : Cluster) : (s.setCluster n c).cur = s.cur := rfl

/-! ## setTier -/

@[simp] theorem setTier_acc (n : Nat) (c : Tier) : (s.setTier n c).acc = s.acc := rfl
@[simp] theorem setTier_gt (n : Nat) (c : Tier) : (s.setTier n c).gt = s.gt := rfl
@[simp] theorem setTier_mem (n : Nat) (c : Tier) : (s.setTier n c).mem = s.mem := rfl
@[simp] theorem setTier_badUnits (n : Nat) (c : Tier) : (s.setTier n c).badUnits = s.badUnits := rfl
@[simp] theorem setTier_psnUnits (n : Nat) (c : Tier) : (s.setTier n c).psnUnits = s.psnUnits := rfl
@[simp] theorem setTier_ecc (n : Nat) (c : Tier) : (s.setTier n c).ecc = s.ecc := rfl
@[simp] theorem setTier_undrained (n : Nat) (c : Tier) : (s.setTier n c).undrained = s.undrained := rfl
@[simp] theorem setTier_kept (n : Nat) (c : Tier) : (s.setTier n c).kept = s.kept := rfl
@[simp] theorem setTier_cores (n : Nat) (c : Tier) : (s.setTier n c).cores = s.cores := rfl
@[simp] theorem setTier_clusters (n : Nat) (c : Tier) : (s.setTier n c).clusters = s.clusters := rfl
@[simp] theorem setTier_parts (n : Nat) (c : Tier) : (s.setTier n c).parts = s.parts := rfl
@[simp] theorem setTier_rsySent (n : Nat) (c : Tier) : (s.setTier n c).rsySent = s.rsySent := rfl
@[simp] theorem setTier_scrubs (n : Nat) (c : Tier) : (s.setTier n c).scrubs = s.scrubs := rfl
@[simp] theorem setTier_undoLogs (n : Nat) (c : Tier) : (s.setTier n c).undoLogs = s.undoLogs := rfl
@[simp] theorem setTier_undoOvf (n : Nat) (c : Tier) : (s.setTier n c).undoOvf = s.undoOvf := rfl
@[simp] theorem setTier_freq (n : Nat) (c : Tier) : (s.setTier n c).freq = s.freq := rfl
@[simp] theorem setTier_fuses (n : Nat) (c : Tier) : (s.setTier n c).fuses = s.fuses := rfl
@[simp] theorem setTier_boot (n : Nat) (c : Tier) : (s.setTier n c).boot = s.boot := rfl
@[simp] theorem setTier_aon (n : Nat) (c : Tier) : (s.setTier n c).aon = s.aon := rfl
@[simp] theorem setTier_test (n : Nat) (c : Tier) : (s.setTier n c).test = s.test := rfl
@[simp] theorem setTier_ticks (n : Nat) (c : Tier) : (s.setTier n c).ticks = s.ticks := rfl
@[simp] theorem setTier_hall (n : Nat) (c : Tier) : (s.setTier n c).hall = s.hall := rfl
@[simp] theorem setTier_courier (n : Nat) (c : Tier) : (s.setTier n c).courier = s.courier := rfl
@[simp] theorem setTier_seq (n : Nat) (c : Tier) : (s.setTier n c).seq = s.seq := rfl
@[simp] theorem setTier_ports (n : Nat) (c : Tier) : (s.setTier n c).ports = s.ports := rfl
@[simp] theorem setTier_filters (n : Nat) (c : Tier) : (s.setTier n c).filters = s.filters := rfl
@[simp] theorem setTier_streamGates (n : Nat) (c : Tier) : (s.setTier n c).streamGates = s.streamGates := rfl
@[simp] theorem setTier_meters (n : Nat) (c : Tier) : (s.setTier n c).meters = s.meters := rfl
@[simp] theorem setTier_crPairs (n : Nat) (c : Tier) : (s.setTier n c).crPairs = s.crPairs := rfl
@[simp] theorem setTier_recovery (n : Nat) (c : Tier) : (s.setTier n c).recovery = s.recovery := rfl
@[simp] theorem setTier_replicas (n : Nat) (c : Tier) : (s.setTier n c).replicas = s.replicas := rfl
@[simp] theorem setTier_slavePort (n : Nat) (c : Tier) : (s.setTier n c).slavePort = s.slavePort := rfl
@[simp] theorem setTier_harts (n : Nat) (c : Tier) : (s.setTier n c).harts = s.harts := rfl
@[simp] theorem setTier_planImages (n : Nat) (c : Tier) : (s.setTier n c).planImages = s.planImages := rfl
@[simp] theorem setTier_gates (n : Nat) (c : Tier) : (s.setTier n c).gates = s.gates := rfl
@[simp] theorem setTier_timed (n : Nat) (c : Tier) : (s.setTier n c).timed = s.timed := rfl
@[simp] theorem setTier_flights (n : Nat) (c : Tier) : (s.setTier n c).flights = s.flights := rfl
@[simp] theorem setTier_upsets (n : Nat) (c : Tier) : (s.setTier n c).upsets = s.upsets := rfl
@[simp] theorem setTier_servo (n : Nat) (c : Tier) : (s.setTier n c).servo = s.servo := rfl
@[simp] theorem setTier_farOld (n : Nat) (c : Tier) : (s.setTier n c).farOld = s.farOld := rfl
@[simp] theorem setTier_free (n : Nat) (c : Tier) : (s.setTier n c).free = s.free := rfl
@[simp] theorem setTier_recNotes (n : Nat) (c : Tier) : (s.setTier n c).recNotes = s.recNotes := rfl
@[simp] theorem setTier_ended (n : Nat) (c : Tier) : (s.setTier n c).ended = s.ended := rfl
@[simp] theorem setTier_faults (n : Nat) (c : Tier) : (s.setTier n c).faults = s.faults := rfl
@[simp] theorem setTier_scans (n : Nat) (c : Tier) : (s.setTier n c).scans = s.scans := rfl
@[simp] theorem setTier_oldNotes (n : Nat) (c : Tier) : (s.setTier n c).oldNotes = s.oldNotes := rfl
@[simp] theorem setTier_oldLogs (n : Nat) (c : Tier) : (s.setTier n c).oldLogs = s.oldLogs := rfl
@[simp] theorem setTier_oldOvf (n : Nat) (c : Tier) : (s.setTier n c).oldOvf = s.oldOvf := rfl
@[simp] theorem setTier_contlog (n : Nat) (c : Tier) : (s.setTier n c).contlog = s.contlog := rfl
@[simp] theorem setTier_logs (n : Nat) (c : Tier) : (s.setTier n c).logs = s.logs := rfl
@[simp] theorem setTier_agenda (n : Nat) (c : Tier) : (s.setTier n c).agenda = s.agenda := rfl
@[simp] theorem setTier_nextId (n : Nat) (c : Tier) : (s.setTier n c).nextId = s.nextId := rfl
@[simp] theorem setTier_inputs (n : Nat) (c : Tier) : (s.setTier n c).inputs = s.inputs := rfl
@[simp] theorem setTier_gateReq (n : Nat) (c : Tier) : (s.setTier n c).gateReq = s.gateReq := rfl
@[simp] theorem setTier_turnCore (n : Nat) (c : Tier) : (s.setTier n c).turnCore = s.turnCore := rfl
@[simp] theorem setTier_denials (n : Nat) (c : Tier) : (s.setTier n c).denials = s.denials := rfl
@[simp] theorem setTier_portWrites (n : Nat) (c : Tier) : (s.setTier n c).portWrites = s.portWrites := rfl
@[simp] theorem setTier_words (n : Nat) (c : Tier) : (s.setTier n c).words = s.words := rfl
@[simp] theorem setTier_cur (n : Nat) (c : Tier) : (s.setTier n c).cur = s.cur := rfl

/-! ## setPart -/

@[simp] theorem setPart_acc (n : Nat) (c : Part) : (s.setPart n c).acc = s.acc := rfl
@[simp] theorem setPart_gt (n : Nat) (c : Part) : (s.setPart n c).gt = s.gt := rfl
@[simp] theorem setPart_mem (n : Nat) (c : Part) : (s.setPart n c).mem = s.mem := rfl
@[simp] theorem setPart_badUnits (n : Nat) (c : Part) : (s.setPart n c).badUnits = s.badUnits := rfl
@[simp] theorem setPart_psnUnits (n : Nat) (c : Part) : (s.setPart n c).psnUnits = s.psnUnits := rfl
@[simp] theorem setPart_ecc (n : Nat) (c : Part) : (s.setPart n c).ecc = s.ecc := rfl
@[simp] theorem setPart_undrained (n : Nat) (c : Part) : (s.setPart n c).undrained = s.undrained := rfl
@[simp] theorem setPart_kept (n : Nat) (c : Part) : (s.setPart n c).kept = s.kept := rfl
@[simp] theorem setPart_cores (n : Nat) (c : Part) : (s.setPart n c).cores = s.cores := rfl
@[simp] theorem setPart_clusters (n : Nat) (c : Part) : (s.setPart n c).clusters = s.clusters := rfl
@[simp] theorem setPart_tiers (n : Nat) (c : Part) : (s.setPart n c).tiers = s.tiers := rfl
@[simp] theorem setPart_rsySent (n : Nat) (c : Part) : (s.setPart n c).rsySent = s.rsySent := rfl
@[simp] theorem setPart_scrubs (n : Nat) (c : Part) : (s.setPart n c).scrubs = s.scrubs := rfl
@[simp] theorem setPart_undoLogs (n : Nat) (c : Part) : (s.setPart n c).undoLogs = s.undoLogs := rfl
@[simp] theorem setPart_undoOvf (n : Nat) (c : Part) : (s.setPart n c).undoOvf = s.undoOvf := rfl
@[simp] theorem setPart_freq (n : Nat) (c : Part) : (s.setPart n c).freq = s.freq := rfl
@[simp] theorem setPart_fuses (n : Nat) (c : Part) : (s.setPart n c).fuses = s.fuses := rfl
@[simp] theorem setPart_boot (n : Nat) (c : Part) : (s.setPart n c).boot = s.boot := rfl
@[simp] theorem setPart_aon (n : Nat) (c : Part) : (s.setPart n c).aon = s.aon := rfl
@[simp] theorem setPart_test (n : Nat) (c : Part) : (s.setPart n c).test = s.test := rfl
@[simp] theorem setPart_ticks (n : Nat) (c : Part) : (s.setPart n c).ticks = s.ticks := rfl
@[simp] theorem setPart_hall (n : Nat) (c : Part) : (s.setPart n c).hall = s.hall := rfl
@[simp] theorem setPart_courier (n : Nat) (c : Part) : (s.setPart n c).courier = s.courier := rfl
@[simp] theorem setPart_seq (n : Nat) (c : Part) : (s.setPart n c).seq = s.seq := rfl
@[simp] theorem setPart_ports (n : Nat) (c : Part) : (s.setPart n c).ports = s.ports := rfl
@[simp] theorem setPart_filters (n : Nat) (c : Part) : (s.setPart n c).filters = s.filters := rfl
@[simp] theorem setPart_streamGates (n : Nat) (c : Part) : (s.setPart n c).streamGates = s.streamGates := rfl
@[simp] theorem setPart_meters (n : Nat) (c : Part) : (s.setPart n c).meters = s.meters := rfl
@[simp] theorem setPart_crPairs (n : Nat) (c : Part) : (s.setPart n c).crPairs = s.crPairs := rfl
@[simp] theorem setPart_recovery (n : Nat) (c : Part) : (s.setPart n c).recovery = s.recovery := rfl
@[simp] theorem setPart_replicas (n : Nat) (c : Part) : (s.setPart n c).replicas = s.replicas := rfl
@[simp] theorem setPart_slavePort (n : Nat) (c : Part) : (s.setPart n c).slavePort = s.slavePort := rfl
@[simp] theorem setPart_harts (n : Nat) (c : Part) : (s.setPart n c).harts = s.harts := rfl
@[simp] theorem setPart_planImages (n : Nat) (c : Part) : (s.setPart n c).planImages = s.planImages := rfl
@[simp] theorem setPart_gates (n : Nat) (c : Part) : (s.setPart n c).gates = s.gates := rfl
@[simp] theorem setPart_timed (n : Nat) (c : Part) : (s.setPart n c).timed = s.timed := rfl
@[simp] theorem setPart_flights (n : Nat) (c : Part) : (s.setPart n c).flights = s.flights := rfl
@[simp] theorem setPart_upsets (n : Nat) (c : Part) : (s.setPart n c).upsets = s.upsets := rfl
@[simp] theorem setPart_servo (n : Nat) (c : Part) : (s.setPart n c).servo = s.servo := rfl
@[simp] theorem setPart_farOld (n : Nat) (c : Part) : (s.setPart n c).farOld = s.farOld := rfl
@[simp] theorem setPart_free (n : Nat) (c : Part) : (s.setPart n c).free = s.free := rfl
@[simp] theorem setPart_recNotes (n : Nat) (c : Part) : (s.setPart n c).recNotes = s.recNotes := rfl
@[simp] theorem setPart_ended (n : Nat) (c : Part) : (s.setPart n c).ended = s.ended := rfl
@[simp] theorem setPart_faults (n : Nat) (c : Part) : (s.setPart n c).faults = s.faults := rfl
@[simp] theorem setPart_scans (n : Nat) (c : Part) : (s.setPart n c).scans = s.scans := rfl
@[simp] theorem setPart_oldNotes (n : Nat) (c : Part) : (s.setPart n c).oldNotes = s.oldNotes := rfl
@[simp] theorem setPart_oldLogs (n : Nat) (c : Part) : (s.setPart n c).oldLogs = s.oldLogs := rfl
@[simp] theorem setPart_oldOvf (n : Nat) (c : Part) : (s.setPart n c).oldOvf = s.oldOvf := rfl
@[simp] theorem setPart_contlog (n : Nat) (c : Part) : (s.setPart n c).contlog = s.contlog := rfl
@[simp] theorem setPart_logs (n : Nat) (c : Part) : (s.setPart n c).logs = s.logs := rfl
@[simp] theorem setPart_agenda (n : Nat) (c : Part) : (s.setPart n c).agenda = s.agenda := rfl
@[simp] theorem setPart_nextId (n : Nat) (c : Part) : (s.setPart n c).nextId = s.nextId := rfl
@[simp] theorem setPart_inputs (n : Nat) (c : Part) : (s.setPart n c).inputs = s.inputs := rfl
@[simp] theorem setPart_gateReq (n : Nat) (c : Part) : (s.setPart n c).gateReq = s.gateReq := rfl
@[simp] theorem setPart_turnCore (n : Nat) (c : Part) : (s.setPart n c).turnCore = s.turnCore := rfl
@[simp] theorem setPart_denials (n : Nat) (c : Part) : (s.setPart n c).denials = s.denials := rfl
@[simp] theorem setPart_portWrites (n : Nat) (c : Part) : (s.setPart n c).portWrites = s.portWrites := rfl
@[simp] theorem setPart_words (n : Nat) (c : Part) : (s.setPart n c).words = s.words := rfl
@[simp] theorem setPart_cur (n : Nat) (c : Part) : (s.setPart n c).cur = s.cur := rfl

/-! ## sched -/

@[simp] theorem sched_acc (at_ ph : Nat) (org : Option Org) (a : Act) : (s.sched at_ ph org a).acc = s.acc := rfl
@[simp] theorem sched_gt (at_ ph : Nat) (org : Option Org) (a : Act) : (s.sched at_ ph org a).gt = s.gt := rfl
@[simp] theorem sched_mem (at_ ph : Nat) (org : Option Org) (a : Act) : (s.sched at_ ph org a).mem = s.mem := rfl
@[simp] theorem sched_badUnits (at_ ph : Nat) (org : Option Org) (a : Act) : (s.sched at_ ph org a).badUnits = s.badUnits := rfl
@[simp] theorem sched_psnUnits (at_ ph : Nat) (org : Option Org) (a : Act) : (s.sched at_ ph org a).psnUnits = s.psnUnits := rfl
@[simp] theorem sched_ecc (at_ ph : Nat) (org : Option Org) (a : Act) : (s.sched at_ ph org a).ecc = s.ecc := rfl
@[simp] theorem sched_undrained (at_ ph : Nat) (org : Option Org) (a : Act) : (s.sched at_ ph org a).undrained = s.undrained := rfl
@[simp] theorem sched_kept (at_ ph : Nat) (org : Option Org) (a : Act) : (s.sched at_ ph org a).kept = s.kept := rfl
@[simp] theorem sched_cores (at_ ph : Nat) (org : Option Org) (a : Act) : (s.sched at_ ph org a).cores = s.cores := rfl
@[simp] theorem sched_clusters (at_ ph : Nat) (org : Option Org) (a : Act) : (s.sched at_ ph org a).clusters = s.clusters := rfl
@[simp] theorem sched_tiers (at_ ph : Nat) (org : Option Org) (a : Act) : (s.sched at_ ph org a).tiers = s.tiers := rfl
@[simp] theorem sched_parts (at_ ph : Nat) (org : Option Org) (a : Act) : (s.sched at_ ph org a).parts = s.parts := rfl
@[simp] theorem sched_rsySent (at_ ph : Nat) (org : Option Org) (a : Act) : (s.sched at_ ph org a).rsySent = s.rsySent := rfl
@[simp] theorem sched_scrubs (at_ ph : Nat) (org : Option Org) (a : Act) : (s.sched at_ ph org a).scrubs = s.scrubs := rfl
@[simp] theorem sched_undoLogs (at_ ph : Nat) (org : Option Org) (a : Act) : (s.sched at_ ph org a).undoLogs = s.undoLogs := rfl
@[simp] theorem sched_undoOvf (at_ ph : Nat) (org : Option Org) (a : Act) : (s.sched at_ ph org a).undoOvf = s.undoOvf := rfl
@[simp] theorem sched_freq (at_ ph : Nat) (org : Option Org) (a : Act) : (s.sched at_ ph org a).freq = s.freq := rfl
@[simp] theorem sched_fuses (at_ ph : Nat) (org : Option Org) (a : Act) : (s.sched at_ ph org a).fuses = s.fuses := rfl
@[simp] theorem sched_boot (at_ ph : Nat) (org : Option Org) (a : Act) : (s.sched at_ ph org a).boot = s.boot := rfl
@[simp] theorem sched_aon (at_ ph : Nat) (org : Option Org) (a : Act) : (s.sched at_ ph org a).aon = s.aon := rfl
@[simp] theorem sched_test (at_ ph : Nat) (org : Option Org) (a : Act) : (s.sched at_ ph org a).test = s.test := rfl
@[simp] theorem sched_ticks (at_ ph : Nat) (org : Option Org) (a : Act) : (s.sched at_ ph org a).ticks = s.ticks := rfl
@[simp] theorem sched_hall (at_ ph : Nat) (org : Option Org) (a : Act) : (s.sched at_ ph org a).hall = s.hall := rfl
@[simp] theorem sched_courier (at_ ph : Nat) (org : Option Org) (a : Act) : (s.sched at_ ph org a).courier = s.courier := rfl
@[simp] theorem sched_seq (at_ ph : Nat) (org : Option Org) (a : Act) : (s.sched at_ ph org a).seq = s.seq := rfl
@[simp] theorem sched_ports (at_ ph : Nat) (org : Option Org) (a : Act) : (s.sched at_ ph org a).ports = s.ports := rfl
@[simp] theorem sched_filters (at_ ph : Nat) (org : Option Org) (a : Act) : (s.sched at_ ph org a).filters = s.filters := rfl
@[simp] theorem sched_streamGates (at_ ph : Nat) (org : Option Org) (a : Act) : (s.sched at_ ph org a).streamGates = s.streamGates := rfl
@[simp] theorem sched_meters (at_ ph : Nat) (org : Option Org) (a : Act) : (s.sched at_ ph org a).meters = s.meters := rfl
@[simp] theorem sched_crPairs (at_ ph : Nat) (org : Option Org) (a : Act) : (s.sched at_ ph org a).crPairs = s.crPairs := rfl
@[simp] theorem sched_recovery (at_ ph : Nat) (org : Option Org) (a : Act) : (s.sched at_ ph org a).recovery = s.recovery := rfl
@[simp] theorem sched_replicas (at_ ph : Nat) (org : Option Org) (a : Act) : (s.sched at_ ph org a).replicas = s.replicas := rfl
@[simp] theorem sched_slavePort (at_ ph : Nat) (org : Option Org) (a : Act) : (s.sched at_ ph org a).slavePort = s.slavePort := rfl
@[simp] theorem sched_harts (at_ ph : Nat) (org : Option Org) (a : Act) : (s.sched at_ ph org a).harts = s.harts := rfl
@[simp] theorem sched_planImages (at_ ph : Nat) (org : Option Org) (a : Act) : (s.sched at_ ph org a).planImages = s.planImages := rfl
@[simp] theorem sched_gates (at_ ph : Nat) (org : Option Org) (a : Act) : (s.sched at_ ph org a).gates = s.gates := rfl
@[simp] theorem sched_timed (at_ ph : Nat) (org : Option Org) (a : Act) : (s.sched at_ ph org a).timed = s.timed := rfl
@[simp] theorem sched_flights (at_ ph : Nat) (org : Option Org) (a : Act) : (s.sched at_ ph org a).flights = s.flights := rfl
@[simp] theorem sched_upsets (at_ ph : Nat) (org : Option Org) (a : Act) : (s.sched at_ ph org a).upsets = s.upsets := rfl
@[simp] theorem sched_servo (at_ ph : Nat) (org : Option Org) (a : Act) : (s.sched at_ ph org a).servo = s.servo := rfl
@[simp] theorem sched_farOld (at_ ph : Nat) (org : Option Org) (a : Act) : (s.sched at_ ph org a).farOld = s.farOld := rfl
@[simp] theorem sched_free (at_ ph : Nat) (org : Option Org) (a : Act) : (s.sched at_ ph org a).free = s.free := rfl
@[simp] theorem sched_recNotes (at_ ph : Nat) (org : Option Org) (a : Act) : (s.sched at_ ph org a).recNotes = s.recNotes := rfl
@[simp] theorem sched_ended (at_ ph : Nat) (org : Option Org) (a : Act) : (s.sched at_ ph org a).ended = s.ended := rfl
@[simp] theorem sched_faults (at_ ph : Nat) (org : Option Org) (a : Act) : (s.sched at_ ph org a).faults = s.faults := rfl
@[simp] theorem sched_scans (at_ ph : Nat) (org : Option Org) (a : Act) : (s.sched at_ ph org a).scans = s.scans := rfl
@[simp] theorem sched_oldNotes (at_ ph : Nat) (org : Option Org) (a : Act) : (s.sched at_ ph org a).oldNotes = s.oldNotes := rfl
@[simp] theorem sched_oldLogs (at_ ph : Nat) (org : Option Org) (a : Act) : (s.sched at_ ph org a).oldLogs = s.oldLogs := rfl
@[simp] theorem sched_oldOvf (at_ ph : Nat) (org : Option Org) (a : Act) : (s.sched at_ ph org a).oldOvf = s.oldOvf := rfl
@[simp] theorem sched_contlog (at_ ph : Nat) (org : Option Org) (a : Act) : (s.sched at_ ph org a).contlog = s.contlog := rfl
@[simp] theorem sched_logs (at_ ph : Nat) (org : Option Org) (a : Act) : (s.sched at_ ph org a).logs = s.logs := rfl
@[simp] theorem sched_inputs (at_ ph : Nat) (org : Option Org) (a : Act) : (s.sched at_ ph org a).inputs = s.inputs := rfl
@[simp] theorem sched_gateReq (at_ ph : Nat) (org : Option Org) (a : Act) : (s.sched at_ ph org a).gateReq = s.gateReq := rfl
@[simp] theorem sched_turnCore (at_ ph : Nat) (org : Option Org) (a : Act) : (s.sched at_ ph org a).turnCore = s.turnCore := rfl
@[simp] theorem sched_denials (at_ ph : Nat) (org : Option Org) (a : Act) : (s.sched at_ ph org a).denials = s.denials := rfl
@[simp] theorem sched_portWrites (at_ ph : Nat) (org : Option Org) (a : Act) : (s.sched at_ ph org a).portWrites = s.portWrites := rfl
@[simp] theorem sched_words (at_ ph : Nat) (org : Option Org) (a : Act) : (s.sched at_ ph org a).words = s.words := rfl
@[simp] theorem sched_cur (at_ ph : Nat) (org : Option Org) (a : Act) : (s.sched at_ ph org a).cur = s.cur := rfl

/-! ## The fields that the updates change -/

@[simp] theorem setCore_cores (n : Nat) (c : Core) : (s.setCore n c).cores = s.cores.put n c := rfl
@[simp] theorem setCluster_clusters (n : Nat) (c : Cluster) : (s.setCluster n c).clusters = s.clusters.put n c := rfl
@[simp] theorem setTier_tiers (n : Nat) (c : Tier) : (s.setTier n c).tiers = s.tiers.put n c := rfl
@[simp] theorem setPart_parts (n : Nat) (c : Part) : (s.setPart n c).parts = s.parts.put n c := rfl
@[simp] theorem sched_nextId (at_ ph : Nat) (org : Option Org) (a : Act) : (s.sched at_ ph org a).nextId = s.nextId + 1 := rfl

/-! ## The updates by a function are the updates by its value -/

theorem modCore_eq (n : Nat) (f : Core → Core) : s.modCore n f = s.setCore n (f (s.core n)) := rfl
theorem modBerth_eq (c b : Nat) (f : Berth → Berth) : s.modBerth c b f = s.setBerth c b (f (s.berth c b)) := rfl
theorem modCluster_eq (n : Nat) (f : Cluster → Cluster) : s.modCluster n f = s.setCluster n (f (s.cluster n)) := rfl
theorem modTier_eq (n : Nat) (f : Tier → Tier) : s.modTier n f = s.setTier n (f (s.tier n)) := rfl
theorem modPart_eq (n : Nat) (f : Part → Part) : s.modPart n f = s.setPart n (f (s.part n)) := rfl
theorem modMe_eq (f : Berth → Berth) : s.modMe f = s.setBerth s.cur.core s.cur.berth (f (s.berth s.cur.core s.cur.berth)) := rfl
theorem schedRow_eq (at_ ph : Nat) (org : Option Org) (i : Instr) : s.schedRow at_ ph org i = s.sched at_ ph org (.row i) := rfl
theorem schedAux_eq (at_ ph : Nat) (org : Option Org) (a : Aux) : s.schedAux at_ ph org a = s.sched at_ ph org (.aux a) := rfl

end Sys2Proof.Machine.State

namespace Sys2Proof.Machine

/-! ## Tables: a read after an update -/

theorem Tbl.get_put_self {α : Type} (t : Tbl α) (d v : α) (k : Nat) : (t.put k v).get d k = v := by
  induction t with
  | nil => simp [Tbl.put, Tbl.get]
  | cons e t ih =>
    obtain ⟨j, w⟩ := e
    simp only [Tbl.put]
    split
    · simp [Tbl.get]
    · split
      · simp [Tbl.get]
      · rename_i h _
        simp only [Tbl.get]
        rw [if_neg (fun h' => h h'.symm), ih]

theorem Tbl.get_put_ne {α : Type} (t : Tbl α) (d v : α) (k j : Nat) (h : j ≠ k) : (t.put k v).get d j = t.get d j := by
  induction t with
  | nil => simp [Tbl.put, Tbl.get, Ne.symm h]
  | cons e t ih =>
    obtain ⟨i, w⟩ := e
    simp only [Tbl.put]
    split
    · rename_i hk
      subst hk
      simp [Tbl.get, Ne.symm h]
    · split
      · simp [Tbl.get, Ne.symm h]
      · simp [Tbl.get, ih]

namespace State

@[simp] theorem core_setCore (s : State) (n : Nat) (c : Core) : (s.setCore n c).core n = c := Tbl.get_put_self ..
theorem core_setCore_ne (s : State) (n m : Nat) (c : Core) (h : m ≠ n) : (s.setCore n c).core m = s.core m := Tbl.get_put_ne _ _ _ _ _ h
@[simp] theorem berth_setBerth (s : State) (c b : Nat) (x : Berth) : (s.setBerth c b x).berth c b = x := by
  simp [berth, setBerth, Tbl.get_put_self]
theorem berth_setBerth_ne (s : State) (c b c' b' : Nat) (x : Berth) (h : ¬(c' = c ∧ b' = b)) :
    (s.setBerth c b x).berth c' b' = s.berth c' b' := by
  by_cases hc : c' = c
  · subst hc
    have hb : b' ≠ b := fun e => h ⟨rfl, e⟩
    simp [berth, setBerth, Tbl.get_put_ne _ _ _ _ _ hb]
  · simp [berth, setBerth, core_setCore_ne _ _ _ _ hc]
@[simp] theorem berth_modBerth (s : State) (c b : Nat) (f : Berth → Berth) : (s.modBerth c b f).berth c b = f (s.berth c b) :=
  berth_setBerth ..
@[simp] theorem me_modMe (s : State) (f : Berth → Berth) : (s.modMe f).me = f s.me := berth_setBerth ..
@[simp] theorem cur_modMe (s : State) (f : Berth → Berth) : (s.modMe f).cur = s.cur := rfl
@[simp] theorem acc_modMe (s : State) (f : Berth → Berth) : (s.modMe f).acc = s.acc := rfl
@[simp] theorem cur_setWpc (s : State) (c b pc t : Nat) : (s.setWpc c b pc t).cur = s.cur := rfl

/-- Setting WPC leaves PC and sets WPC. -/
theorem setWpc_berth (s : State) (c b pc t : Nat) :
    ((s.setWpc c b pc t).berth c b).pc = (s.berth c b).pc ∧ ((s.setWpc c b pc t).berth c b).wpc = pc ∧
    ((s.setWpc c b pc t).berth c b).run = (s.berth c b).run ∧ ((s.setWpc c b pc t).berth c b).mode = (s.berth c b).mode ∧
    ((s.setWpc c b pc t).berth c b).wsp = (s.berth c b).wsp ∧ ((s.setWpc c b pc t).berth c b).intrap = (s.berth c b).intrap := by
  unfold setWpc setWpcAt
  rw [berth_modBerth]
  exact ⟨rfl, rfl, rfl, rfl, rfl, rfl⟩

/-- A taken branch puts its target into PC. -/
theorem branchTo_pc (s : State) (pc : Nat) : (s.branchTo pc).me.pc = pc := by
  unfold branchTo
  simp only []
  split
  · exact (setWpc_berth ..).1.trans (congrArg Berth.pc (me_modMe s _))
  · exact congrArg Berth.pc (me_modMe s _)

@[simp] theorem cluster_setCluster (s : State) (n : Nat) (c : Cluster) : (s.setCluster n c).cluster n = c := Tbl.get_put_self ..
@[simp] theorem tier_setTier (s : State) (n : Nat) (c : Tier) : (s.setTier n c).tier n = c := Tbl.get_put_self ..
@[simp] theorem part_setPart (s : State) (n : Nat) (c : Part) : (s.setPart n c).part n = c := Tbl.get_put_self ..

end State

end Sys2Proof.Machine
end

