-- ==== Sys2Proof/Tests/Slice0.lean ====
section
/-! SUPPORT. The author's own tests: what WellFormed refuses, words of the spec, single results, and a state and operands that meet the
hypotheses of each statement of Certificates/Slice0, at the ends of their ranges. -/

namespace Sys2Proof.Tests

open Sys2Proof.Machine Sys2Proof.Safety

set_option Elab.async false

/-- No W, guard p0. -/
def hd : Hd := ⟨false, false, 0⟩

/-! ## What WellFormed refuses: one ill-formed term for each check -/

theorem test_refuses_shift_of_64 : Instr.wordOk (.shl hd 1 2 (.imm 64)) = false ∧ encode (.shl hd 1 2 (.imm 64)) = none := by decide
theorem test_accepts_shift_of_63 : Instr.wordOk (.shl hd 1 2 (.imm 63)) = true := by decide
theorem test_refuses_vshuf_reverse_with_second_source : Instr.wordOk (.vshuf hd 4 0 1 2 3) = false := by decide
theorem test_refuses_vplane_unpack_of_3 : Instr.wordOk (.vplane hd (.unpack 3) 1 2) = false := by decide
theorem test_refuses_vdqnt_of_3_planes : Instr.wordOk (.vdqnt hd 0 .rne 0 0 1 2 3 3 false) = false := by decide
theorem test_refuses_fence_of_no_class : Instr.wordOk (.fence hd 0 1) = false := by decide
theorem test_refuses_unassigned_mmac_mode : Instr.wordOk (.mmac hd 3 0 1 0 0) = false ∧ Instr.wordOk (.mmac hd 11 0 1 0 0) = false := by decide
theorem test_refuses_compare_operand_outside_cas :
    Instr.wordOk (.ramo hd 0 false 1 2 3 4 ⟨false, 0⟩ 0) = false ∧ Instr.wordOk (.sbamo hd 0 false 1 2 3 4 0) = false := by decide
theorem test_refuses_event_as_word : Instr.wordOk (.berthTurn ⟨0, 0⟩) = false ∧ encode (.berthTurn ⟨0, 0⟩) = none := by decide
theorem test_refuses_absent_berth_and_core : Instr.unitsOk (.berthTurn ⟨0, 16⟩) = false ∧ Instr.unitsOk (.berthTurn ⟨96, 0⟩) = false := by decide
theorem test_refuses_absent_cluster : Instr.unitsOk (.railDenseReached 24) = false ∧ Instr.unitsOk (.mmacCompletion 24) = false := by decide
theorem test_refuses_absent_tier : Instr.unitsOk (.tierGateEffect 6) = false := by decide
theorem test_refuses_absent_partition : Instr.unitsOk (.journeyWindowOpen 8 0) = false ∧ Instr.unitsOk (.plcmdStop 8) = false := by decide
theorem test_refuses_absent_port : Instr.unitsOk (.qbvWindowOpening 4 0) = false := by decide

/-! ## Words that the spec writes out -/

/-- The word decodes to the instruction, and encoding gives it back. -/
def reads (w : BitVec 96) (i : Instr) : Prop := (decodeWord w).toOption = some i ∧ encode i = some w

theorem test_word_nop : reads 0 (.nop hd) := by unfold reads; decide
theorem test_word_add : reads 0x01D0A30E0000000000000000 (.add ⟨true, true, 2⟩ 5 6 7) := by unfold reads; decide
theorem test_word_add_registers : reads 0x010102920000000000000000 (.add hd 8 5 9) := by unfold reads; decide
theorem test_word_clmul : reads 0x230185160000000000000000 (.clmul hd 12 10 11) := by unfold reads; decide
theorem test_word_br_guarded : reads 0x341800000000000000000000 (.br ⟨false, false, 3⟩ 0 0) := by unfold reads; decide
theorem test_word_br_slot : reads 0x34080000000000000000000B (.br ⟨false, false, 1⟩ 1 3) := by unfold reads; decide
theorem test_word_loop : reads 0x390008000000FFFFFFFFFFF9 (.loop hd 16 (-1) 1) := by unfold reads; decide
theorem test_word_waitc : reads 0x3B00098000000000000000A0 (.waitc hd 19 160) := by unfold reads; decide
theorem test_word_vfma : reads 0x430060840207000000000000 (.vfma hd .dyn 2 3 1 (.vec 2)) := by unfold reads; decide
theorem test_word_vcmp : reads 0x4F00200A0040000000000000 (.vcmp hd 0 0 1 0 (.bs 5)) := by unfold reads; decide
theorem test_word_ld : reads 0x8000A2000030000000000040 (.ld hd 6 5 4 0x40) := by unfold reads; decide
theorem test_word_vld : reads 0x820064000008000000000100 (.vld hd 1 0 3 8 0x100) := by unfold reads; decide
theorem test_word_svc : reads 0x920000000000000000000021 (.svc hd 0x21) := by unfold reads; decide
theorem test_word_fence : reads 0x940000000000000000000108 (.fence hd 8 1) := by unfold reads; decide
theorem test_word_rail_up : reads 0x960000000000000000000000 (.railUp hd) := by unfold reads; decide
theorem test_word_rail_dn : reads 0x960000000008000000000000 (.railDn hd) := by unfold reads; decide
theorem test_word_mmac : reads 0xA28022800048000000000703 (.mmac ⟨true, false, 0⟩ 9 1 5 3 7) := by unfold reads; decide
theorem test_word_mdrain : reads 0xA500008C3800000000000500 (.mdrain hd 1 6 7 ⟨false, 5⟩ 0) := by unfold reads; decide
theorem test_word_send : reads 0xB20004040000800000002A02 (.send hd (.v 2 0) 8 ⟨true, 42⟩ 2) := by unfold reads; decide
theorem test_word_send_masked : reads 0xB2480A840003800000002C00 (.send ⟨false, true, 1⟩ (.v 2 3) 21 ⟨true, 44⟩ 0) := by unfold reads; decide
theorem test_word_sbw : reads 0xC000020A0000000000000100 (.sbw hd none (.d 5) 4 0x100) := by unfold reads; decide
theorem test_word_sbamo : reads 0xC100C20E0008000000000100 (.sbamo hd 0 true 6 4 7 0 0x100) := by unfold reads; decide
theorem test_word_stairf : reads 0xC70180000000000000000000 (.stairf hd false 12) := by unfold reads; decide
theorem test_word_stairw : reads 0xC50000020000000000000000 (.stairw hd false 1) := by unfold reads; decide
theorem test_word_stairr : reads 0xC60040000000000000000000 (.stairr hd false 2) := by unfold reads; decide
theorem test_word_tgate : reads 0xC800A30E0000000000000000 (.tgate hd 5 6 7) := by unfold reads; decide
theorem test_word_pil : reads 0xD000A20C0030000000000040 (.pil hd (.scalar 6 5) 4 6 0x40) := by unfold reads; decide
theorem test_word_pos : reads 0xD10000204800000000000000 (.pos hd (.d 16) 0 9 0) := by unfold reads; decide
theorem test_word_cpy : reads 0xD60125166000000000000306 (.cpy hd 0 9 10 11 12 6 3) := by unfold reads; decide
theorem test_word_jyld : reads 0xDC0000000000000000000000 (.jyld hd) := by unfold reads; decide
theorem test_word_jbud : reads 0xDD00A0000000000000000000 (.jbud hd 0 5) := by unfold reads; decide
theorem test_word_preq_stop : reads 0xDE00C20A0000000000000000 (.preqStop hd 6 4 5) := by unfold reads; decide
theorem test_word_rcptw : reads 0xD700E0000000000000000200 (.rcptw hd 7 0 2) := by unfold reads; decide
theorem test_word_psend : reads 0xE000040A4810000000000500 (.psend hd true (.d 5) 8 9 ⟨false, 5⟩ 0) := by unfold reads; decide
theorem test_word_pdig_rd : reads 0xE100E0000008000000000000 (.pdigRd hd 7) := by unfold reads; decide
theorem test_word_prole : reads 0xE200A0000000000000000000 (.prole hd 5) := by unfold reads; decide
theorem test_word_refused :
    (decodeWord 0x3F0000000000000000000000).toOption = none ∧ (decodeWord 0x930000000000000000000001).toOption = none := by decide

/-! ## States: core 0, berth 0, at cycle 1000, with the workspace at 0 -/

/-- With these scalar registers. -/
def sregs (l : List (Nat × Nat)) : State :=
  { State.reset with acc := 1000, mem := l.foldl (fun m e => Memory.write m (wsKey 0 (0x40 + 8 * e.1)) 8 e.2 255) [] }

/-- A workspace whose vector registers all have a tag, with nothing in them. -/
def tagged (t : Nat) : State := { sregs [] with mem := Memory.write [] (wsKey 0 0) 8 (t * 0x1111111111111111) 255 }

/-- In supervisor mode. -/
def super (s : State) : State := { s with cur := { s.cur with mode := true } }

/-- A plan of 1,000 cycles with nothing in it, and with these rows of its tables. -/
def plan0 : Plan :=
  { version := 0, sigOk := true, reservedOk := true, len := 1000, fmin := 0, period := none, cores := [], owners := [], slotmaps := [], windows := [],
    journeys := [], streams := [], delivers := [], outrecs := [], frames := [], defIn := [], defOut := [], image := [], lines := [],
    xlb := ⟨0, 0, 0, false, 0⟩, svb := ⟨0, 0, 0, false, 0⟩, variants := [] }

/-- Partition 0 owns cluster 0 and runs a plan, in which core 0 is its logical core 0. -/
def row0 : PartRow :=
  { clmask := 0xF, valid := true, a40 := true, smbase := 0, smcnt := 16, ombase := 0, omcnt := 16, slots := 0xFFFFFFFFFFFFFFFF, hbase := 0, hsize := 65536,
    fbase := 0, fsize := 0x100000000, prelat := 0, fenc := false, tlbbase := 0, tlbcnt := 64 }

def inPlan (s : State) (p : Plan) : State :=
  ((s.setPart 0 { s.part 0 with row := row0, gazMask := row0.clmask, plan := some p, running := true, plstat := 4 }).modCore 0
    fun k => { k with owner := some (0, 0) }).modTier 0 fun t => { t with ttc := 100 }

/-! ## Integer, control and vector statements: sources that can be read, and the ends of the ranges -/

theorem witness_IntegerArithmeticLands : ready hd [.s 1, .s 63] (sregs [(1, 2 ^ 63), (63, 2 ^ 64 - 1)]) = true := by decide +kernel

theorem witness_BitAndSecondOperandFormsLand :
    let s := sregs [(1, 2 ^ 64 - 1), (63, 1)]
    ready hd [.s 1] s = true ∧ ready hd [.s 63, .s 1] s = true ∧ ready hd (.s 1 :: op2Srcs (.reg 63)) s = true ∧
      ready hd (.s 0 :: op2Srcs (.imm (-1))) s = true := by decide +kernel

theorem witness_ComparesAndSelectionLand :
    let s := sregs [(1, 2 ^ 63)]
    ready hd [.s 1, .s 2] s = true ∧ ready hd [.s 1] s = true ∧ ready hd [.p 0, .p 7] s = true ∧ ready hd [.s 1, .s 2, .p 7] s = true := by
  decide +kernel

theorem witness_ScalarFloatingPointLands :
    ready hd ([.s 1, .s 2, .s 3] ++ rndSrcs .dyn) (sregs [(1, 0x7F800000), (2, 0x80000000), (3, 1)]) = true := by decide +kernel

theorem witness_BranchesReachTheirTargetOrTrap :
    let at_ (pc n : Nat) : State := { sregs [(1, n)] with cur := { core := 0, berth := 0, pc := pc } }
    let line (s : State) (off : BitVec 45) (i : Nat) : Int := (s.cur.pc / 8 : Nat) + off.toInt + i
    ready hd [.s 1] (at_ 0 2) = true ∧ line (at_ 0 2) 0 0 = (0 : Nat) ∧ line (at_ 8 2) 4094 0 = (4095 : Nat) ∧ 1 < ((at_ 0 2).sreg 1).toNat ∧
      (at_ 0 1).sreg 1 = 1 ∧ (at_ 0 0).sreg 1 = 0 ∧ line (at_ 8 4095) (-1) ((at_ 8 4095).sreg 1).toNat = (4095 : Nat) ∧
      ((at_ 0 (2 ^ 15 - 1)).sreg 1).toNat < 2 ^ 15 ∧ line (at_ 0 0) (-1) 0 < 0 ∧ 4096 ≤ line (at_ 8 0) 4095 0 ∧
      2 ^ 15 ≤ ((at_ 0 (2 ^ 15)).sreg 1).toNat := by decide +kernel

/-- A berth of island 1, whose clock began at cycle 900. -/
def inIsland (s : State) : State :=
  (s.modCore 0 fun k => { k with islands := [(1, { base := 900 })] }).modBerth 0 0 fun x => { x with isl := 1 }

theorem witness_WaitsResyncAndRdttCompleteOrSlip :
    let s (n : Nat) : State := inPlan (sregs [(1, n)]) plan0
    ready hd [.s 1] (s 101) = true ∧ (s 101).ttcOf 0 < ((s 101).sreg 1).toNat ∧ ((s 999).sreg 1).toNat < (s 999).lenOf 0 ∧
      (inIsland (s 101)).island? 0 0 = some { base := 900 } ∧ (inIsland (s 101)).itcOf { base := 900 } < ((s 101).sreg 1).toNat ∧
      (s 0).sreg 1 = 0 ∧ ((s (2 ^ 15 - 1)).sreg 1).toNat < 2 ^ 15 ∧ ((s 0).core 0).owner = some (0, 0) ∧
      (s 1000).lenOf 0 ≤ ((s 1000).sreg 1).toNat ∧ ((s 100).sreg 1).toNat ≤ (s 100).ttcOf 0 ∧ (s 100).island? 0 0 = none ∧
      ((s 100).sreg 1).toNat ≤ (inIsland (s 100)).itcOf { base := 900 } := by decide +kernel

/-- Sources of vector instructions, all with tag t. -/
theorem witness_VectorLaneArithmeticLands :
    let srcs (o : VOp2) : List Src := [.v 1, .tag 1, .v 2, .tag 2, .m 0] ++ vopSrcs o ++ rndSrcs .dyn
    (∀ t ∈ [1, 2, 3, 4, 5, 6, 7], (tagged t).vtag 1 = BitVec.ofNat 4 t ∧ (tagged t).vtag 15 = BitVec.ofNat 4 t ∧ (tagged t).vtag 2 = BitVec.ofNat 4 t) ∧
      ready hd (srcs (.vec 15)) (tagged 1) = true ∧ ready hd (srcs (.bs 63)) (tagged 7) = true := by decide +kernel

theorem witness_VectorUnaryAndDivideLand :
    (∀ t ∈ [1, 2, 3, 4, 5, 6], ready hd ([.v 1, .tag 1, .v 15, .tag 15, .m 0] ++ rndSrcs .rup) (tagged t) = true ∧
      (tagged t).vtag 1 = BitVec.ofNat 4 t ∧ (tagged t).vtag 15 = BitVec.ofNat 4 t) := by decide +kernel

theorem witness_VectorComparesAndMasksLand :
    (∀ t ∈ [0, 1, 3, 7, 8], ready hd ([.v 1, .tag 1, .m 7] ++ vopSrcs (.vec 15)) (tagged t) = true ∧ (tagged t).vtag 1 = BitVec.ofNat 4 t ∧
      (tagged t).vtag 15 = BitVec.ofNat 4 t) ∧
    ready hd [.v 1, .tag 1, .v 2, .tag 2, .m 0, .m 7] (tagged 8) = true ∧ ready hd [.m 1, .m 7] (tagged 0) = true := by decide +kernel

theorem witness_VectorBitOperationsLand :
    (∀ t ∈ [0, 4, 6, 8], ready hd ([.v 1, .tag 1, .m 0] ++ vopSrcs (.vec 2) ++ shSrcs (.vec 15)) (tagged t) = true ∧
      (tagged t).vtag 1 = BitVec.ofNat 4 t ∧ (tagged t).vtag 2 = BitVec.ofNat 4 t ∧ (tagged t).vtag 15 = BitVec.ofNat 4 t) := by decide +kernel

theorem witness_VectorMovesLand :
    let s (t : Nat) : State := tagged t
    let srcs : List Src := [.v 1, .tag 1, .v 2, .tag 2, .tag 3, .m 0, .s 1, .s 2]
    (∀ t ∈ [0, 4, 5, 6, 7, 8], ready hd srcs (s t) = true ∧ (s t).vtag 1 = BitVec.ofNat 4 t) ∧
      (∀ t ∈ [0, 4, 5, 6, 7], (s t).vtag 2 ∈ ([0, 4, 5, 6, 7] : List (BitVec 4))) ∧ (s 8).vtag 2 = 8 ∧ ((s 8).sreg 1).toNat = (0 : BitVec 9).toNat ∧
      ((s 8).vtag 3).toNat ≤ 8 ∧ 256 / tagWidth 8 ≤ ((s 8).sreg 2).toNat + (32 : BitVec 16).toNat ∧
      ((s 8).sreg 2).toNat + (31 : BitVec 16).toNat < 256 / tagWidth 8 := by decide +kernel

theorem witness_VectorReductionsAndConversionsLand :
    let srcs : List Src := [.v 1, .tag 1, .v 2, .tag 2, .v 3, .tag 3, .m 0, .s 1, .s 2] ++ rndSrcs .dyn
    let mixed : State := { sregs [] with mem := Memory.write [] (wsKey 0 0) 8 0x4760 255 }
    (∀ t ∈ [0, 1, 2, 3, 4, 5, 6, 7, 8], ready hd srcs (tagged t) = true ∧ (tagged t).vtag 1 = BitVec.ofNat 4 t) ∧
      ready hd srcs mixed = true ∧ mixed.vtag 1 = 6 ∧ mixed.vtag 2 = 7 ∧ mixed.vtag 3 = 4 ∧
      (∀ i, i < 64 → active ((tagged 4).mreg 0) 4 i = true → boundElem 4 (elem 4 i ((tagged 4).vreg 1)) 0 0 = (false, false)) ∧
      (3 : BitVec 2).toNat < ratio 6 1 ∧ (1 : BitVec 2).toNat < ratio 1 2 ∧ (0 : BitVec 2).toNat < ratio 2 1 := by decide +kernel

/-! ## Workspace store, core registers, traps and returns -/

theorem reach_super {s : State} {ea : Word} {size align : Nat} {k : Access}
    (h : ea.toNat % align = 0 ∧ ea.toNat < 2 ^ 19 ∧ s.regionFault ea.toNat size k = none ∧ s.watchHit ea.toNat size (k ≠ .read) = false) :
    reach s ea size align k := h

/-- The last double word of the store in supervisor mode, and of the own workspace in task mode; a vector access at the last place of each. -/
theorem witness_WorkspaceAccessesIssue :
    let s := sregs [(1, 0x1FF8), (2, 0x1F00)]
    let v := super (sregs [(1, 0x7FFF8), (2, 0x7FF00)])
    (ready hd [.s 1, .s 3, .s 4] s = true ∧ ready hd [.s 2, .v 15, .tag 15, .m 7] (tagged 8) = true ∧ ready hd [.v 14, .tag 14] (tagged 4) = true ∧
      (tagged 4).vtag 14 = 4) ∧
    reach s (s.sreg 1) 8 8 .both ∧ reach v (v.sreg 1) 8 8 .both ∧ reach s (s.sreg 2) 256 32 .read ∧ reach v (v.sreg 2) 256 32 .write ∧
    (∀ e, e ∈ (tagged 4).segments 0 0 14 0 → reach (tagged 4) e.2 32 32 .read ∧ reach (tagged 4) e.2 32 32 .write) := by
  unfold reach; decide +kernel

theorem witness_LoadsAndAtomicsSampleMemory :
    let s := sregs [(1, 2 ^ 64 - 1)]
    s.cur.denied = none ∧ (State.unitsOf 4 (wsKey 0 0x7FFF8) 8).all (fun u => !s.badUnits.contains u && !s.psnUnits.contains u) = true := by
  decide +kernel

theorem witness_RegionRuleAndIllegalAccesses :
    let s (a : Nat) : State := sregs [(1, a)]
    let w (lo hi bits : Nat) : Word := BitVec.ofNat 64 (lo + 2 ^ 32 * hi + 2 ^ 62 * bits)
    let inside (w : Word) (ea n : Nat) : Prop := w.toNat % 2 ^ 19 ≤ ea ∧ ea + n ≤ w.toNat / 2 ^ 32 % 2 ^ 20
    ready hd [.s 1, .s 2] (s 3) = true ∧ ((s 3).sreg 1).toNat % 2 ≠ 0 ∧ ((s 0x80000).sreg 1).toNat % 8 = 0 ∧ 2 ^ 19 ≤ ((s 0x80000).sreg 1).toNat ∧
      (s 0x2000).regionFault 0x2000 8 .read = some 2 ∧ (super (s 0)).cur.mode = true ∧ (s 0).cur.mode = false ∧
      ((s 0).cur.wsp ≤ 0x1FF8 ∧ 0x1FF8 + 8 ≤ (s 0).cur.wsp + 8192) ∧
      inside (w 0x2000 0x4000 1) 0x3FF8 8 ∧ (w 0x2000 0x4000 1).getLsbD 62 = true ∧ (w 0x2000 0x4000 1).getLsbD 63 = false ∧
      ¬inside (w 0x2000 0x4000 3) 0x3FFC 8 ∧ ¬((s 0).cur.wsp ≤ 0x1FFC ∧ 0x1FFC + 8 ≤ (s 0).cur.wsp + 8192) := by decide +kernel

theorem witness_CoreRegistersAccessAndReadBack :
    let s := sregs []
    ready hd [] s = true ∧ ready hd [.s 63] s = true ∧ (super s).cur.mode = true ∧ (15 : BitVec 4).toNat ≠ s.cur.berth ∧
      ¬(s.cur.mode = true ∨ ((8 : BitVec 8) = 8 ∧ (15 : BitVec 4).toNat = s.cur.berth)) ∧ (0 : BitVec 4).toNat = s.cur.berth := by decide +kernel

/-- A workspace at 0x7E000, the last of the store, whose TEPC is the last group's PC. -/
theorem witness_XwspSwitchesWorkspace :
    let s : State := { sregs [(1, 0x7E000)] with mem := Memory.write (sregs [(1, 0x7E000)]).mem (wsKey 0 0x7E020) 8 0x7FFC 255 }
    let key := wsKey 0 0x7E000 + 0x20
    ready hd [.s 1] s = true ∧ (s.sreg 1).toNat < 2 ^ 19 ∧ (s.sreg 1).toNat % 8192 = 0 ∧
      (State.unitsOf 4 key 8).all (fun u => !s.badUnits.contains u) = true ∧ s.readAs clsT key 8 = 0x7FFC ∧ s.readAs clsT key 8 % 8 ≤ 4 := by
  decide +kernel

/-- A group whose other word is a load: its fault is decided two cycles on. -/
def withLoad (s : State) : State := { s with cur := { s.cur with late := some (s.acc + 2) } }

theorem witness_TrapAndSvcEnterTheHandler :
    let s := sregs []
    ready hd [] s = true ∧ s.me.intrap = false ∧ s.cur.late = none ∧ s.pastEdge s.here = false ∧ ready hd [] (withLoad s) = true ∧
      (withLoad s).cur.late = some 1002 := by decide +kernel

theorem witness_RteRestoresTheBerth :
    let s : State := { super (sregs []) with mem := Memory.write [] (wsKey 0 0x20) 8 0x7FFC 255 }
    let key := wsKey 0 s.cur.wsp + 0x20
    ready hd [] s = true ∧ (State.unitsOf 4 key 8).all (fun u => !s.badUnits.contains u) = true ∧ s.readAs clsT key 8 = 0x7FFC ∧
      s.readAs clsT key 8 % 8 ≤ 4 ∧ s.me.slipTrap = false ∧ s.me.pdef = false ∧ s.cur.late = none ∧
      s.pastEdge s.here = false ∧ s.me.undo = none ∧ ready hd [] (withLoad s) = true ∧ (withLoad s).cur.late = some (s.acc + 2) := by decide +kernel

theorem witness_SystemInstructionsComplete :
    let s := super (sregs [(1, 0xFFFF)])
    let rail (n : Nat) : State := s.setCluster 0 { s.cluster 0 with rail := (n, 900) }
    ready hd [.s 1] s = true ∧ ready hd [.s 1] (withLoad s) = true ∧ (withLoad s).cur.late = some 1002 ∧ s.cur.late = none ∧
      s.pastEdge s.here = false ∧ ({ s with words := [(1, .nop hd)] } : State).words ≠ [] ∧ s.me.journey = none ∧ (s.modMe fun x => { x with journey := some (7, 15) }).me.journey = some (7, 15) ∧
      (s.core 0).dbgctl.getLsbD 0 = false ∧ ((s.setCore 0 { s.core 0 with dbgctl := 1 }).core 0).dbgctl.getLsbD 0 = true ∧ s.words = [] ∧
      (∀ n, n < 4 → ((rail n).cluster 0).rail.1 = n) ∧ (s.rqAny 0) = false ∧ (s.cluster 0).array = none := by decide +kernel

/-! ## Landings, stores, turns and the events of a berth -/

/-- The origin of an instruction of core c, berth b, in the last workspace of the store. -/
def org (c b : Nat) : Org := { core := c, berth := b, issue := 990, slot := 0, pc := 0, wsp := 0x7E000 }

theorem witness_LandingsWriteTheirRegisters :
    let s := sregs [(1, 5)]
    let gone := s.modBerth 95 15 fun x => { x with discards := [(990, 999)] }
    MemOk s ∧ coreOk (org 95 15).core = true ∧ (org 95 15).berth < 16 ∧ (org 95 15).wsp < 2 ^ 19 ∧ (org 95 15).wsp % 8192 = 0 ∧
      State.discarded (gone.berth 95 15) 990 gone.acc = true ∧ MemOk gone ∧ State.discarded (s.berth 95 15) 990 s.acc = false ∧
      (∀ e ∈ (s.berth 95 15).landed, e.2.2 ≤ 990 * 2) ∧ s.dupOf (wsKey 95 0x7E000) = 0 ∧ (63 : SReg) ≠ 0 ∧ (7 : MReg) ≠ 0 ∧ (7 : PReg) ≠ 0 := by
  decide +kernel

theorem witness_StoresAndRoomWritesChangeTheirBytes :
    let s := sregs [(1, 5)]
    let denied : State := { s with cur := { s.cur with denied := some (0, 1) } }
    MemOk s ∧ MemOk denied ∧ wsKey 95 0x7FFF8 + 8 ≤ 2 ^ 45 ∧ s.cur.denied = none ∧ s.portWrites = [] ∧ denied.cur.denied = some (0, 1) ∧ s.upsets = [] ∧
      2 ^ 46 ≤ roomKey 0 0 ∧ roomKey 95 (2 ^ 24 - 8) + 8 ≤ 3 * 2 ^ 45 ∧ coreOk 95 = true ∧ 2 ^ 24 - 64 + 64 ≤ 2 ^ 24 := by decide +kernel

/-- A berth that the plan uses, with its turn at TTC 112, and a fetch of a line that is not given; with a line of five NOPs, whose bits are all
zero. -/
theorem witness_BerthTurnIssuesOrTraps :
    let s := (inPlan (sregs []) plan0).modBerth 0 0 fun x => { x with used := true }
    let t := s.modTier 0 fun t => { t with ttc := 112 }
    let nops : State := { t with mem := Memory.write t.mem (codeKey 0 0) 64 0 (2 ^ 64 - 1) }
    let late := t.modBerth 0 0 fun x => { x with endAt := some 900 }
    let stopped := t.modBerth 0 0 fun x => { x with run := 2 }
    let gated : State := { t.modCore 0 fun k => { k with yieldNow := 1 } with gateReq := [(0, 0)] }
    let held := t.modBerth 0 0 fun x => { x with held := [{ cause := 9, sub := 1, tipc := 0 }] }
    (BId.mk 0 0).ok = true ∧ (BId.mk 95 15).ok = true ∧ s.hasTurn 0 0 = false ∧
      (late.hasTurn 0 0 = true ∧ (late.berth 0 0).endAt ≠ none) ∧
      (gated.hasTurn 0 0 = true ∧ gated.isGated 0 0 = true ∧ (gated.berth 0 0).endAt = none) ∧
      (t.hasTurn 0 0 = true ∧ t.isGated 0 0 = false ∧ (t.berth 0 0).endAt = none ∧ (t.berth 0 0).held = [] ∧ (t.berth 0 0).run = 1 ∧ (t.fetch 0 0).toOption = none) ∧
      (nops.hasTurn 0 0 = true ∧ nops.isGated 0 0 = false ∧ (nops.berth 0 0).run = 1 ∧ (nops.fetch 0 0).toOption = some ⟨[(0, 0)], 1, false⟩) ∧
      (stopped.hasTurn 0 0 = true ∧ stopped.isGated 0 0 = false ∧ (stopped.berth 0 0).run = 2) ∧
      (held.hasTurn 0 0 = true ∧ held.isGated 0 0 = false ∧ (held.berth 0 0).held = [{ cause := 9, sub := 1, tipc := 0 }] ∧ (held.berth 0 0).run = 1) := by decide +kernel

/-- A berth of core 95, the last, in some state. -/
def berth95 (f : Berth → Berth) : State := (sregs []).modBerth 95 15 f

theorem witness_BerthAndRailEventsComplete :
    let b : BId := ⟨95, 15⟩
    let t : AsyncTrap := { info := { cause := 9, sub := 3, tipc := 0 }, wsp := 0x7E000 }
    let gated : State := ((berth95 fun x => { x with run := 4 }).modCore 95 fun k => { k with yieldNow := 0x8000 }).modTier 5 fun t => { t with ttc := 31 }
    let waits (w : Waiting) : State := berth95 fun x => { x with run := 4, wait := w }
    let rail (n at_ : Nat) : State := (sregs []).setCluster 23 { (sregs []).cluster 23 with rail := (n, at_) }
    b.ok = true ∧ ((berth95 fun x => { x with run := 4 }).berth 95 15).run = 4 ∧
      (let x := (berth95 fun x => { x with wsp := 0x7E000, queue := [t] }).berth 95 15
       x.intrap = false ∧ x.queue.find? (fun y => y.wsp = x.wsp) = some t) ∧
      ((gated.core 95).yieldNow.getLsbD 15 = true ∧ gated.ttcOf 95 % 16 = 15 ∧ (gated.berth 95 15).run = 4) ∧
      ((sregs []).core 95).yieldNow.getLsbD 15 = false ∧
      (((sregs []).berth 95 15).run ≠ 0 ∧ ((sregs []).berth 95 15).run ≠ 2 ∧ ((sregs []).berth 95 15).intrap = false) ∧
      ((berth95 fun x => { x with intrap := true }).berth 95 15).intrap = true ∧ ((berth95 fun x => { x with run := 2 }).berth 95 15).run = 2 ∧
      (let x := (berth95 fun x => { x with pdef := true, stops := [⟨1000, 1⟩] }).berth 95 15
       x.pdef = true ∧ x.stops.find? (fun r => r.q ≤ 1000) = some ⟨1000, 1⟩) ∧
      (sregs []).cur.org = none ∧
      ((waits (.wakes (org 95 15) false 2000 0 63)).berth 95 15).wait = .wakes (org 95 15) false 2000 0 63 ∧
      ((waits (.receipts (org 95 15) 3 2000 63)).berth 95 15).wait = .receipts (org 95 15) 3 2000 63 ∧
      (let x := (berth95 fun x => { x with run := 0, pstop := true }).berth 95 15
       x.pstop = true ∧ x.run = 0) ∧
      ((sregs []).berth 95 15).pstop = false ∧ coreOk 95 = true ∧ ((sregs []).core 95).badLines.contains 4095 = false ∧
      ((((sregs []).modCore 95 fun k => { k with badLines := [4095] }).core 95).badLines.contains 4095 = true) ∧
      ((rail 2 1000).cluster 23).rail = (2, 1000) ∧ ((rail 2 1001).cluster 23).rail ≠ (2, 1000) ∧ ((rail 3 1000).cluster 23).rail = (3, 1000) ∧
      ((rail 0 1000).cluster 23).rail ≠ (3, 1000) := by decide +kernel

/-! ## The mesh and the room -/

theorem witness_RoomLoadsAndStoresIssue :
    let s := sregs [(1, 0xFFFFF8), (2, 0xFFFF00)]
    ready hd [.s 1, .s 3] s = true ∧ ready hd [.s 2, .m 7] s = true ∧ ready hd [.s 2, .v 15, .tag 15, .m 7] s = true ∧
      (s.sreg 1).toNat % 8 = 0 ∧ (s.sreg 1).toNat + 8 ≤ 2 ^ 24 ∧ (s.sreg 2).toNat % 32 = 0 ∧ (s.sreg 2).toNat + 256 ≤ 2 ^ 24 := by decide +kernel

def okOf {ε α : Type} (x : Except ε α) : Option α := x.toOption

def errOf {ε α : Type} (x : Except ε α) : Option ε := match x with
  | .ok _ => none
  | .error e => some e

/-- Partition 0 of all clusters, with the plan. -/
def wholePlan (s : State) (p : Plan) : State :=
  (inPlan s p).modPart 0 fun k => { k with row := { row0 with clmask := 0xFFFFFF }, gazMask := 0xFFFFFF }

/-- East, east, then up into the room of mesh index 2: hop codes 2, 2, 5, whose bits are odd in number without IPAR's. -/
def itUp : Itin := ⟨false, 0b101010010⟩

/-- East. -/
def itEast : Itin := ⟨true, 0b010⟩

theorem witness_MeshInstructionsInjectOrTrap :
    let s (n : Nat) : State := wholePlan (sregs [(1, n)]) plan0
    let fits (n off : Nat) (it : Itin) : Prop := off + n ≤ if itinUp it then 2 ^ 24 else 2 ^ 19
    (okOf ((s 0).routeCheck 0 itUp .plain) = some ⟨[2, 2], true, 2⟩ ∧ okOf ((s 0).routeCheck 0 itEast .plain) = some ⟨[2], false, 1⟩ ∧
      okOf ((s 0).routeCheck 0 itEast .reply) = some ⟨[2], false, 1⟩ ∧ okOf ((s 0).routeCheck 0 itUp .reply) = some ⟨[2, 2], true, 2⟩ ∧
      okOf ((s 0).routeCheck 0 itEast .noUp) = some ⟨[2], false, 1⟩) ∧
    (ready hd [.s 1, .v 15, .tag 15, .m 7] (s 0) = true ∧ ready hd [.s 1, .s 2, .s 3] (s 0) = true) ∧
    (fits 256 (0xFFFF00 - 32 * 255 + 32 * 255) itUp ∧ fits 8 0x7FFF8 itEast ∧ 0xFFFF00 % 32 = 0 ∧ ((s 0x7FFF8).sreg 1).toNat + 32 * 0 = 0x7FFF8) ∧
    (oddOnes 40 (0b010 + 2 ^ 39 * 0) = true ∧ oddOnes 40 (0b101010010 + 2 ^ 39 * 1) = true) ∧
    errOf ((s 0).routeCheck 0 ⟨true, 0b100⟩ .plain) = some { sub := 4, k := 1, dir := 4, pos := 0 } := by decide +kernel

theorem witness_WaitwMaprItchkComplete :
    let s (n w : Nat) : State := (inPlan (sregs [(1, n)]) plan0).modBerth 0 0 fun x => { x with wcnt := BitVec.ofNat 32 w }
    ready hd [.s 1, .s 2] (s 999 1) = true ∧ ((s 999 1).sreg 1).toNat < (s 999 1).lenOf 0 ∧
      0 < ((s 0 1).me.wcnt - ((s 0 1).sreg 2).setWidth 32).toInt ∧ ¬0 < ((s 0 0).me.wcnt - ((s 0 0).sreg 2).setWidth 32).toInt ∧
      ¬0 < ((s 0 0x80000000).me.wcnt - ((s 0 0).sreg 2).setWidth 32).toInt ∧ (s 101 0).ttcOf 0 < ((s 101 0).sreg 1).toNat ∧
      (inIsland (s 101 0)).island? 0 0 = some { base := 900 } ∧ (inIsland (s 101 0)).itc 0 0 < ((s 101 0).sreg 1).toNat ∧ (s 16 0).sreg 1 = 16 ∧
      okOf ((wholePlan (s 0 0) plan0).routeCheck 0 itEast .noUp) = some ⟨[2], false, 1⟩ ∧
      errOf ((wholePlan (s 0 0) plan0).routeCheck 0 ⟨false, 0b010⟩ .plain) = some { sub := 1, pos := 0 } := by decide +kernel

/-- A packet to core 95's room or store, at the last place of each, from core 0 of tier 5. -/
def packet (up : Bool) (act : PktAct) : Packet :=
  { id := 1, org := org 80 0, start := 80, hops := [2], dest := 95, up := up, off := (if up then 2 ^ 24 else 2 ^ 19) - 256, inj := 980, act := act }

theorem witness_PacketsAndRepliesAct :
    let s := sregs []
    let w : Wr := { org := none, key := 0, len := 256, data := 0, mask := 2 ^ 256 - 1, psn := 0, rank := 3 }
    let r (d : DVal) : Reply := { id := 1, org := org 95 15, dest := d, psn := true, room := true, tinfo := 0 }
    let gone := s.modBerth 95 15 fun x => { x with discards := [(0, 999)] }
    (MemOk s ∧ calm s ∧ s.ecc = [] ∧ (s.tier 5).bonds = [] ∧ s.tiers = [] ∧ coreOk 95 = true ∧ coreOk 80 = true) ∧
      ((packet true (.write w)).off + 256 = 2 ^ 24 ∧ (packet false (.read (.d 63))).off + 256 = 2 ^ 19 ∧ w.len ≤ 256) ∧
      (State.unitsOf 4 (wsKey 95 (packet false (.write w)).off) 256).all (fun u => !s.badUnits.contains u && !s.psnUnits.contains u) = true ∧
      s.upsets = [] ∧ State.discarded (gone.berth 95 15) 990 gone.acc = true ∧ State.discarded (s.berth 95 15) 990 s.acc = false ∧
      (s.staleFor 95 980 = false ∧ (s.modCore 95 fun k => { k with mapAt := some 991 }).staleFor 95 990 = true) ∧ (r (.s 63 0)).dest = .s 63 0 ∧ (r (.s 63 0)).psn = true ∧ (r (.v 15 0 0 0)).dest = .v 15 0 0 0 := by
  unfold calm; decide +kernel

/-! ## The matrix engine -/

/-- A tensor record of 64 rows (10 R202), with STAMP 0 and no limit. -/
def recBits (place fmt planes cols stride origin : Nat) : Nat :=
  place + 2 ^ 48 * fmt + 2 ^ 52 * planes + 2 ^ 64 * 64 + 2 ^ 80 * cols + 2 ^ 96 * stride + 2 ^ 352 * 0xFFFFFFFF + 2 ^ 448 * origin

/-- Core 0 owns row 31 of the owner map, of 100 to `fin`, with these records; TTC is 100. -/
def mxState (fin : Nat) (regs recs : List (Nat × Nat)) : State :=
  let s := wholePlan (sregs regs) plan0
  let s := s.modCore 0 fun k => { k with mxen := true, owned := 0x80000000, selb := some 2 }
  let s := s.setCluster 0 { s.cluster 0 with owners := List.replicate 31 ⟨0, 0, 0, false, false⟩ ++ [⟨100, fin, 0, true, false⟩] }
  { s with mem := recs.foldl (fun m e => Memory.write m (roomKey 0 (64 * e.1)) 64 e.2 (2 ^ 512 - 1)) s.mem }

theorem mayMatrix_of {s : State} {d : Nat} {mmac : Bool} (n : Nat) (r : OwnerRow)
    (h : (s.core s.cur.core).mxen = true ∧ (mmac = false → d ≠ 0 → s.journeyFault d = none) ∧
      s.ownerRow (clusterOf s.cur.core) (s.ttcOf s.cur.core) = some (n, r) ∧ (s.core s.cur.core).owned.getLsbD n = true ∧
      s.ttcOf s.cur.core + d ≤ r.fin ∧ (mmac = true → r.islrel = true ∨ s.ttcOf s.cur.core ≤ r.start)) : mayMatrix s d mmac :=
  ⟨h.1, h.2.1, n, r, h.2.2⟩

/-- A, B and a drain's destination: INT8 of 64 by 64, A in the room, B in the last slice rows of the B store, the destination in the
store. -/
def recA : Nat := recBits (2 * 2 ^ 45 + 0xFFF000) 6 0 64 0 0
def recB : Nat := recBits (3 * 2 ^ 45 + 4094 * 2048) 6 0 64 0 (2 ^ 24 - 4096)
def recD : Nat := recBits (0x80000 - 4096) 6 0 64 64 0

theorem witness_matrix_records :
    let s := mxState 400 [(1, 3), (2, 2 ^ 24 - 16448)] [(1, recA), (2, recB), (3, recD)]
    let hdrs : State := { mxState 400 [(2, 2 ^ 24 - 16448)] [(2, recB)] with
      mem := Memory.write (mxState 400 [(2, 2 ^ 24 - 16448)] [(2, recB)]).mem (roomKey 0 (2 ^ 24 - 16448)) 64 (0x14D53 + 2 ^ 96 * 2) (2 ^ 512 - 1) }
    s.ecc = [] ∧ hdrs.ecc = [] ∧ ready hd [.s 1, .s 2] s = true ∧ okOf (s.checkB 2) = some (Rec.ofBits (BitVec.ofNat 512 recB), 4094) ∧
      (Rec.ofBits (BitVec.ofNat 512 recB)).origin + 64 * sliceBytes (Rec.ofBits (BitVec.ofNat 512 recB)) = 2 ^ 24 ∧ (s.cluster 0).array = none ∧
      (s.tileOf 0 3).busy = false ∧ (s.cluster 0).drain = none ∧
      okOf (s.mxRec 3) = some (Rec.ofBits (BitVec.ofNat 512 recD)) ∧ (Rec.ofBits (BitVec.ofNat 512 recD)).ok = true ∧
      (Rec.ofBits (BitVec.ofNat 512 recD)).fmt ∈ [1, 2, 3, 6, 7] ∧
      okOf (s.routeCheck 0 ⟨false, 0⟩ .plain) = some ⟨[], false, 0⟩ ∧
      okOf (s.drainPlace 3 (Rec.ofBits (BitVec.ofNat 512 recD)) ⟨[], false, 0⟩ 0 0 0) = some (0x7F000, 64) ∧ staleAt 0 0xFFFFFFFF 0 = false ∧
      ((hdrs.sreg 2).toNat % 2 ^ 24 = 2 ^ 24 - 16448 ∧ hdrs.tainted (roomKey 0 (2 ^ 24 - 16448)) 64 = false ∧
        headerOk (hdrs.readAs clsM (roomKey 0 (2 ^ 24 - 16448)) 64) = true ∧
        hdrs.readAs clsM (roomKey 0 (2 ^ 24 - 16448)) 64 / 2 ^ 96 % 256 = 2) := by decide +kernel

theorem witness_MatrixInstructionsComplete :
    ready hd [] (mxState 132 [] [(2, recB)]) = true ∧ mayMatrix (mxState 132 [] [(2, recB)]) 32 false ∧ mayMatrix (mxState 132 [] [(2, recB)]) 0 false ∧
      mayMatrix (mxState 116 [] []) 16 false ∧ mayMatrix (mxState 188 [] [(3, recD)]) 88 false ∧ mayMatrix (mxState 365 [] []) 265 false ∧
      mayMatrix (mxState 373 [] [(2, recB)]) 273 false ∧ ready hd [.v 15, .tag 15] (tagged 1) = true ∧ (tagged 1).vtag 15 = 1 ∧
      (tagged 4).vtag 15 = 4 := by
  refine ⟨by decide +kernel, ?_, ?_, ?_, ?_, ?_, ?_, by decide +kernel⟩
  · exact mayMatrix_of 31 ⟨100, 132, 0, true, false⟩ (by decide +kernel)
  · exact mayMatrix_of 31 ⟨100, 132, 0, true, false⟩ (by decide +kernel)
  · exact mayMatrix_of 31 ⟨100, 116, 0, true, false⟩ (by decide +kernel)
  · exact mayMatrix_of 31 ⟨100, 188, 0, true, false⟩ (by decide +kernel)
  · exact mayMatrix_of 31 ⟨100, 365, 0, true, false⟩ (by decide +kernel)
  · exact mayMatrix_of 31 ⟨100, 373, 0, true, false⟩ (by decide +kernel)

/-- One step of the INT8 mode, in the last place of an owner row. -/
theorem witness_MmacStartsAndTakesItsTime :
    let s := mxState 188 [(1, 0)] [(1, recA), (2, recB)]
    let a := Rec.ofBits (BitVec.ofNat 512 recA)
    let b := Rec.ofBits (BitVec.ofNat 512 recB)
    mayMatrix s (24 + (0 + 1 - 0) * stepCycles 0x10) true ∧ s.ecc = [] ∧ ready hd [.s 1] s = true ∧ (s.cluster 0).array = none ∧ (s.tileOf 0 3).busy = false ∧
      ((s.tileOf 0 3).f32 = decide (0x10 / 16 % 4 = 2)) ∧ (s.core 0).selb = some 2 ∧
      okOf (s.mmacRecs 0x10 1 1 2 2 0 0 1) = some (a, roomKey 0 0xFFF000, b, 4094) ∧ (s.tileOf 0 3).part = false ∧
      okOf (s.staleCheck 1 1 a) = some (none, false) ∧ okOf (s.staleCheck 2 2 b) = some (none, false) ∧ s.railFault 0x10 = none ∧ s.me.run = 1 := by
  intro s a b
  exact ⟨mayMatrix_of 31 ⟨100, 188, 0, true, false⟩ (by decide +kernel), by decide +kernel⟩

/-- The same MMAC as a run, with the data of its tile. -/
def run0 : MmacRun :=
  (mxState 188 [(1, 0)] [(1, recA), (2, recB)]).mmacRun 3 { mode := 0x10, ah := 1, bh := 2 } 1 (Rec.ofBits (BitVec.ofNat 512 recA)) (roomKey 0 0xFFF000) 2
    (Rec.ofBits (BitVec.ofNat 512 recB)) 4094

theorem witness_integer_step : run0.kind ≠ 2 ∧ run0.cells = [] ∧ run0.data.length = 4096 ∧ (List.replicate 64 ([] : List Nat)).length = 64 :=
  ⟨by decide +kernel, by decide +kernel, by show (List.replicate 4096 (0 : BitVec 32)).length = 4096; exact List.length_replicate, List.length_replicate⟩

theorem witness_MatrixEventsWriteTheTile :
    let s := mxState 188 [] []
    let t := s.setCluster 23 { s.cluster 23 with mmac := some { run0 with org := org 92 15 } }
    let u := (t.modBerth 92 15 fun x => { x with run := 3 })
    (s.cluster 23).mmac = none ∧ (t.cluster 23).mmac = some { run0 with org := org 92 15 } ∧ coreOk 92 = true ∧
      ((u.berth 92 15).run = 3 ∧ (u.berth 92 15).wait = .none) ∧ run0.s0 < run0.smax ∧ MemOk s ∧ calm s ∧ coreOk (coreOfKey (wsKey 95 0x7FFC0)) = true ∧
      spaceOf (wsKey 95 0x7FFC0) = .ws ∧ s.staleFor 95 980 = false ∧ spaceOf (roomKey 95 0xFFFFC0) = .room ∧ coreOk (coreOfKey (roomKey 95 0xFFFFC0)) = true := by
  intro s t u
  refine ⟨by decide +kernel, rfl, by decide, by decide +kernel, by decide +kernel, by decide +kernel, by unfold calm; decide +kernel, by decide +kernel⟩

/-! ## The stack -/

/-- Position 38 (TTC 100 + 2) is tier 0's in slot-map entry 0; tier 0's power is as given. -/
def stackPlan : Plan := { plan0 with slotmaps := [List.replicate 64 0] }
def stackState (regs : List (Nat × Nat)) : State := wholePlan (sregs regs) stackPlan

theorem witness_BeatInstructionsComplete :
    let s := stackState [(1, 2 ^ 22 - 8), (2, 2 ^ 22 - 64), (3, 5 + 8 * 15), (4, 2 ^ 24 - 64), (5, 2 ^ 22 - 256)]
    s.slotCheck = none ∧ (s.sreg 1).toNat < 2 ^ 22 ∧ (s.sreg 1).toNat % 8 = 0 ∧ (s.sreg 2).toNat % 64 = 0 ∧ (s.sreg 2).toNat < 2 ^ 22 ∧
      ready hd [.s 1, .s 2, .s 3] s = true ∧ ready hd [.s 1, .v 15, .tag 15, .s 3] s = true ∧ (s.replicaOf 0).behind = false ∧
      s.dirTarget 3 = some (5, 15) ∧ s.tierRefuses 5 = false ∧ (s.sreg 4).toNat < 2 ^ 24 ∧ (s.sreg 4).toNat % 64 = 0 ∧
      ready hd [.s 5, .m 7] s = true ∧ (s.sreg 5).toNat + 256 ≤ 2 ^ 22 ∧ (s.sreg 5).toNat % 32 = 0 := by decide +kernel

theorem witness_StairwellsAndTiersComplete :
    let s := stackState [(1, 5), (2, 2 ^ 32 - 1)]
    let up : State := s.modCore 0 fun k => { k with fifoUp := { held := [(1000, 7, 8)] } }
    let tierState (n : Nat) : State := s.modTier 5 fun t => { t with power := { state := n } }
    ready hd [] s = true ∧ (s.core 0).owner = some (0, 0) ∧ (s.part 0).slotPend = none ∧ (up.fifoOf 0 false).held = [(1000, 7, 8)] ∧ 1000 ≤ up.acc ∧
      ready hd [.v 15, .tag 15] s = true ∧ s.stairTo 0 false = some 16 ∧ (16 : Nat) ≠ 0 ∧ (s.senderOf 0 false).free = 8 ∧ (s.senderOf 0 false).last = none ∧
      ((s.sreg 1).toNat % 8 = 5 ∧ s.physTier 0 5 = some 5 ∧ ready hd [.s 1, .s 2] s = true) ∧
      (∀ n, n < 4 → ((tierState n).tier 5).power.state = n) := by decide +kernel

/-- A write beat of KIND k of 64 bytes to the last line of its space. -/
def beatOf (k dtier : Nat) : Beat :=
  { kind := k, src := 0, dtier := dtier, dpos := 15, off := (if k = 5 then 2 ^ 24 else 2 ^ 22) - 64, aop := 0, psn := false, data := 1, org := some (org 0 15),
    part := 0, dreg := none, tries := 1, copy := 0, seg := 0, req := none }

theorem witness_StackEventsReachTheirPlaces :
    let s := stackState []
    let mayNow : State := { s with hall := { s.hall with ttc := 38 } }
    let behind : State := { s with hall := { s.hall with keeper := { behind := true } } }
    let t5 (n : Nat) : State := s.modTier 5 fun t => { t with power := { state := n, wakeAt := 1000 }, ttc := 0 }
    MemOk s ∧ calm s ∧ ((beatOf 5 5).dtier < 8 ∧ (beatOf 5 5).src < 8 ∧ (beatOf 5 5).org = some (org 0 15) ∧ coreOk (org 0 15).core = true ∧
      (org 0 15).berth < 16) ∧ (s.mayResend { beatOf 5 5 with src := 5 } = false) ∧ mayNow.mayResend (beatOf 5 5) = true ∧ s.tierAway 5 = false ∧ s.tierAway 0 = false ∧ (t5 2).tierAway 5 = true ∧
      (beatOf 5 5).off + 64 = 2 ^ 24 ∧ behind.copySource = some 0 ∧ s.copySource = some 6 ∧
      ({ behind with tiers := (List.range 6).map fun t => (t, { replica := { behind := true } }) }).copySource = none ∧
      (s.fifoOf 95 true).base + 2048 ≤ 2 ^ 19 ∧ s.gateDue 5 = false ∧ (t5 1).gateDue 5 = true ∧ ((t5 3).tier 5).power.state = 3 ∧
      ((t5 3).tier 5).power.wakeAt = (t5 3).acc ∧ ((beatOf 2 7).kind = 2 ∧ (beatOf 2 7).off + 64 = 2 ^ 22) ∧ s.rxAwake 6 = true ∧
      (t5 2).rxAwake 5 = false := by unfold calm; decide +kernel

/-! ## The process images -/

/-- Input entry 0 of 1,500 bytes for stream 255, delivered to the last core's room; output record 0 of 64 bytes; frame 63. -/
def imagePlan : Plan :=
  { stackPlan with
    streams := [⟨0, 1500, 0, 255, true, 0, 0xFFFFFFFF⟩]
    delivers := [⟨2 ^ 24 - 1600, 5, 15, true, 0, 0⟩]
    outrecs := [⟨0, 64, false, 0, true, 0, false, 0xFFFFFFFF⟩, ⟨0, 64, true, 0, true, 0, false, 0xFFFFFFFF⟩]
    frames := List.replicate 64 ⟨3, true, 0, 0, 0, 64, 0, 7⟩ }

def imageState (regs : List (Nat × Nat)) : State := wholePlan (sregs regs) imagePlan

/-- A landing in the room of core 0 at its last place: a header with STAMP 0, no limit, and 256 bytes of data. -/
def landingState : State :=
  let s := imageState [(1, 2 ^ 24 - 320), (2, 248)]
  { s with mem := Memory.write s.mem (roomKey 0 (2 ^ 24 - 320)) 64 (2 ^ 64 * 256 + 2 ^ 96 * 0xFFFFFFFF) (2 ^ 512 - 1) }

theorem witness_ImageInstructionsAndStaleness :
    let s := landingState
    let hdr := BitVec.ofNat 512 (s.readAs clsT (roomKey 0 (2 ^ 24 - 320)) 64)
    let m := mxState 188 [(1, 1), (2, 7)] [(255, recA), (0, recA + 2 ^ 320 * 0xFFFFFFFF + 2 ^ 384 * 1)]
    s.ecc = [] ∧ (s.sreg 1).toNat % 64 = 0 ∧ staleAt (hdr.extractLsb' 0 32) (hdr.extractLsb' 96 32) 0 = false ∧
      (ready hd [.s 1, .s 2, .m 7] s = true ∧ (s.sreg 2).toNat + 8 ≤ (hdr.extractLsb' 64 16).toNat ∧
        (s.sreg 1).toNat + 64 + (s.sreg 2).toNat + 8 ≤ 2 ^ 24 ∧ (s.sreg 2).toNat % 8 = 0 ∧ (s.sreg 0).toNat + 256 ≤ (hdr.extractLsb' 64 16).toNat ∧
        (s.sreg 1).toNat + 64 + (s.sreg 0).toNat + 256 ≤ 2 ^ 24) ∧
      (s.outRow 0 0 = some (0, ⟨0, 64, false, 0, true, 0, false, 0xFFFFFFFF⟩) ∧ s.slotCheck = none ∧ ready hd [.s 0, .s 3, .v 15, .tag 15] s = true ∧
        (s.sreg 0).toNat + 64 ≤ 64 ∧ (0 + (s.sreg 0).toNat) % 64 = 0) ∧
      (m.ecc = [] ∧ ready hd [] m = true ∧ okOf (m.mxRec 255) = some (Rec.ofBits (BitVec.ofNat 512 recA)) ∧ (Rec.ofBits (BitVec.ofNat 512 recA)).ok = true ∧
        staleAt (Rec.ofBits (BitVec.ofNat 512 recA)).stamp (Rec.ofBits (BitVec.ofNat 512 recA)).limit 0 = false) ∧
      (let r := Rec.ofBits (BitVec.ofNat 512 (recA + 2 ^ 320 * 0xFFFFFFFF + 2 ^ 384 * 1))
       okOf (m.mxRec 0) = some r ∧ r.ok = true ∧ staleAt r.stamp r.limit 0 = true ∧ r.spol = 1) ∧
      (staleAt 0xFFFFFFFF 0xFFFFFFFF 0 = true ∧ staleAt 5 2 8 = true ∧ staleAt 5 2 7 = false) := by decide +kernel

/-- The filter of stream 255, and a frame of it at port 3. -/
def filter255 : StreamFilter := { bySrc := false, mac := 0xFFFFFFFFFFFF, vlan := 4095, handle := 255 }

def frame (ok : Bool) : Frame :=
  { port := 3, dst := 0xFFFFFFFFFFFF, src := 0, vlan := 4095, payload := List.replicate 1500 1, fcsOk := ok, jumbo := false, seqno := none }

/-- The frame passes its filter; frame 63 is replicated, or not. -/
theorem witness_image_filters :
    let s : State := { imageState [] with filters := [(255, filter255)] }
    let twice : State := { s with replicas := [(63, 0, 63, 9)] }
    (frame true).jumbo = false ∧ (frame true).seqno = none ∧ s.streamOf (frame true) = some filter255 ∧ s.gateOpen filter255 = true ∧
      (s.meterPass filter255 (frame true)).2 = true ∧ filter255.handle < 256 ∧ filter255.gate.all (· < 64) = true ∧
      filter255.meter.all (· < 64) = true ∧ (s.servingEntry filter255.handle).map (·.1) = some 0 ∧ s.replicated 0 63 = none ∧
      twice.replicated 0 63 = some 9 := by decide +kernel

theorem witness_ImageEventsComplete :
    let s := imageState []
    let timed (open_ : Bool) : State := { s with ports := [(3, { windows := [(7, if open_ then 0 else 5, 10)] })] }
    let gate : State := { s with gates := [(7, { start := some 904 })] }
    let row : StreamRow := ⟨0, 1500, 0, 255, true, 0, 0xFFFFFFFF⟩
    MemOk s ∧ calm s ∧ ((frame false).port < 4 ∧ (frame false).fcsOk = false) ∧
      (s.servingEntry 255 = some (0, 0, row) ∧
        row.pstart + row.length ≤ (frame true).payload.length) ∧
      (s.ports.get {} 3).held = [] ∧ (s.part 0).plan = some imagePlan ∧ imagePlan.delivers[0]? = some ⟨2 ^ 24 - 1600, 5, 15, true, 0, 0⟩ ∧
      imagePlan.streams[0]? = some row ∧ s.physTier 0 5 = some 5 ∧
      (s.frameRow 0 63 = some ⟨3, true, 0, 0, 0, 64, 0, 7⟩ ∧ State.windowOpen (s.ports.get {} 3) s.gt 7 = true ∧ s.egressOpen 0 (s.frameScan 0 63) = true) ∧
      (State.windowOpen ((timed false).ports.get {} 3) (timed false).gt 7 = false ∧ State.windowOpen ((timed true).ports.get {} 3) (timed true).gt 7 = true ∧
        ((timed true).ports.get {} 3).held = []) ∧
      (s.outRow 0 (65535 / 2 ^ 16) = some (0, ⟨0, 64, false, 0, true, 0, false, 0xFFFFFFFF⟩) ∧ s.ended.contains (s.taskOf 0 15) = false ∧
        65528 % 2 ^ 16 = 0xFFF8 ∧ 56 % 2 ^ 16 ≠ 0xFFF8) ∧
      (2 ^ 31 ≤ (0x80000000 : Word).toNat ∧ (0x7FFFFFFF : Word).toNat < 2 ^ 31 ∧ (gate.gates.get {} 7).start = some 904 ∧ 904 + 96 = gate.acc) ∧
      (({ s with seq := { s.seq with sync := true } } : State).seq.sync = true ∧ s.seq.sync = false) := by unfold calm; decide +kernel

/-! ## The courier -/

/-- Window 63 serves core 0 in both directions until TTC 101; ring 3 of core 0 is valid. -/
def courierPlan : Plan :=
  { stackPlan with windows := List.replicate 63 ⟨0, 0, 0, 0, 0, false⟩ ++ [⟨0, 101, 0, 0, 2, true⟩], xlb := ⟨0, 0, 0, true, 0x1F00⟩ }

def courierState (regs recs : List (Nat × Nat)) : State :=
  let s := wholePlan (sregs regs) courierPlan
  let s := s.modCore 0 fun k => { k with rings := [(3, { base := 0x7F000, sizem1 := 127, valid := true })] }
  let s := s.modPart 0 fun p => { p with xlb := courierPlan.xlb }
  { s with mem := recs.foldl (fun m e => Memory.write m (roomKey 0 (64 * e.1)) 64 e.2 (2 ^ 512 - 1)) s.mem }

theorem witness_CourierInstructionsComplete :
    let s := courierState [(1, 0xFFFFFFFFF000), (2, 0x0040004000000000), (3, 3), (4, 0x1F), (5, 0)] [(255, recA)]
    let r := Rec.ofBits (BitVec.ofNat 512 recA)
    let recd : Ring := { base := 0x7F000, sizem1 := 127, valid := true, wr := 1, recs := [⟨0, 1, false, some 990⟩] }
    let one : State := s.modCore 0 fun k => { k with rings := [(3, recd)] }
    let sup : State := s.modPart 0 fun p => { p with xlb := ⟨0, 0, 1, true, 0⟩, svb := ⟨0, 0, 0, true, 0⟩ }
    s.ecc = [] ∧ ready hd [.s 1, .s 2, .s 3] s = true ∧ okOf (s.mxRec 255) = some r ∧ r.ok = true ∧ r.fmt ∈ [1, 2, 3, 6, 7, 8] ∧
      s.recPlace r = some (roomKey 0 0xFFF000) ∧ s.cpyFault 0 (s.cpyOf 1 1 2 3 255 63 r (roomKey 0 0xFFF000)) = none ∧ s.slotCheck = none ∧
      (63 < (s.tlbShare 0).2 ∧ entryOk (s.sreg 4) = true) ∧ (s.part 0).row = { row0 with clmask := 0xFFFFFF } ∧ row0.a40 = true ∧
      ((s.ring 0 3).valid = true ∧ s.winRow 0 63 = some ⟨0, 101, 0, 0, 2, true⟩ ∧ s.servedCore 0 ⟨0, 101, 0, 0, 2, true⟩ = some 0 ∧ s.ttcOf 0 < 101) ∧
      (s.ring 0 3).skipPads.head? = none ∧ (one.ring 0 3).skipPads.claims = 0 ∧ (one.ring 0 3).skipPads.head? = some ⟨0, 1, false, some 990⟩ ∧ s.namedBy 0 false = true ∧
      (sup.namedBy 0 false = false ∧ sup.namedBy 0 true = true) := by decide +kernel

/-- The copy that CPY asks for above, as copy n. -/
def copyOf (n : Nat) (f : Copy → Copy) : State :=
  let s := courierState [(1, 0x10000), (2, 0x0040004000000000), (3, 3)] [(255, recA)]
  let s := s.setCopy n (f (s.cpyOf 1 1 2 3 255 63 (Rec.ofBits (BitVec.ofNat 512 recA)) (roomKey 0 0xFFF000)))
  { s with courier := { s.courier with tlb := [(63, ⟨1, 0x7⟩)] } }

theorem witness_CourierEventsComplete :
    let s := courierState [] []
    let got (n : Nat) : State := copyOf n fun c => { c with got := [(63, 5, 0)] }
    let plain : State := (got 7).modPart 0 fun p => { p with row := { p.row with a40 := false } }
    let side : State := { got 7 with courier := { (got 7).courier with side := [⟨0, 7, 0, 0x10000, 5, 0⟩] } }
    let missing : State := copyOf 7 fun c => { c with miss := some 1 }
    let rc : State := copyOf 7 fun c => { c with rc := some { unit := 126, n := 2 } }
    let c7 : Option Copy := (got 7).copy? 7
    let ahead : State := copyOf 7 fun c => { c with next := 1, flying := [0] }
    MemOk s ∧ MemOk (got 7) ∧ calm s ∧ coreOk (org 95 15).core = true ∧ (org 95 15).berth < 16 ∧ (0 : Word).getLsbD 4 = false ∧ entryValid 0 = false ∧
      s.courier.copies = [] ∧ s.copy? 7 = none ∧ s.courier.side = [] ∧
      ((missing.copy? 7).map (·.miss) = some (some 1) ∧ missing.courier.side = [] ∧ (missing.part 0).msgs = []) ∧
      ((beatOf 5 5).dtier < 6 ∧ (beatOf 5 5).dpos < 16 ∧ (beatOf 5 5).src < 6) ∧
      ((got 7).copy? 7).isSome = true ∧ ((got 7).copy? 7).map (fun c => (c.ended, c.held.isNone, c.isHall)) = some (false, true, false) ∧
      (c7.map (fun c => (State.cutOff c 63, (got 7).farBlocked 7 c 0xFC0)) = some (false, false)) ∧
      ((got 7).copy? 7).bind (fun c => c.got.find? (fun e => e.1 = 63)) = some (63, 5, 0) ∧
      ((got 7).copy? 7).map (fun c => ((got 7).copyXlate 7 c (c.segAt 63).va).1) = some (.hit 0xFC0) ∧
      (side.courier.side = [⟨0, 7, 0, 0x10000, 5, 0⟩] ∧ 0x10000 / 2 ^ 16 = 1 ∧ side.translate 0 0x10000 true = .hit 0) ∧
      ((plain.copy? 7).map (fun c => (c.rc.isNone, c.part)) = some (true, 0) ∧ (plain.part 0).row.a40 = false ∧
        (plain.copy? 7).map (fun c => (c.stop.isNone, c.next, c.flying)) = some (true, 0, []) ∧ ((got 7).part 0).row.a40 = true) ∧
      ((ahead.copy? 7).map (fun c => (c.stop.isNone, c.flying)) = some (true, [0]) ∧
        (ahead.copy? 7).bind (fun c => (List.range c.nsegs).find? fun i => (c.segAt i).row = (c.segAt 1).row && (c.segAt i).col = (c.segAt 1).col) = some 1) ∧
      ((rc.copy? 7).map (fun c => (c.org.core, c.ringNo)) = some (0, 3) ∧ rc.tierAway 0 = false ∧
        (rc.ring 0 3).base + 32 * 126 + 32 * 2 ≤ 2 ^ 19) := by unfold calm; decide +kernel

/-! ## Journeys -/

/-- Journey 15 of 64 cycles from TTC 100 on core 0, with berth 15. -/
def journeyPlan : Plan :=
  { stackPlan with journeys := List.replicate 15 ⟨0, 0, 0, 0, 0, false, 0, 0, [], 0, 0⟩ ++ [⟨100, 64, 0x8000, 0, 0, true, 0, 2 ^ 24 - 0x1040, [0], 0, 0⟩] }

def journeyState (n : Nat) : State :=
  let s := wholePlan (sregs [(1, 0), (2, 0x8000), (3, 0x7FFF)]) journeyPlan
  let s := s.modPart 0 fun p => { p with journeys := [(15, { state := n, core := some 0 })] }
  s.modBerth 0 15 fun x => { x with journey := some (0, 15), used := true, entry := 8 }

theorem witness_JourneyInstructionsComplete :
    let s := { journeyState 1 with cur := { core := 0, berth := 15 } }
    let f := sregs []
    let a : State := wholePlan (sregs [(1, 95), (2, 0xFFFF)]) plan0
    let pair : State := { s with words := [(1, .nop hd)] }
    ready hd [] s = true ∧ s.words = [] ∧ ready hd [] pair = true ∧ pair.words ≠ [] ∧ pair.me.journey = some (0, 15) ∧
      s.me.journey = some (0, 15) ∧ (s.journeyRow 0 15).isSome = true ∧ ready hd [] f = true ∧ f.me.journey = none ∧
      ready hd [.s 1, .s 2] a = true ∧ a.physCore a.myPart ((a.sreg 1).toNat % 128) = some 95 ∧
      (∀ i, i < 16 → (a.sreg 2).getLsbD i = true → (a.berth 95 i).journey = none) := by decide +kernel

theorem witness_JourneyEventsComplete :
    let r : JourneyRow := ⟨100, 64, 0x8000, 0, 0, true, 0, 2 ^ 24 - 0x1040, [0], 0, 0⟩
    let two : Plan := { journeyPlan with journeys := journeyPlan.journeys.take 15 ++ [{ r with nplc := 1, plc := [0, 1] }] }
    let carry : State := (journeyState 3).modPart 0 fun p => { p with plan := some two }
    (sregs []).activeRow 7 15 = none ∧ (journeyState 0).activeRow 0 15 = some r ∧ ((journeyState 0).journey 0 15).state = 0 ∧
      (journeyState 0).placementOf 0 r 0 = some (0, 0) ∧ (journeyState 0).ttcOf 0 = r.start ∧ ((journeyState 0).tier 0).power.state < 2 ∧
      ((journeyState 1).journey 0 15).state = 1 ∧ ((journeyState 1).journey 0 15).failed = false ∧
      (journeyState 1).ended.contains (.journey 0 15) = false ∧ ((journeyState 1).journey 0 15).core = some 0 ∧
      ((journeyState 2).journey 0 15).state = 2 ∧ MemOk (journeyState 2) ∧ coreOk 0 = true ∧ r.saveoff + 0x1040 ≤ 2 ^ 24 ∧
      carry.carryNext 0 15 = some (15, 1, 1) ∧ (journeyState 3).carryNext 0 15 = none := by decide +kernel

/-! ## The pair -/

/-- A pair link that is on, in a role, whose designated set is the last 4,096 bytes of core 0's room. -/
def pairState (regs : List (Nat × Nat)) (f : PairSt → PairSt) : State :=
  (stackState regs).modPart 0 fun p =>
    { p with pair := f { p.pair with en := true, peer := true, desig := [(0, 2 * 2 ^ 45 + 0xFFF000, 4096)] } }

theorem witness_PairInstructionsComplete :
    let s := pairState [(1, 0xFFF000), (2, 4096), (3, 5), (4, 64), (5, 0xFFFFC0)] fun x => { x with role := 1, peerFit := true }
    let r2 := pairState [] fun x => { x with role := 2 }
    ((s.pair 0).en = true ∧ (s.pair 0).peer = true ∧ s.physTier 0 ((s.sreg 3).toNat % 8) = some 5 ∧ s.slotCheck = none) ∧
      ready hd [.s 1, .s 3, .s 2] s = true ∧ ready hd [.s 1, .s 3, .v 15, .tag 15] s = true ∧
      ((s.sreg 1).toNat < 2 ^ 24 ∧ s.inDesig 0 (roomKey 0 0xFFF000) 4096 = true ∧ (s.sreg 2).toNat % 64 = 0 ∧ 64 ≤ (s.sreg 2).toNat ∧
        (s.sreg 2).toNat ≤ 4096 ∧ (s.sreg 1).toNat % 64 = 0 ∧ (s.core 0).foldEnd ≤ s.acc) ∧
      (s.inDesig 0 (roomKey 0 0xFFFFC0) 64 = true ∧ (s.sreg 4).toNat = 64) ∧
      ready hd [] s = true ∧ (s.pair 0).role = 1 ∧ (s.pair 0).peerFit = true ∧ (r2.pair 0).role = 2 ∧
      ¬((r2.pair 0).role = 1 ∧ (r2.pair 0).peer = true ∧ (r2.pair 0).peerFit = true) := by decide +kernel

/-- A frame of the pair link of KIND k. -/
def pairFrame (k : Nat) : PairFrame :=
  { kind := k, part := 0, pairid := true, mark := 1, seq := 9, scn := 3, role := 1, fit := true, taken := false, alarm := false, psn := false, payload := 5,
    a := 2 * 2 ^ 45 + 0xFFFFC0, tier := 0, entry := 0, itin := ⟨false, 0⟩, form := 0, wb := 0, flips := (0, 0) }

theorem witness_PairEventsComplete :
    let s := pairState [] fun x => { x with role := 2, fit := true }
    let w (d l : Nat) : PairWait := ⟨pairFrame 1, none, d, l⟩
    let waits (d l : Nat) : State := pairState [] fun x => { x with wait := [w d l] }
    let resync := pairState [] fun x => { x with role := 1, rsy := true }
    coreOk 95 = true ∧ (badCopies (pairFrame 1) = 0 ∧ (s.part 0).row.valid = true ∧ (s.pair 0).en = true) ∧
      ((pairState [] fun x => { x with role := 1 }).pair 0).role = 1 ∧ (MemOk s ∧ (s.pair 0).role = 2 ∧
        s.placeKey 0 (pairFrame 6).a = some (roomKey 0 0xFFFFC0)) ∧
      s.waitOf 0 9 = none ∧ ((waits 1 0).waitOf 0 9 = some (w 1 0) ∧ (waits 1 0).gt < 1) ∧ ((waits 0 0).gt = 0 ∧ 0 < 0 + 552 * 180) ∧
      552 * 180 ≤ (w (552 * 180) 0).deadline ∧
      (((sregs []).pair 0).en = false ∧ (3, 1) ∉ (s.pair 0).hbGot ∧
        (3, 1) ∈ ((pairState [] fun x => { x with hbGot := [(3, 1)] }).pair 0).hbGot) ∧
      ((s.pair 0).fit = true ∧ ((pairState [] fun x => { x with miss := true }).pair 0).miss = true) ∧
      ((pairState [] fun x => { x with role := 1, yieldAt := some (0, true) }).pair 0).yieldAt = some (0, true) ∧
      ((s.rsyLines 0)[64]? = none ∧ (resync.rsyLines 0)[0]? = some (roomKey 0 0xFFF000) ∧ resync.rsyNext 0 = some (roomKey 0 0xFFF000) ∧ resync.badUnits = [] ∧
        resync.tainted (roomKey 0 0xFFF038) 8 = false) := by
  decide +kernel

/-! ## Plans, power, repair and the harts -/

/-- Firmware runs; the plan port of partition 7 is in a state, with a plan staged. -/
def portState (n : Nat) : State :=
  { (stackState []).modPart 7 fun p => { p with plstat := n, staged := some plan0 } with boot := { fw := some ⟨0, 0, true, true⟩ } }

theorem witness_PlanEventsComplete :
    (sregs []).boot.fw = none ∧ (portState 0).boot.fw ≠ none ∧ ((portState 0).part 7).plstat = 0 ∧ ((portState 0).part 7).activateReq = false ∧
      ((portState 1).part 7).plstat = 1 ∧ ((portState 1).part 7).staged = some plan0 ∧ ((portState 2).part 7).plstat = 2 ∧
      (portState 2).tooSlow 4 = false ∧ (portState 2).tooSlow 3 = true ∧ ((portState 3).part 7).plstat = 3 ∧ MemOk (portState 3) ∧
      ((portState 4).part 7).plstat = 4 ∧ ((stackState []).part 0).running = true ∧ ((sregs []).part 7).running = false ∧
      (portState 1).planErr 7 plan0 ≠ 0 ∧
      ((portState 0).parts.any fun e => e.1 ≠ 7 && e.2.row.valid && rowsMeet { row0 with clmask := 0 } e.2.row) = true ∧
      (∀ e ∈ (portState 0).parts, e.1 ≠ 0 → e.2.row.valid = true → rowsMeet row0 e.2.row = false) ∧ row0.valid = true ∧
      ((portState 1).setPart 7 { (portState 1).part 7 with row := row0 }).planErr 7 { plan0 with len := 1008, period := some 1000000 } = 0 := by decide +kernel

theorem witness_PowerAndBootEventsComplete :
    let s := sregs []
    let trip : State := { s with aon := { s.aon with tripped := true } }
    let hot : State := { trip with hall := { trip.hall with therm := { temp := 100 } } }
    let step (n : Nat) : State := { s with freq := { s.freq with cur := n } }
    let ramp (a : Nat) (done : Bool) : State := { s with freq := { s.freq with act := some (0, done), rampEnd := some a } }
    let cool : List Nat := List.replicate 25 99
    let rails (n : Nat) : State := { portState 0 with scans := 20000, clusters := [(23, { ofs := n })] }
    let upset : State := { rails 1 with faults := List.replicate 17 (State.FaultKind.corr.num, 95, 15000) }
    let warm : List Nat := List.replicate 24 0 ++ [115]
    (5 : Word).toNat % 8 = 5 ∧ (s.freq.act = none ∧ s.freq.queue = none ∧ s.freq.tcap = []) ∧ (ramp 0 false).freq.act ≠ none ∧
      (stackState []).fMin = 0 ∧ s.fMin = 4 ∧ (step 3).freq.cur < 4 ∧ 0 < (step 1).freq.cur ∧
      ((ramp 1 false).gt < 1 ∧ (ramp 0 false).freq.rampEnd = some 0 ∧ (ramp 0 true).freq.act = some (0, true)) ∧
      (cool.length = 25 ∧ ∀ k, k < 25 → cool.getD k 0 < (s.thermOf k).twarn ∧ cool.getD k 0 < (s.thermOf k).ttrip) ∧
      ((rails 11).boot.fw ≠ none ∧ (rails 11).corrections 23 = 0 ∧ ((rails 11).cluster 23).ofsAt + 10000 ≤ (rails 11).scans ∧ ((rails 11).cluster 23).ofs < 12) ∧
      (upset.corrections 23 = 17 ∧ 0 < (upset.cluster 23).ofs) ∧ s.undervoltDue 23 = none ∧
      (warm.length = 25 ∧ (s.thermOf 24).ttrip ≤ warm.getD 24 0) ∧ s.aon.tripped = false ∧ trip.aon.tripped = true ∧
      (hot.thermOf 24).twarn ≤ (hot.thermOf 24).temp ∧ (∀ k, k < 25 → (trip.thermOf k).temp < (trip.thermOf k).twarn) ∧
      s.boot.bootsel % 2 = 0 ∧ (({ s with boot := { bootsel := 1 } } : State).boot.bootsel % 4 = 1) ∧
      (({ s with boot := { bootsel := 3 } } : State).boot.bootsel % 4 = 3) ∧ s.boot.waiting = false ∧
      (({ s with boot := { waiting := true } } : State).boot.waiting = true) ∧ s.boot.fw = none ∧ (portState 0).boot.fw = some ⟨0, 0, true, true⟩ ∧
      ((s.part 7).attcmd ≠ 1 ∧ ((s.setPart 7 { s.part 7 with attcmd := 1 }).part 7).attcmd = 1) ∧ s.fuses.fw ≤ 0 := by decide +kernel

theorem witness_ReliabilityAndHartEventsComplete :
    let s := imageState []
    let key := (State.scrubSpan (.room 95)).1 + 64 * (s.acc / 256 % (State.scrubSpan (.room 95)).2)
    let failing : State := { s with ecc := [(key + 56, .unc)] }
    let t : TestPkg := { head := 0x5450_4B31 + 2 * 2 ^ 64, unit := 23, sigOk := true, pass := true }
    let held : State := { s with test := { s.test with pkg := some t } }
    ((s.lineEcc key).any (fun e => e.2 = .corr || e.2 = .unc) = false ∧ (failing.lineEcc key).any (fun e => e.2 = .corr || e.2 = .unc) = true) ∧
      (s.test.pkg = none ∧ t.headOk = true ∧ t.target = 2 ∧ t.sigOk = true ∧ s.fuses.test ≤ t.version ∧ t.unit < 24 ∧ (s.cluster t.unit).outsite = 7) ∧ held.test.pkg = some t ∧
      s.aon.freezeAt = none ∧ ({ s with aon := { s.aon with freezeAt := some 1001 } } : State).aon.freezeAt = some 1001 ∧ 1 % 8 ≠ 0 ∧
      (2 ^ 22 - 64 + 64 ≤ 2 ^ 22 ∧ (2 ^ 22 - 64) % 64 = 0) ∧
      ((s.outRows 0)[1]? = some (1, ⟨0, 64, true, 0, true, 0, false, 0xFFFFFFFF⟩)) ∧
      (let row : OutRow := ⟨0, 64, true, 0, true, 0, false, 0xFFFFFFFF⟩
       let one : State := s.modPart 0 fun p => { p with plan := some { imagePlan with outrecs := [row] } }
       MemOk one ∧ one.ownedRecs 56 8 = [(0, 0, row)] ∧ row.offset ≤ 56 ∧ 56 + 8 ≤ row.offset + row.length ∧ row.offset + row.length ≤ 2 ^ 16 ∧
         one.ownedRecs 64 8 = []) ∧
      (s.hartKey 0x1FFFFFF = some (hallKey 0x1FFFFFF) ∧ s.tainted (hallKey 0x1FFFFFF) 1 = false ∧ Hart.app 3 ≠ .mgmt) ∧
      (2 ^ 25 - 64 + 64 ≤ 2 ^ 25 ∧ 2 ^ 25 < 2 ^ 25 - 63 + 64) := by decide +kernel

theorem witness_ScanEventsComplete :
    let s := stackState []
    let taken : State := s.modTier 5 fun t => { t with taken := some (BitVec.ofNat 512 (7 * 2 ^ 128), false) }
    let slipped : State := s.modCore 95 fun k => { k with phases := [⟨16, []⟩], slipped := true, noted := [roomKey 95 (2 ^ 24 - 64)] }
    let undo : State := { s with ended := [.berth 95 15], undoLogs := [(95, [⟨2 ^ 18 - 1, .berth 95 15, 5, [], false, false⟩])] }
    (s.part 0).loaded = false ∧ (taken.tier 5).taken = some (BitVec.ofNat 512 (7 * 2 ^ 128), false) ∧ ((s.tier 5).taken = none ∧ (s.tier 5).power.state < 2) ∧
      coreOk 95 = true ∧ (s.core 95).phases[0]? = none ∧ (slipped.core 95).phases[0]? = some ⟨16, []⟩ ∧ (slipped.core 95).slipped = true ∧
      MemOk slipped ∧ (∀ n ∈ (slipped.core 95).noted, spaceOf (n + 0x28) = .room) ∧ ((s.core 95).slipped = false) ∧
      (s.undoLogs.get [] 95).find? s.restorable = none ∧ MemOk undo ∧
      (undo.undoLogs.get [] 95).find? undo.restorable = some ⟨2 ^ 18 - 1, .berth 95 15, 5, [], false, false⟩ := by decide +kernel

/-! ## Words, fetching, steps and traps -/

theorem witness_EncodeThenDecode : Instr.isEvent (.loop hd 63 (-1) 4) = false ∧ Instr.wordOk (.loop hd 63 (-1) 4) = true ∧
    Instr.wordOk (.mmac hd 0x20 3 63 255 127) = true := by decide

theorem witness_DecodeThenEncode : (decodeWord 0x01D0A30E0000000000000000).toOption = some (.add ⟨true, true, 2⟩ 5 6 7) := by decide

theorem witness_FalseGuardHasNoEffect :
    let s := super (sregs [])
    (0x01D0A30E0000000000000000 : BitVec 96).extractLsb' 87 9 = (0x0180A30E0000000000000000 : BitVec 96).extractLsb' 87 9 ∧
      (0x01D0A30E0000000000000000 : BitVec 96).extractLsb' 0 83 = (0x0180A30E0000000000000000 : BitVec 96).extractLsb' 0 83 ∧
      Instr.head? (.halt ⟨false, true, 0⟩) = some ⟨false, true, 0⟩ ∧ readable s (.p 0) = true ∧ s.guardVal ⟨false, true, 0⟩ = false ∧
      okOf (checkLine 0 0 none) = some ⟨[(0, 0)], 1, false⟩ := by decide +kernel

/-- HALT is not privileged, RTE is, and so is MTC of another berth's MODE. -/
theorem witness_PrivilegedWordsTrapInTaskMode :
    let s := sregs []
    let words : List (BitVec 96) := [0x000000000000000000000000, 0x910000000000000000000000, 0x8F0000000000000000000103]
    words.all (fun w => (decodeWord w).toOption.isSome && dupNamed (s.dupOf s.wsBase) w = none && regNamedOk s.cur.berth w) = true ∧
      s.cur.mode = false ∧ (super s).cur.mode = true ∧ ((0x910000000000000000000000 : BitVec 96).extractLsb' 88 8).toNat = 0x91 ∧
      regPrivileged ((0x8F0000000000000000000103 : BitVec 96).toNat % 256) = true := by decide +kernel

/-- Core 0 with its berth at a PC, and its line 0 five NOPs. -/
def fetchState (pc : Nat) : State :=
  let s := (inPlan (sregs []) plan0).modBerth 0 0 fun x => { x with used := true, pc := pc }
  { s with mem := Memory.write s.mem (codeKey 0 0) 64 0 (2 ^ 64 - 1) }

theorem witness_FetchFollowsTheLines :
    let s := fetchState 4
    let bad : BitVec 96 := 0xE4 * 2 ^ 88
    okOf (checkLine 0 4 none) = some ⟨[(0, 0)], 8, false⟩ ∧ ((fetchState 0x8000).berth 0 0).pc = 0x8000 ∧
      (ready hd [] s = true ∧ s.cur.committed = false ∧ ({ s with cur := { s.cur with pc := 8 } } : State).lineTarget 4094 0 = some 4095) ∧
      ((s.berth 0 0).pc < 0x8000 ∧ (s.core 0).refetch.contains 0 = false ∧ (s.core 0).deadLines.contains 0 = false ∧
        s.lineAt 0 0 ≠ BitVec.allOnes 512 ∧ lparBad (s.lineAt 0 0) = false ∧ ∀ k, k < 5 → sparBad (s.lineAt 0 0) k = false) ∧
      (((fetchState 0x7FFC).berth 0 0).pc < 0x8000 ∧ (fetchState 0x7FFC).lineAt 0 4095 = BitVec.allOnes 512 ∧
        ((fetchState 0x7FFC).core 0).refetch.contains 4095 = false) ∧
      MemOk s ∧ coreOk 95 = true ∧ ((bad.extractLsb' 88 8).toNat = 0xE4 ∧ (s.berth 0 0).intrap = false ∧ (s.berth 0 0).wsp % 8192 = 0) := by
  decide +kernel

/-- ADD s5 = s6 + s7 placed to run next: the state that a step runs it from. -/
theorem witness_StepRunsDecodedInstruction :
    let s := State.reset.withFetchWord 96 0x0100A30E0000000000000000
    s.words = [] ∧ dueInput s.ticks s.inputs = none ∧ s.running = true ∧
      s.agenda.head?.all (fun e => !(e.at_ < s.acc || (e.at_ = s.acc && e.ph < phTurn))) = true ∧
      nextTurn s s.turnCore (96 - s.turnCore) = some (0, .berthTurn ⟨0, 0⟩) ∧ (s.berth 0 0).endAt = none ∧ (s.berth 0 0).held = [] ∧
      (s.berth 0 0).run = 1 ∧ s.isGated 0 0 = false ∧ okOf (s.fetch 0 0) = some ⟨[(0, 0x0100A30E0000000000000000)], 1, false⟩ ∧
      okOf ((s.beginGroup 0 0 1).decodeChecked 0x0100A30E0000000000000000) = some (.add hd 5 6 7) := by decide +kernel

/-- Slots 0 and 1 of a line with PTMPL 1 are a pair of NOPs. -/
theorem witness_step_of_a_pair : okOf (checkLine (2 ^ 503 + 2 ^ 480) 0 none) = some ⟨[(0, 0), (1, 0)], 2, false⟩ ∧
    lparBad (2 ^ 503 + 2 ^ 480) = false := by decide +kernel

theorem witness_EveryInstructionAnswers : Instr.unitsOk (.berthTurn ⟨95, 15⟩) = true ∧ Instr.unitsOk (.berthTurn ⟨95, 16⟩) = false := by decide

theorem witness_IssueWritesOnlyTrapWords :
    let s := sregs []
    Instr.isEvent (.svc hd 0) = false ∧ MemOk s ∧ coreOk s.cur.core = true ∧ s.me.wsp % 8192 = 0 ∧ s.me.wsp < 2 ^ 19 ∧ s.me.undo = none ∧
      s.badUnits = [] ∧ (match exec (.svc hd 0) s with | .next t => t.me.pc | _ => 1) = 0 := by decide +kernel

theorem witness_StepKeepsMemoryCanonical :
    let s := State.reset.withFetchWord 96 0
    MemOk s ∧ (match step s with | .next t => t.me.pc | _ => 0) = 1 := by decide +kernel

theorem witness_MemoryReadsBackWrites : Memory.wf [(0, 1), (2 ^ 45, 0)] = true ∧ Memory.wf [] = true := by decide

theorem witness_TrapsEnterOrQueue :
    let t : TrapInfo := { cause := 0x17, sub := 0, tipc := 2 ^ 16 - 1 }
    let s := berth95 fun x => { x with wsp := 0x7E000, wpc := 2 ^ 16 - 1 }
    let q := berth95 fun x => { x with queue := List.replicate 4 ⟨t, 0⟩ }
    MemOk s ∧ coreOk 95 = true ∧ (s.berth 95 15).wsp < 2 ^ 19 ∧ (s.berth 95 15).wsp % 8192 = 0 ∧ (s.berth 95 15).wpc < 2 ^ 16 ∧ t.tipc < 2 ^ 16 ∧
      (s.berth 95 15).intrap = false ∧ t.cause ≠ 6 ∧ ¬(t.cause = 3 ∧ t.sub = 3) ∧ ((berth95 fun x => { x with intrap := true }).berth 95 15).intrap = true ∧
      (s.berth 95 15).queue.length < 4 ∧ 4 ≤ (q.berth 95 15).queue.length := by decide +kernel

theorem witness_ReadoutsLandTheirWords :
    let s := sregs [(1, 16), (2, 17)]
    let j := { journeyState 1 with cur := { core := 0, berth := 15 } }
    ready hd [.s 1] s = true ∧ (s.sreg 1).toNat + (0 : BitVec 5).toNat ≤ 16 ∧ ready hd [.s 2] s = true ∧
      16 < (s.sreg 2).toNat + (0 : BitVec 5).toNat ∧ ready hd [] s = true ∧ s.me.journey = none ∧ j.me.journey = some (0, 15) ∧
      (j.journeyRow 0 15).isSome = true := by decide +kernel

/-! ## Single results, worked out by hand from the rules -/

/-- The first landing that an instruction puts on the agenda: what it writes, its flags and its cycle. -/
def lands (i : Instr) (s : State) : Option (List DVal × BitVec 9 × Nat) :=
  match exec i s with
  | .next t => t.agenda.findSome? fun e => match e.act with
    | .row (.landing l) => some (l.dests, l.flags, e.at_)
    | _ => none
  | _ => none

/-- Cause, SUB and TINFO that an instruction leaves in its workspace when it traps. -/
def traps (i : Instr) (s : State) : Option (Nat × Nat × Nat) :=
  match exec i s with
  | .next t =>
    let w := Memory.read t.mem (wsKey 0 0x28) 8
    some (w % 256, w / 256 % 256, w / 2 ^ 32)
  | _ => none

/-- The PC after a branch. -/
def pcAfter (i : Instr) (s : State) : Option Nat :=
  match exec i s with
  | .next t => some t.me.pc
  | _ => none

theorem test_add_wraps : lands (.add hd 5 1 2) (sregs [(1, 2 ^ 64 - 1), (2, 2)]) = some ([.s 5 1], 0, 1016) := by decide +kernel
theorem test_sub_borrows : lands (.sub hd 5 0 2) (sregs [(2, 1)]) = some ([.s 5 0xFFFFFFFFFFFFFFFF], 0, 1016) := by decide +kernel
theorem test_mulh_of_minus_ones : lands (.mulh hd 5 1 1) (sregs [(1, 2 ^ 64 - 1)]) = some ([.s 5 0], 0, 1016) := by decide +kernel
theorem test_mulhu_of_all_ones : lands (.mulhu hd 5 1 1) (sregs [(1, 2 ^ 64 - 1)]) = some ([.s 5 0xFFFFFFFFFFFFFFFE], 0, 1016) := by decide +kernel
theorem test_div_of_least_by_minus_one :
    lands (.div hd 5 1 2) (sregs [(1, 2 ^ 63), (2, 2 ^ 64 - 1)]) = some ([.s 5 0x8000000000000000], 0, 1064) := by decide +kernel
theorem test_div_rounds_to_zero : lands (.div hd 5 1 2) (sregs [(1, 2 ^ 64 - 7), (2, 2)]) = some ([.s 5 0xFFFFFFFFFFFFFFFD], 0, 1064) := by decide +kernel
theorem test_rem_has_dividends_sign : lands (.rem hd 5 1 2) (sregs [(1, 2 ^ 64 - 7), (2, 2)]) = some ([.s 5 0xFFFFFFFFFFFFFFFF], 0, 1064) := by decide +kernel
theorem test_divu_by_zero : lands (.divu hd 5 1 2) (sregs [(1, 7)]) = some ([.s 5 0xFFFFFFFFFFFFFFFF], 0, 1064) := by decide +kernel
theorem test_shl_takes_amount_modulo_64 : lands (.shl hd 5 1 (.reg 2)) (sregs [(1, 3), (2, 65)]) = some ([.s 5 6], 0, 1016) := by decide +kernel
theorem test_sar_keeps_sign : lands (.sar hd 5 1 (.imm 63)) (sregs [(1, 2 ^ 63)]) = some ([.s 5 0xFFFFFFFFFFFFFFFF], 0, 1016) := by decide +kernel
theorem test_rol : lands (.rol hd 5 1 (.imm 4)) (sregs [(1, 0xA000000000000001)]) = some ([.s 5 0x1A], 0, 1016) := by decide +kernel
theorem test_clz_of_zero : lands (.clz hd 5 1) (sregs []) = some ([.s 5 64], 0, 1016) := by decide +kernel
theorem test_ctz : lands (.ctz hd 5 1) (sregs [(1, 0x48)]) = some ([.s 5 3], 0, 1016) := by decide +kernel
theorem test_extb_signed : lands (.extb hd true 5 1 4 3) (sregs [(1, 0x1A5)]) = some ([.s 5 0xFFFFFFFFFFFFFFFA], 0, 1016) := by decide +kernel
theorem test_insb : lands (.insb hd 5 1 8 7) (sregs [(1, 0x1AB), (5, 0x112233)]) = some ([.s 5 0x11AB33], 0, 1016) := by decide +kernel
theorem test_clmul_of_threes : lands (.clmul hd 5 1 1) (sregs [(1, 3)]) = some ([.s 5 5], 0, 1016) := by decide +kernel
theorem test_clmul_prefix_xor : lands (.clmul hd 12 9 24) (sregs [(9, 0x12), (24, 2 ^ 64 - 1)]) = some ([.s 12 0xE], 0, 1016) := by decide +kernel
theorem test_movhi_keeps_low : lands (.movhi hd 5 1 0xBEEF) (sregs [(1, 2 ^ 64 - 1)]) = some ([.s 5 0xBEEFFFFFFFFFFFFF], 0, 1016) := by decide +kernel
theorem test_lea_scales : lands (.lea hd 5 1 2 3 (-1)) (sregs [(1, 100), (2, 2 ^ 64 - 2)]) = some ([.s 5 83], 0, 1016) := by decide +kernel
theorem test_cmp_signed_less : lands (.cmp hd 2 1 2 1 2) (sregs [(1, 2 ^ 63), (2, 1)]) = some ([.p 1 true, .p 2 false], 0, 1016) := by decide +kernel
theorem test_cmp_unsigned_less : lands (.cmp hd 4 1 2 1 2) (sregs [(1, 2 ^ 63), (2, 1)]) = some ([.p 1 false, .p 2 true], 0, 1016) := by decide +kernel

theorem test_fadd_tie_to_even : lands (.fadd hd .rne 5 1 2) (sregs [(1, 0x3F800000), (2, 0x33800000)]) = some ([.s 5 0x3F800000], 1, 1016) := by decide +kernel
theorem test_fadd_up : lands (.fadd hd .rup 5 1 2) (sregs [(1, 0x3F800000), (2, 0x33800000)]) = some ([.s 5 0x3F800001], 1, 1016) := by decide +kernel
theorem test_fmul_overflows : lands (.fmul hd .rne 5 1 1) (sregs [(1, 0x7F7FFFFF)]) = some ([.s 5 0x7F800000], 5, 1016) := by decide +kernel
theorem test_fmul_overflow_to_zero_is_greatest : lands (.fmul hd .rtz 5 1 1) (sregs [(1, 0x7F7FFFFF)]) = some ([.s 5 0x7F7FFFFF], 5, 1016) := by decide +kernel
theorem test_fdiv_by_zero : lands (.fdiv hd .rne 5 1 2) (sregs [(1, 0xBF800000)]) = some ([.s 5 0xFF800000], 8, 1048) := by decide +kernel
theorem test_fsqrt_of_negative : lands (.fsqrt hd .rne 5 1) (sregs [(1, 0xBF800000)]) = some ([.s 5 0x7FC00000], 16, 1048) := by decide +kernel
theorem test_ffma_rounds_once :
    lands (.ffma hd 0 .rne 5 1 1 2) (sregs [(1, 0x3F800001), (2, 0xBF800002)]) = some ([.s 5 0x28800000], 0, 1016) := by decide +kernel

/-- The published check values of these CRCs, over the nine digits "123456789": 0x29B1 for the polynomial and start of 12 R245, 0xF4 for those of
R252, 0x62EC59E3F1A4F00A for those of 23 R402, R403, with the final inversion, 0xCBF43926 for the CRC-32 of R395. -/
theorem test_crc_check_values :
    let digits : Nat := 0x393837363534333231
    crcOf (0x1021 : BitVec 16) 0xFFFF (byteBits 9 digits) = 0x29B1 ∧ crcOf (0x07 : BitVec 8) 0 (byteBits 9 digits) = 0xF4 ∧
      crc64 (BitVec.allOnes 64) ((List.range 9).map fun i => BitVec.ofNat 8 (0x31 + i)) ^^^ BitVec.allOnes 64 = 0x62EC59E3F1A4F00A ∧
      ~~~crc32 (BitVec.allOnes 32) 72 digits = 0xCBF43926 := by
  decide +kernel

theorem test_br_backwards : pcAfter (.br hd (-1) 3) { sregs [] with cur := { core := 0, berth := 0, pc := 16 } } = some 11 := by decide +kernel
theorem test_br_below_line_zero : traps (.br hd (-1) 0) (sregs []) = some (2, 6, 0xFFFFFFFF) := by decide +kernel
theorem test_loop_falls_through : pcAfter (.loop hd 1 1 0) ((sregs [(1, 1)]).modBerth 0 0 fun x => { x with pc := 5 }) = some 5 := by decide +kernel
theorem test_svc_enters_handler : traps (.svc hd 0x21) (sregs []) = some (0x18, 0, 0x21) := by decide +kernel
theorem test_ld_misaligned : traps (.ld hd 6 5 1 0) (sregs [(1, 0x104)]) = some (8, 1, 0x104) := by decide +kernel
theorem test_ld_outside_own_workspace : traps (.ld hd 6 5 1 0) (sregs [(1, 0x2000)]) = some (7, 2, 0x2000) := by decide +kernel
theorem test_waitc_late_slips : traps (.waitc hd 0 100) (inPlan (sregs []) plan0) = some (0xB, 1, 0) := by decide +kernel
theorem test_mesh_link_absent : traps (.send hd (.d 2) 1 ⟨true, 0b100⟩ 0) (wholePlan (sregs []) plan0) = some (0xC, 4, 0x41) := by decide +kernel

/-- An element of the first vector register that an instruction lands. -/
def elemOf (w i : Nat) (r : Option (List DVal × BitVec 9 × Nat)) : Option (Nat × BitVec 9) :=
  r.bind fun l => l.1.head?.bind fun d => match d with
    | .v _ data _ _ => some (elem w i data, l.2.1)
    | _ => none

/-- v1 and v2 with tag t, whose elements of w bytes are x and y in place 1 and 0 elsewhere. -/
def vpair (t w x y : Nat) : State :=
  let m := Memory.write (Memory.write [] (wsKey 0 0) 4 (t * 0x110) 15) (wsKey 0 (0x500 + w)) w x (2 ^ w - 1)
  { sregs [] with mem := Memory.write m (wsKey 0 (0x600 + w)) w y (2 ^ w - 1) }

theorem test_vadd_saturates : elemOf 1 1 (lands (.vadd hd true .rne 0 3 1 (.vec 2)) (vpair 6 1 0x70 0x70)) = some (0x7F, 0x100) := by decide +kernel
theorem test_vadd_wraps : elemOf 1 1 (lands (.vadd hd false .rne 0 3 1 (.vec 2)) (vpair 6 1 0x70 0x70)) = some (0xE0, 0) := by decide +kernel
theorem test_vsub_unsigned_clamps : elemOf 1 1 (lands (.vsub hd true .rne 0 3 1 (.vec 2)) (vpair 7 1 1 2)) = some (0, 0x100) := by decide +kernel
theorem test_vshr_by_width : elemOf 4 1 (lands (.vshr hd 0 3 1 (.imm 32)) (vpair 4 4 0x80000000 0)) = some (0, 0) := by decide +kernel
theorem test_vsar_by_width : elemOf 4 1 (lands (.vsar hd 0 3 1 (.imm 32)) (vpair 4 4 0x80000000 0)) = some (0xFFFFFFFF, 0) := by decide +kernel
theorem test_vshuf_reverses : elemOf 4 62 (lands (.vshuf hd 4 0 3 1 0) (vpair 4 4 9 0)) = some (9, 0) := by decide +kernel
theorem test_vslide_joins : elemOf 4 63 (lands (.vslide hd false 0 3 1 2 (.imm 2)) (vpair 4 4 0 7)) = some (7, 0) := by decide +kernel
theorem test_vextr_signs : lands (.vextr hd true 5 1 0 1) (vpair 6 1 0x80 0) = some ([.s 5 0xFFFFFFFFFFFFFF80], 0, 1016) := by decide +kernel
theorem test_vred_sums : lands (.vred hd 0 .rne 0 5 1) (vpair 6 1 0xFF 0) = some ([.s 5 0xFFFFFFFFFFFFFFFF], 0, 1032) := by decide +kernel
theorem test_vector_format_trap : traps (.vadd hd false .rne 0 3 1 (.bs 2)) (vpair 8 8 0 0) = some (5, 1, 0x1108) := by decide +kernel

/-! ## Further clauses of the statements, each with a state that meets its hypotheses -/

/-- BRX past line 4,095; RESYNC with a mark still to come, and none. -/
theorem witness_branch_and_resync_clauses :
    let s := { sregs [(1, 4095)] with cur := { core := 0, berth := 0, pc := 8 } }
    let r := s.modCore 0 fun k => { k with phases := [⟨16, []⟩, ⟨992, [(0, 8)]⟩] }
    4096 ≤ ((s.cur.pc / 8 : Nat) : Int) + (0 : BitVec 45).toInt + (s.sreg 1).toNat ∧
      ((r.core 0).phases.find? fun x => r.ttcOf 0 < x.mark) = some ⟨16, []⟩ ∧
      ((((r.modTier 0 fun t => { t with ttc := 16 }).core 0).phases.find? fun x => (r.modTier 0 fun t => { t with ttc := 16 }).ttcOf 0 < x.mark).bind fun x =>
        x.entries.find? fun e => e.1 = s.cur.berth) = some (0, 8) ∧
      (s.core 0).phases = [] ∧ (s.modMe fun x => { x with run := 3 }).me.run = 3 := by decide +kernel

/-- An element below a lower bound of 1. -/
theorem witness_vbnd_trap_clause :
    let s := tagged 4
    active (s.mreg 0) 4 0 = true ∧ ((boundElem 4 (elem 4 0 (s.vreg 1)) 1 1).1 || (boundElem 4 (elem 4 0 (s.vreg 1)) 1 1).2) = true ∧
      (fdecode (fmtOfTag 1) 0x7FC00000).isNaN = true := by decide +kernel

/-- Samples of the last places of the store, the room and the common room, with and without poison. -/
theorem witness_sample_clauses :
    let s := sregs []
    let psn : State := { s with ecc := [(roomKey 95 (2 ^ 24 - 8), .poison)], psnUnits := [wsKey 95 0x7FFE0] }
    s.cur.denied = none ∧ s.upsets = [] ∧ (s.tier 5).bonds = [] ∧
      (State.unitsOf 4 (wsKey 95 0x7FF00) 256).all (fun u => !s.badUnits.contains u) = true ∧
      (State.unitsOf 4 (wsKey 95 0x7FFE0) 32).any psn.psnUnits.contains = true ∧
      (∀ u ∈ State.unitsOf 8 (roomKey 95 (2 ^ 24 - 256)) 256, psn.ecc.get .good u = .good ∨ psn.ecc.get .good u = .poison) ∧
      (State.unitsOf 8 (roomKey 95 (2 ^ 24 - 8)) 8).any (fun u => psn.ecc.get .good u = .poison) = true ∧
      (∀ u ∈ State.unitsOf 8 (commonKey 5 (2 ^ 22 - 256)) 256, s.ecc.get .good u = .good) := by decide +kernel

/-- A slip's handler in an island, whose clock stands at 100. -/
theorem witness_rte_of_a_slip :
    let s := (inIsland (sregs [])).modBerth 0 0 fun x => { x with slipTrap := true, witc := 7 }
    s.cur.late = none ∧ s.pastEdge s.here = false ∧ s.me.slipTrap = true ∧ s.me.pdef = false ∧ (s.island? 0 0).isSome = true ∧ s.itc 0 0 = 100 ∧
      s.me.witc = 7 := by decide +kernel

/-- Register 31 of a workspace with a duplicate. -/
theorem witness_landing_with_a_duplicate :
    let s : State := { (sregs []).modBerth 95 15 (fun x => { x with wsp := 0 }) with mem := Memory.write [] (wsKey 95 0x10) 8 (2 ^ 31) 255 }
    s.isWorkspace 95 0 = true ∧ (s.dupOf (wsKey 95 0)).testBit 31 = true ∧ MemOk s ∧ State.discarded (s.berth 95 15) 990 s.acc = false ∧
      (0x17F : BitVec 9) ≠ 0 := by decide +kernel

/-- Itineraries that fail, for each shape. -/
theorem witness_itinerary_clauses :
    let s := wholePlan (sregs []) plan0
    (errOf (s.routeCheck 0 ⟨false, 0b010⟩ .plain)).isSome = true ∧ (errOf (s.routeCheck 0 ⟨false, 0b010⟩ .reply)).isSome = true ∧
      (errOf (s.routeCheck 0 itUp .noUp)).isSome = true ∧ ready hd [.s 1] s = true ∧ ready hd [.s 1, .s 2, .s 3] s = true ∧
      (((s.sreg 0).toNat + 32 * 0) % 32 = 0 ∧ (s.sreg 0).toNat + 32 * 0 + 256 ≤ 2 ^ 19) := by decide +kernel

/-- A waking tier before and at its wake cycle. -/
theorem witness_tgate_of_a_waking_tier :
    let wakes (w : Nat) (b : Bool) : State := (stackState []).modTier 5 fun t => { t with power := { state := 3, wakeAt := w }, replica := { behind := b } }
    ((wakes 1001 false).acc < ((wakes 1001 false).tier 5).power.wakeAt ∧ ((wakes 1000 true).tier 5).replica.behind = true) ∧
      (((wakes 1000 false).tier 5).power.state = 3 ∧ ((wakes 1000 false).tier 5).replica.behind = false ∧
        ((wakes 1000 false).tier 5).power.wakeAt ≤ (wakes 1000 false).acc) := by decide +kernel

/-- A frame of a recovered stream, once more with its number; a record that cannot be read. -/
theorem witness_image_clauses :
    let s : State := { imageState [] with filters := [(255, filter255)], crPairs := [(0, (255, 32, 0))],
                                          recovery := [(255, { seq := 65535, hist := 1, any := false })] }
    let f : Frame := { frame true with seqno := some 65535 }
    let m : State := { mxState 188 [] [(255, recA)] with ecc := [(roomKey 0 (64 * 255), .poison)] }
    s.recovered f = some (255, 32, 0) ∧ (State.recover (s.recovery.get {} 255) 32 0 s.gt 65535).2 = false ∧ f.port < 4 ∧ f.fcsOk = true ∧
      f.jumbo = false ∧ f.payload.length ≤ 1500 ∧ (errOf (m.mxRec 255)).isSome = true ∧ m.countRecord 255 = m := by decide +kernel

/-- The second segment of a copy, with the first in the buffer: where a stop with FCODE 1 ends. -/
theorem witness_copy_stop_clauses :
    let s := copyOf 7 fun c => { c with next := 1, buf := [(0, 5, 0)] }
    let plain : State := s.modPart 0 fun p => { p with row := { p.row with a40 := false } }
    let side : State := { s with courier := { s.courier with side := [⟨0, 7, 0, 0x10000, 5, 0⟩] } }
    (plain.copy? 7).map (fun c => (c.ended, c.held.isNone, c.rc.isNone, c.stop.isNone)) = some (false, true, true, true) ∧
      (plain.copy? 7).map (fun c => c.buf) = some [(0, 5, 0)] ∧ (plain.part 0).row.a40 = false ∧ (side.copy? 7).map (fun c => side.farBlocked 7 c 0) = some false := by decide +kernel

/-- A partition with a frame at TXOFF 0, whose decision point is at its edge. -/
theorem witness_pair_clauses :
    let s := (imageState []).modPart 0 fun p => { p with pair := { p.pair with en := true, role := 2, fit := true, miss := true, tdec := 0 } }
    (s.pair 0).role = 2 ∧ (s.pair 0).fit = true ∧ (s.pair 0).miss = true ∧ s.leastTxoff 0 = some 0 ∧ (s.pair 0).tdec ≤ 0 ∧ s.portWrites = [] ∧
      0 < ({ s with seq := { s.seq with p := 31250 } } : State).seq.p ∧ ((sregs []).pair 0).en = false := by decide +kernel

/-- Firmware with three channel swaps, and a partition with a plan; a control core's own memory. -/
theorem witness_firmware_and_hart_clauses :
    let s := stackState []
    let swaps : State := { portState 0 with faults := List.replicate 3 (State.FaultKind.swap.num, 0, 0) }
    s.pfailDue = false ∧ swaps.pfailDue = true ∧ swaps.boot.found = [] ∧ (s.part 0).plan.isSome = true ∧ (portState 0).boot.fw.isSome = true ∧
      s.hartKey (2 ^ 18 - 1) = some (hallKey (2 ^ 18 - 1)) ∧ s.tainted (ctlKey 7 (2 ^ 18 - 1)) 1 = false ∧ s.hartStoring = false ∧
      s.looksForEdge 0 = false ∧ (sregs []).looksForEdge 5 = true ∧ (sregs []).kept = [] := by decide +kernel

end Sys2Proof.Tests
end

/-! ## Memory: canonical memories are determined by what they read, and a write read byte by byte (00 R5, 13 R265) -/

namespace Sys2Proof.Machine.Memory

theorem byte_cons (a : Nat) (v : Byte) (m : List Host.Cell) (c : Nat) :
    byte ((a, v) :: m) c = if a = c then v else byte m c := rfl

/-- A canonical memory reads something else than an unlisted byte where its first entry lies. -/
theorem byte_head_ne_unlisted (a : Nat) (v : Byte) (m : List Host.Cell) (h : wf ((a, v) :: m) = true) :
    byte ((a, v) :: m) a ≠ unlisted a := by
  simpa [byte_cons] using ((wf_cons _ _).mp h).1

/-- Below its first entry a canonical memory lists nothing. -/
theorem byte_below_head (a : Nat) (v : Byte) (m : List Host.Cell) (h : wf ((a, v) :: m) = true) (c : Nat) (hc : c < a) :
    byte ((a, v) :: m) c = unlisted c := by
  obtain ⟨-, above, -⟩ := (wf_cons _ _).mp h
  exact byte_lt _ c (by simpa using ⟨hc, fun b w hf => Nat.lt_trans hc (above (b, w) hf)⟩)

/-- The entries after the first, read on their own. -/
theorem byte_tail (a : Nat) (v : Byte) (m : List Host.Cell) (h : wf ((a, v) :: m) = true) (c : Nat) :
    byte m c = if a = c then unlisted c else byte ((a, v) :: m) c := by
  obtain ⟨-, above, -⟩ := (wf_cons _ _).mp h
  split
  · rename_i hc
    exact byte_lt m c (hc ▸ above)
  · rename_i hc
    rw [byte_cons, if_neg hc]

/-- Canonical memories that read alike at every address are the same list. -/
theorem eq_of_byte_eq (m m' : List Host.Cell) (h : wf m = true) (h' : wf m' = true) (same : ∀ c, byte m c = byte m' c) : m = m' := by
  induction m generalizing m' with
  | nil =>
    cases m' with
    | nil => rfl
    | cons e' m' => exact absurd (same e'.1).symm (byte_head_ne_unlisted _ _ _ h')
  | cons e m ih =>
    obtain ⟨a, v⟩ := e
    cases m' with
    | nil => exact absurd (same a) (byte_head_ne_unlisted _ _ _ h)
    | cons e' m' =>
      obtain ⟨a', v'⟩ := e'
      rcases Nat.lt_trichotomy a a' with hlt | rfl | hgt
      · exact absurd ((same a).trans (byte_below_head _ _ _ h' a hlt)) (byte_head_ne_unlisted _ _ _ h)
      · have hv : v = v' := by simpa [byte_cons] using same a
        have ht : m = m' := ih m' ((wf_cons _ _).mp h).2.2 ((wf_cons _ _).mp h').2.2 fun c => by
          rw [byte_tail _ _ _ h, byte_tail _ _ _ h', same]
        rw [hv, ht]
      · exact absurd ((same a').symm.trans (byte_below_head _ _ _ h a' hgt)) (byte_head_ne_unlisted _ _ _ h')

/-- A byte read after a write: the byte of the data where the mask has its bit, and every other as before. -/
theorem byte_write (m : List Host.Cell) (a n v mask b : Nat) (h : wf m = true) :
    byte (write m a n v mask) b =
      if a ≤ b ∧ b < a + n ∧ mask.testBit (b - a) = true then BitVec.ofNat 8 (v / 2 ^ (8 * (b - a))) else byte m b := by
  induction n generalizing m a v mask with
  | zero => exact (if_neg (by omega)).symm
  | succ n ih =>
    have hfirst : wf (if mask % 2 = 1 then put m a (BitVec.ofNat 8 v) else m) = true := by
      split
      · exact wf_put m a _ h
      · exact h
    have hbyte : byte (if mask % 2 = 1 then put m a (BitVec.ofNat 8 v) else m) b =
        if mask % 2 = 1 ∧ b = a then BitVec.ofNat 8 v else byte m b := by
      split <;> simp [byte_put m a b _ h, *]
    rw [write, ih _ _ _ _ hfirst, hbyte]
    rcases Nat.lt_trichotomy b a with hlt | rfl | hgt
    · rw [if_neg fun hc => absurd hc.1 (by omega), if_neg fun hc => absurd hc.2 (by omega), if_neg fun hc => absurd hc.1 (by omega)]
    · have hlast : b < b + (n + 1) := by omega
      rw [if_neg fun hc => absurd hc.1 (Nat.not_succ_le_self b)]
      simp only [Nat.sub_self, Nat.testBit_zero, decide_eq_true_eq, Nat.le_refl, hlast, Nat.mul_zero, Nat.pow_zero, Nat.div_one,
        true_and, and_true]
    · have hidx : b - a = b - (a + 1) + 1 := by omega
      have hspan : (a + 1 ≤ b ∧ b < a + 1 + n) ↔ (a ≤ b ∧ b < a + (n + 1)) := by omega
      have hdiv : v / 256 / 2 ^ (8 * (b - (a + 1))) = v / 2 ^ (8 * (b - (a + 1) + 1)) := by
        rw [Nat.div_div_eq_div_mul, Nat.mul_succ, Nat.pow_add, Nat.mul_comm]
      rw [if_neg (by omega : ¬(mask % 2 = 1 ∧ b = a)), hidx, Nat.testBit_succ, hdiv]
      simp only [← and_assoc, hspan]

/-- n bytes that are those of v read as v's lowest n bytes (00 R5). -/
theorem read_of_bytes (m : List Host.Cell) (a n v : Nat) (h : ∀ i < n, byte m (a + i) = BitVec.ofNat 8 (v / 2 ^ (8 * i))) :
    read m a n = v % 2 ^ (8 * n) := by
  induction n generalizing a v with
  | zero => simp [read, Nat.mod_one]
  | succ n ih =>
    have hlow : byte m a = BitVec.ofNat 8 v := by simpa using h 0 (by omega)
    have hrest : read m (a + 1) n = v / 256 % 2 ^ (8 * n) := ih (a + 1) (v / 256) fun i hi => by
      rw [show a + 1 + i = a + (i + 1) by omega, h (i + 1) (by omega), Nat.div_div_eq_div_mul, Nat.mul_succ, Nat.pow_add, Nat.mul_comm]
    rw [read, hlow, hrest, Nat.mul_succ, Nat.pow_add, Nat.mul_comm (2 ^ (8 * n)), Nat.mod_mul, BitVec.toNat_ofNat]

/-- A write of n whole bytes is read back. -/
theorem read_write (m : List Host.Cell) (a n v : Nat) (h : wf m = true) : read (write m a n v (2 ^ n - 1)) a n = v % 2 ^ (8 * n) :=
  read_of_bytes _ _ _ _ fun i hi => by
    rw [byte_write _ _ _ _ _ _ h, Nat.add_sub_cancel_left, if_pos ⟨by omega, by omega, by simpa [Nat.testBit_two_pow_sub_one] using hi⟩]

end Sys2Proof.Machine.Memory

/-! ## Every row answers: the next state, or the one named stop of a unit that the E96 has not (00 R3, 02 R41) -/

namespace Sys2Proof.Machine

/-- What a row answers, by whether the units it names exist (`u`). -/
def AnswersWhen (u : Bool) (r : Res) : Prop := (u = true → ∃ t, r = .next t) ∧ (u = false → r = .fault .noSuchUnit)

namespace AnswersWhen

/-- A row that names no unit, or none that could be absent. -/
theorem of_next {r : Res} (h : ∃ t, r = .next t) : AnswersWhen true r := ⟨fun _ => h, nofun⟩

theorem next (t : State) : AnswersWhen true (.next t) := of_next ⟨t, rfl⟩

/-- A row that stops where a unit is absent, and otherwise answers. -/
theorem of_guard {p : Prop} [Decidable p] {u : Bool} {r : Res} (hp : p ↔ u = false) (h : ∃ t, r = .next t) :
    AnswersWhen u (if p then .fault .noSuchUnit else r) :=
  ⟨fun hu => by rwa [if_neg (by simp [hp, hu])], fun hu => if_pos (hp.mpr hu)⟩

theorem guarded {u : Bool} {r : Res} (h : ∃ t, r = .next t) : AnswersWhen u (if !u then .fault .noSuchUnit else r) :=
  of_guard (by simp) h

theorem guarded_next (u : Bool) (t : State) : AnswersWhen u (if !u then .fault .noSuchUnit else .next t) := guarded ⟨t, rfl⟩

/-- A row that answers where its units exist, and otherwise stops. -/
theorem next_if {p : Prop} [Decidable p] {u : Bool} (hp : p ↔ u = true) (t : State) :
    AnswersWhen u (if p then .next t else .fault .noSuchUnit) :=
  ⟨fun hu => ⟨t, if_pos (hp.mpr hu)⟩, fun hu => if_neg (by simp [hp, hu])⟩

end AnswersWhen

open AnswersWhen

/-- A choice between two answers is an answer. -/
theorem ite_next {p : Prop} [Decidable p] {q r : Res} (hq : ∃ t, q = .next t) (hr : ∃ t, r = .next t) :
    ∃ t, (if p then q else r) = .next t := by
  split
  · exact hq
  · exact hr

/-! ### The events that answer by more than one branch -/

theorem execBerthTurn_answers (b : BId) (s : State) : AnswersWhen b.ok (execBerthTurn b s) := by
  refine guarded (ite_next ⟨_, rfl⟩ (ite_next ⟨_, rfl⟩ (ite_next ⟨_, rfl⟩ ?_)))
  dsimp only
  split
  · exact ⟨_, rfl⟩
  · exact ite_next ⟨_, rfl⟩ (by split <;> exact ⟨_, rfl⟩)

theorem execAsyncTrapDelivery_answers (b : BId) (s : State) : AnswersWhen b.ok (execAsyncTrapDelivery b s) := by
  refine guarded ?_
  dsimp only
  split
  · exact ⟨_, rfl⟩
  · exact ite_next ⟨_, rfl⟩ ⟨_, rfl⟩

theorem execLanding_answers (l : Landing) (s : State) : AnswersWhen l.org.ok (execLanding l s) :=
  guarded (ite_next ⟨_, rfl⟩ ⟨_, rfl⟩)

theorem execStoreEffect_next (w : Wr) (s : State) : ∃ t, execStoreEffect w s = .next t := by
  unfold execStoreEffect
  split <;> exact ⟨_, rfl⟩

theorem execMmacStop_answers (cl : Nat) (s : State) : AnswersWhen (cl < 24) (execMmacStop cl s) :=
  of_guard (by simp) (by split <;> exact ⟨_, rfl⟩)

theorem execMmacCompletion_answers (cl : Nat) (s : State) : AnswersWhen (cl < 24) (execMmacCompletion cl s) :=
  of_guard (by simp) (by split <;> exact ⟨_, rfl⟩)

theorem execMacroOpCompletion_answers (cl : Nat) (op : MacroOp) (tile : Nat) (s : State) :
    AnswersWhen (cl < 24 && tile < 4) (execMacroOpCompletion cl op tile s) :=
  of_guard (by simp; omega) ⟨_, rfl⟩

/-- The core of a place is one of the E96's if and only if its tier is (13 R265). -/
theorem coreOk_coreOfKey (key : Nat) : coreOk (coreOfKey key) = decide (key / 2 ^ 42 % 8 < 6) := by
  unfold coreOk coreOfKey
  exact decide_eq_decide.mpr (by omega)

theorem spaceOf_ws_or_room (key : Nat) :
    (spaceOf key = .ws ∨ spaceOf key = .room) ↔ (key < 2 ^ 45 ∨ 2 * 2 ^ 45 ≤ key ∧ key < 3 * 2 ^ 45) := by
  unfold spaceOf
  repeat' split
  all_goals
    simp only [reduceCtorEq, or_true, or_self, true_or, true_iff, false_iff]
    omega

/-- What DRAIN_GROUP_EFFECT looks at is whether its place exists (10 R213). -/
theorem drainPlaceOk_eq (key : Nat) :
    drainPlaceOk key = (coreOk (coreOfKey key) && (spaceOf key = .ws || spaceOf key = .room)) := by
  rw [Bool.eq_iff_iff]
  simp only [drainPlaceOk, coreOk_coreOfKey, Bool.and_eq_true, Bool.or_eq_true, decide_eq_true_eq, spaceOf_ws_or_room]

theorem execDrainGroupEffect_answers (g : DrainGroup) (s : State) :
    AnswersWhen (drainPlaceOk g.key) (execDrainGroupEffect g s) := by
  rw [drainPlaceOk_eq]
  exact guarded (ite_next ⟨_, rfl⟩ (ite_next ⟨_, rfl⟩ ⟨_, rfl⟩))

theorem execWakeEffect_answers (b : BId) (s : State) : AnswersWhen b.ok (execWakeEffect b s) :=
  guarded (by dsimp only; split <;> exact ⟨_, rfl⟩)

theorem execMeshPacketDelivery_answers (p : Packet) (s : State) :
    AnswersWhen (coreOk p.dest && p.org.ok) (execMeshPacketDelivery p s) := by
  rw [Org.ok, ← Bool.and_assoc]
  exact guarded_next _ _

theorem execRemoteReplyLanding_answers (r : Reply) (s : State) : AnswersWhen r.org.ok (execRemoteReplyLanding r s) :=
  guarded (ite_next ⟨_, rfl⟩ (ite_next ⟨_, rfl⟩ ⟨_, rfl⟩))

theorem execHallOutputWrite_answers (b : Beat) (s : State) : AnswersWhen (b.part < 8) (execHallOutputWrite b s) :=
  guarded (ite_next ⟨_, rfl⟩ ⟨_, rfl⟩)

theorem execCourierRequestAccept_answers (part : Nat) (org : Org) (r : CReq) (s : State) :
    AnswersWhen (part < 8 && org.ok) (execCourierRequestAccept part org r s) := by
  rw [Org.ok, ← Bool.and_assoc]
  exact guarded_next _ _

theorem execPartitionConfigure_answers (p : Nat) (r : PartRow) (s : State) : AnswersWhen (p < 8) (execPartitionConfigure p r s) :=
  guarded (ite_next ⟨_, rfl⟩ ⟨_, rfl⟩)

theorem execRoomWriteEffect_answers (w : RoomWr) (s : State) :
    AnswersWhen (Instr.roomWriteEffect w).unitsOk (execRoomWriteEffect w s) := by
  cases w with
  | bytes | used => exact next _
  | stamp | sflag | bflag => exact next_if Iff.rfl _

theorem execPatrolScrub_answers (a : ScrubArr) (s : State) : AnswersWhen (Instr.patrolScrub a).unitsOk (execPatrolScrub a s) := by
  cases a <;> exact next_if Iff.rfl _

theorem execMbias_next (h : Hd) (row : Bool) (d : TileNo) (b : VReg) (s : State) : ∃ t, execMbias h row d b s = .next t := by
  unfold execMbias
  split
  · exact ⟨_, rfl⟩
  split
  · exact ⟨_, rfl⟩
  split
  · exact ⟨_, rfl⟩
  split
  · exact ⟨_, rfl⟩
  · exact issueOp_next _ [] _ _

/-! ### All rows -/

/-- exec answers for every row: an instruction word because its issue does, an event as its units are. -/
theorem exec_answers (i : Instr) (s : State) : AnswersWhen i.unitsOk (exec i s) := by
  cases i with
  -- events that name no unit
  | syncLock | syncLoss | copyFaultStop | translationMiss | farMemoryAccess | receiptWrite | freqreqWrite | railRampComplete
  | thermalSample | testPackageApply | testPackageDone | freezeRequest | reset | aonPowerUp | boot | fuseBlow | ppsPulse | scanEdge
  | hostBootImageWrite | supplyLoss | hallRegisterWrite | counterReadClear | commonRoomWindowStore | outputViewStore
  | hallSramStore => exact next _
  | storeEffect => exact of_next (execStoreEffect_next ..)
  -- events that answer where their units exist
  | budgetEnd | journeyParked | journeyWindowOpen | phaseMark | rollback => exact next_if Iff.rfl _
  | plcmdStage | planVerifyDone | plcmdActivate | plcmdAbort | plcmdStop | planLoadDone | pairNackResend | pairFrameDeadline | hbDue
  | decisionPoint | rsyLineSend | pairFrameReceive | attcmdWrite | attestationReportDone | frameReceive
  | greqStore => exact next_if decide_eq_true_iff.symm _
  | patrolScrub => exact execPatrolScrub_answers ..
  | roomWriteEffect => exact execRoomWriteEffect_answers ..
  -- events that stop where a unit is absent
  | gatedTurn | scanOverrun | preemptionStop | deferredPreemption | waitEnd | berthRelease | stackBeat | nackResend
  | directedBeatEffect | resyncCopyBeat | stairwellEntryWrite | stairwellCreditReturn | tierGateEffect | tierWakeW | deliveryBeat
  | egressFrameTransmit | qbvWindowOpening | gateListExchange | gateResult | sideLogReplay | courierInboundBeat
  | courierOutboundBeat | rcptwReceiptSeen | rcptwDeadline | journeyCarry | digestFold | firmwareRepairAction | undervoltAdjust
  | waitwWakeSeen | waitwDeadline | lineRefetchWrite => exact guarded_next _ _
  | railDenseReached | railNominalReached => exact of_guard (by simp [Instr.unitsOk]) ⟨_, rfl⟩
  | berthTurn => exact execBerthTurn_answers ..
  | asyncTrapDelivery => exact execAsyncTrapDelivery_answers ..
  | landing => exact execLanding_answers ..
  | mmacCompletion => exact execMmacCompletion_answers ..
  | mmacStop => exact execMmacStop_answers ..
  | macroOpCompletion => exact execMacroOpCompletion_answers ..
  | drainGroupEffect => exact execDrainGroupEffect_answers ..
  | wakeEffect => exact execWakeEffect_answers ..
  | meshPacketDelivery => exact execMeshPacketDelivery_answers ..
  | remoteReplyLanding => exact execRemoteReplyLanding_answers ..
  | hallOutputWrite => exact execHallOutputWrite_answers ..
  | courierRequestAccept => exact execCourierRequestAccept_answers ..
  | partitionConfigure => exact execPartitionConfigure_answers ..
  -- instruction words whose issue depends on their form, or comes after a check of its own
  | vbcast _ _ _ src => cases src <;> exact of_next (issueOp_next ..)
  | vplane _ form _ _ => cases form <;> exact of_next (issueOp_next ..)
  | send _ form _ _ _ => cases form <;> exact of_next (issueOp_next ..)
  | sbw _ dir _ _ _ => cases dir <;> exact of_next (issueOp_next ..)
  | mbias => exact of_next (execMbias_next ..)
  -- instruction words with no source but the guard
  | nop | movi | br | call | resync | rdtt | mfc | trap | rte | svc | halt | fence | dbgBrk | dbgMark | railUp | railDn | pwrst | mbld
  | mbsel | mzero | mchk | mstat | itchk | sbmap | sbseq | stairr | stairf | stale | scnr | ingst | rcptw | rcptr | xlget | jyld
  | jbud | pdigRd | prole | ptakeTake | ptakeResign => exact of_next (issueOp_next _ [] _ _)
  -- every other row is an instruction word that issues with its sources
  | _ => exact of_next (issueOp_next ..)

end Sys2Proof.Machine

/-! ## The statements settled -/

namespace Sys2Proof.Proofs

open Sys2Proof.Machine

/-- Settles O54: row by row, by what exec looks at before it answers. -/
theorem everyInstructionAnswers : Obligations.EveryInstructionAnswers := exec_answers

/-- Settles O57: a canonical memory is determined by its bytes, and a write is known byte by byte. -/
theorem memoryReadsBackWrites : Obligations.MemoryReadsBackWrites :=
  ⟨Memory.eq_of_byte_eq, fun m a n v mask h =>
    ⟨Memory.wf_write m a n v mask h, Memory.read_write m a n v h, fun b => Memory.byte_write m a n v mask b h⟩⟩

end Sys2Proof.Proofs

/-! ## Words: the integer operations are the mathematical ones, wrapped to 64 bits (04 R83 to R88) -/

namespace Sys2Proof.Machine

theorem mul_eq_ofNat (x y : Word) : x * y = BitVec.ofNat 64 (x.toNat * y.toNat) := by
  rw [BitVec.ofNat_mul, BitVec.ofNat_toNat, BitVec.ofNat_toNat, BitVec.setWidth_eq, BitVec.setWidth_eq]

theorem addi_eq_ofInt (x : Word) (imm : BitVec 48) : x + sx48 imm = BitVec.ofInt 64 (x.toInt + imm.toInt) := by
  rw [BitVec.ofInt_add, BitVec.ofInt_toInt]
  rfl

theorem sub_eq_ofInt (x y : Word) : x - y = BitVec.ofInt 64 (x.toInt - y.toInt) := by
  rw [Int.sub_eq_add_neg, BitVec.ofInt_add, BitVec.ofInt_neg, BitVec.ofInt_toInt, BitVec.ofInt_toInt, BitVec.sub_eq_add_neg]

theorem shiftLeft_eq_ofNat (x : Word) (n : Nat) : x <<< n = BitVec.ofNat 64 (x.toNat * 2 ^ n) := by
  rw [← Nat.shiftLeft_eq]
  rfl

theorem shiftRight_eq_ofNat (x : Word) (n : Nat) : x >>> n = BitVec.ofNat 64 (x.toNat / 2 ^ n) := by
  apply BitVec.eq_of_toNat_eq
  rw [BitVec.toNat_ushiftRight, Nat.shiftRight_eq_div_pow, BitVec.toNat_ofNat,
    Nat.mod_eq_of_lt (Nat.lt_of_le_of_lt (Nat.div_le_self ..) x.isLt)]

theorem sshiftRight_eq_ofInt (x : Word) (n : Nat) : x.sshiftRight n = BitVec.ofInt 64 (x.toInt / (2 ^ n : Nat)) := by
  rw [← Int.shiftRight_eq_div_pow, ← BitVec.toInt_sshiftRight, BitVec.ofInt_toInt]

/-- The two parts of a rotation meet at bit n. -/
theorem rotateLeft_eq_ofNat (x : Word) (n : Nat) (h : n < 64) :
    x.rotateLeft n = BitVec.ofNat 64 (x.toNat * 2 ^ n + x.toNat / 2 ^ (64 - n)) := by
  have hw : 2 ^ 64 = 2 ^ n * 2 ^ (64 - n) := by rw [← Nat.pow_add, Nat.add_sub_cancel' (Nat.le_of_lt h)]
  have hlow : x.toNat / 2 ^ (64 - n) < 2 ^ n := Nat.div_lt_of_lt_mul (by rw [Nat.mul_comm, ← hw]; exact x.isLt)
  have hsplit : x.toNat * 2 ^ n + x.toNat / 2 ^ (64 - n) = 2 ^ n * x.toNat ||| x.toNat / 2 ^ (64 - n) := by
    rw [Nat.mul_comm, Nat.two_pow_add_eq_or_of_lt hlow]
  rw [hsplit, BitVec.ofNat_or, Nat.mul_comm, ← shiftLeft_eq_ofNat, ← shiftRight_eq_ofNat, BitVec.rotateLeft_def, Nat.mod_eq_of_lt h]

/-- −2^63 / −1 is 2^63, which wraps to −2^63 (04 R86). -/
theorem quotS_eq (x y : Word) :
    quotS x y = if y = 0 then BitVec.allOnes 64 else BitVec.ofInt 64 (x.toInt.tdiv y.toInt) := by
  have : x.sdiv y = BitVec.ofInt 64 (x.toInt.tdiv y.toInt) :=
    BitVec.eq_of_toInt_eq (by rw [BitVec.toInt_sdiv, BitVec.toInt_ofInt])
  rw [quotS, this]

theorem quotU_eq (x y : Word) :
    quotU x y = if y = 0 then BitVec.allOnes 64 else BitVec.ofNat 64 (x.toNat / y.toNat) := by
  rw [quotU, BitVec.udiv_def]

theorem remS_eq (x y : Word) : remS x y = if y = 0 then x else BitVec.ofInt 64 (x.toInt.tmod y.toInt) := by
  rw [remS, ← BitVec.toInt_srem, BitVec.ofInt_toInt]

theorem remU_eq (x y : Word) : remU x y = if y = 0 then x else BitVec.ofNat 64 (x.toNat % y.toNat) := by
  rw [remU, BitVec.umod_def]

/-- A choice by slt is one by the signed values. -/
theorem ite_slt (x y u v : Word) : (if x.slt y then u else v) = if x.toInt < y.toInt then u else v := by
  simp only [BitVec.slt_iff_toInt_lt]

/-- ABS of −2^63 wraps to −2^63 (04 R85). -/
theorem abs_eq_ofNat (x : Word) : (if x.msb then -x else x) = BitVec.ofNat 64 x.toInt.natAbs := by
  rw [← BitVec.ofInt_natCast]
  split
  · rename_i h
    have hneg : x.toInt < 0 := by simpa [BitVec.msb_eq_toInt] using h
    rw [Int.ofNat_natAbs_of_nonpos (Int.le_of_lt hneg), BitVec.ofInt_neg, BitVec.ofInt_toInt]
  · rename_i h
    have hpos : 0 ≤ x.toInt := by simpa [BitVec.msb_eq_toInt] using h
    rw [Int.natAbs_of_nonneg hpos, BitVec.ofInt_toInt]

theorem movhi_eq_ofNat (imm : BitVec 16) (x : Word) :
    (imm ++ x.setWidth 48 : Word) = BitVec.ofNat 64 (imm.toNat * 2 ^ 48 + x.toNat % 2 ^ 48) := by
  have hlow : x.toNat % 2 ^ 48 < 2 ^ 48 := Nat.mod_lt _ (by decide)
  apply BitVec.eq_of_toNat_eq
  rw [BitVec.toNat_append, BitVec.toNat_setWidth, ← Nat.shiftLeft_add_eq_or_of_lt hlow, Nat.shiftLeft_eq, BitVec.toNat_ofNat,
    Nat.mod_eq_of_lt (show imm.toNat * 2 ^ 48 + x.toNat % 2 ^ 48 < 2 ^ 64 by have := imm.isLt; omega)]

theorem lea_eq_ofInt (x y : Word) (sh : Nat) (imm : BitVec 48) :
    x + (y <<< sh) + sx48 imm = BitVec.ofInt 64 (x.toInt + y.toInt * (2 ^ sh : Nat) + imm.toInt) := by
  rw [BitVec.ofInt_add, BitVec.ofInt_add, BitVec.ofInt_mul, BitVec.ofInt_toInt, BitVec.ofInt_toInt, BitVec.ofInt_natCast,
    shiftLeft_eq_ofNat, BitVec.ofNat_mul, BitVec.ofNat_toNat, BitVec.setWidth_eq]
  rfl

theorem extLow_unsigned (w : Nat) (x : Word) : extLow false w x = BitVec.ofNat 64 (x.toNat % 2 ^ w) := by
  apply BitVec.eq_of_toNat_eq
  simp [extLow]

theorem extLow_signed (w : Nat) (x : Word) : extLow true w x = BitVec.ofInt 64 (BitVec.ofNat w x.toNat).toInt := by
  rw [BitVec.ofNat_toNat]
  rfl

theorem extb_unsigned (w p : Nat) (x : Word) : extLow false w (x >>> p) = BitVec.ofNat 64 (x.toNat / 2 ^ p % 2 ^ w) := by
  rw [extLow_unsigned, BitVec.toNat_ushiftRight, Nat.shiftRight_eq_div_pow]

theorem extb_signed (w p : Nat) (x : Word) : extLow true w (x >>> p) = BitVec.ofInt 64 (BitVec.ofNat w (x.toNat / 2 ^ p)).toInt := by
  rw [extLow_signed, BitVec.toNat_ushiftRight, Nat.shiftRight_eq_div_pow]

/-- Bit i of a field that is put in at bit p over the bits of z. -/
theorem getLsbD_insert_field (x z : Word) (p len i : Nat) (hi : i < 64) :
    let m : Word := BitVec.ofNat 64 (ones len) <<< p
    ((z &&& ~~~m) ||| ((x <<< p) &&& m)).getLsbD i = if p ≤ i ∧ i < p + len then x.getLsbD (i - p) else z.getLsbD i := by
  have hm : (BitVec.ofNat 64 (ones len) <<< p).getLsbD i = decide (p ≤ i ∧ i < p + len) := by
    simp only [BitVec.getLsbD_shiftLeft, BitVec.getLsbD_ofNat, ones, Nat.testBit_two_pow_sub_one]
    grind
  simp only [BitVec.getLsbD_or, BitVec.getLsbD_and, BitVec.getLsbD_not, hm, BitVec.getLsbD_shiftLeft]
  grind

/-! ### Counts, the reversal and the carry-less product by the bits they speak of (04 R85, R87) -/

/-- Below the number of trailing zeros of n bits every bit is 0, and the bit at it, if there is one, is 1. -/
theorem ctzNat_spec (v n : Nat) :
    ctzNat v n ≤ n ∧ (∀ i, i < ctzNat v n → v.testBit i = false) ∧ (ctzNat v n < n → v.testBit (ctzNat v n) = true) := by
  induction n generalizing v with
  | zero => simp [ctzNat]
  | succ n ih =>
    obtain ⟨hle, hzero, hone⟩ := ih (v / 2)
    unfold ctzNat
    split
    · rename_i hodd
      simp [hodd]
    · rename_i heven
      refine ⟨by omega, fun i hi => ?_, fun hlt => ?_⟩
      · cases i with
        | zero => simpa using heven
        | succ i => rw [Nat.testBit_succ]; exact hzero i (by omega)
      · rw [Nat.add_comm, Nat.testBit_succ]
        exact hone (by omega)

theorem lt_two_pow_bitLen (v : Nat) : v < 2 ^ bitLen v := by
  unfold bitLen
  split
  · simp [*]
  · exact Nat.lt_log2_self

theorem bitLen_le (v n : Nat) (h : v < 2 ^ n) : bitLen v ≤ n := by
  unfold bitLen
  split
  · exact Nat.zero_le n
  · rename_i hv
    exact (Nat.log2_lt hv).mpr h

theorem testBit_bitLen_pred (v : Nat) (h : 0 < bitLen v) : v.testBit (bitLen v - 1) = true := by
  have hv : v ≠ 0 := fun hv => by simp [bitLen, hv] at h
  simpa [bitLen, hv] using Nat.testBit_log2 hv

/-- The leading zeros of a word are 0, and the bit below them, if there is one, is 1. -/
theorem clzNat_spec (x : Word) :
    clzNat 64 x.toNat ≤ 64 ∧ (∀ i, i < clzNat 64 x.toNat → x.getLsbD (63 - i) = false) ∧
      (clzNat 64 x.toNat < 64 → x.getLsbD (63 - clzNat 64 x.toNat) = true) := by
  have hn : clzNat 64 x.toNat = 64 - bitLen x.toNat := by rw [clzNat, Nat.mod_eq_of_lt x.isLt]
  have hle : bitLen x.toNat ≤ 64 := bitLen_le _ _ x.isLt
  rw [hn]
  refine ⟨Nat.sub_le .., fun i hi => ?_, fun hlt => ?_⟩
  · exact Nat.testBit_lt_two_pow (Nat.lt_of_lt_of_le (lt_two_pow_bitLen _) (Nat.pow_le_pow_right Nat.two_pos (by omega)))
  · rw [show 63 - (64 - bitLen x.toNat) = bitLen x.toNat - 1 by omega]
    exact testBit_bitLen_pred _ (by omega)

/-- Counting the ones of n bits. -/
theorem popNat_eq_countP (v n : Nat) : popNat v n = (List.range n).countP v.testBit := by
  induction n generalizing v with
  | zero => rfl
  | succ n ih =>
    have hrest : v.testBit ∘ Nat.succ = (v / 2).testBit := funext fun i => Nat.testBit_succ v i
    rw [List.range_succ_eq_map, List.countP_cons, List.countP_map, hrest, ← ih, popNat, Nat.add_comm, Nat.testBit_zero]
    rcases Nat.mod_two_eq_zero_or_one v with h | h <;> simp [h]

theorem brevNat_lt (v n : Nat) : brevNat v n < 2 ^ n := by
  induction n generalizing v with
  | zero => simp [brevNat]
  | succ n ih =>
    have hrest := ih (v / 2)
    have hbit : v % 2 * 2 ^ n ≤ 1 * 2 ^ n := Nat.mul_le_mul_right _ (Nat.le_of_lt_succ (Nat.mod_lt v Nat.two_pos))
    rw [brevNat, Nat.pow_succ]
    omega

theorem testBit_brevNat (v n i : Nat) (h : i < n) : (brevNat v n).testBit i = v.testBit (n - 1 - i) := by
  induction n generalizing v i with
  | zero => omega
  | succ n ih =>
    rw [brevNat, Nat.mul_comm, Nat.testBit_two_pow_mul_add _ (brevNat_lt ..)]
    split
    · rename_i hi
      rw [ih _ _ hi, ← Nat.testBit_succ]
      congr 1
      omega
    · have : i = n := by omega
      subst this
      simp

theorem getLsbD_brev (x : Word) (i : Nat) (h : i < 64) : (BitVec.ofNat 64 (brevNat x.toNat 64)).getLsbD i = x.getLsbD (63 - i) := by
  rw [BitVec.getLsbD_ofNat, testBit_brevNat _ _ _ h, decide_eq_true h, Bool.true_and]
  rfl

/-- The exclusive or of f(0) to f(n − 1). -/
def xorBelow (n : Nat) (f : Nat → Bool) : Bool := (List.range n).foldl (fun p i => p != f i) false

@[simp] theorem xorBelow_zero (f : Nat → Bool) : xorBelow 0 f = false := rfl

theorem foldl_xor_init (f : Nat → Bool) (l : List Nat) (b : Bool) :
    l.foldl (fun p i => p != f i) b = (b != l.foldl (fun p i => p != f i) false) := by
  induction l generalizing b with
  | nil => simp
  | cons i l ih =>
    rw [List.foldl_cons, List.foldl_cons, ih, ih (false != f i)]
    simp

theorem xorBelow_succ (n : Nat) (f : Nat → Bool) : xorBelow (n + 1) f = (f 0 != xorBelow n fun i => f (i + 1)) := by
  rw [xorBelow, List.range_succ_eq_map, List.foldl_cons, foldl_xor_init, List.foldl_map]
  simp [xorBelow]

/-- Bit k of the carry-less product (04 R87). -/
theorem testBit_clmulNat (a b n k : Nat) :
    (clmulNat a b n).testBit k = xorBelow n fun i => decide (i ≤ k) && a.testBit (k - i) && b.testBit i := by
  induction n generalizing a b with
  | zero => simp [clmulNat]
  | succ n ih =>
    have hrest : ∀ i, (decide (i ≤ k) && (2 * a).testBit (k - i) && (b / 2).testBit i) =
        (decide (i + 1 ≤ k) && a.testBit (k - (i + 1)) && b.testBit (i + 1)) := fun i => by
      have h2 : (2 * a).testBit (k - i) = (decide (1 ≤ k - i) && a.testBit (k - (i + 1))) := by
        simpa [Nat.sub_sub] using Nat.testBit_two_pow_mul (i := 1) (a := a) (j := k - i)
      rw [h2, Nat.testBit_succ]
      grind
    rw [xorBelow_succ, clmulNat, Nat.testBit_xor, ih]
    simp only [hrest]
    congr 1
    rcases Nat.mod_two_eq_zero_or_one b with h | h <;> simp [h]

/-- The low half of the carry-less product. -/
theorem getLsbD_clmul (x y : Word) (k : Nat) (hk : k < 64) :
    (BitVec.ofNat 64 (clmulW x y)).getLsbD k = xorBelow 64 fun i => decide (i ≤ k) && x.getLsbD (k - i) && y.getLsbD i := by
  rw [BitVec.getLsbD_ofNat, decide_eq_true hk, Bool.true_and, clmulW, testBit_clmulNat]
  rfl

/-- The high half of the carry-less product. -/
theorem getLsbD_clmulh (x y : Word) (k : Nat) (hk : k < 64) :
    (BitVec.ofNat 64 (clmulW x y / 2 ^ 64)).getLsbD k =
      xorBelow 64 fun i => decide (i ≤ k + 64) && x.getLsbD (k + 64 - i) && y.getLsbD i := by
  rw [BitVec.getLsbD_ofNat, decide_eq_true hk, Bool.true_and, Nat.testBit_div_two_pow, clmulW, testBit_clmulNat]
  rfl

/-! ### Predicate logic -/

/-- The operation of 04 R90 is the entry of its table. -/
theorem logOp_eq_getElem (op : BitVec 3) (a b : Bool) :
    logOp op a b = ([a && b, a || b, a ^^ b, a && !b, a || !b, !(a && b), !(a || b), !(a ^^ b)])[op.toNat]! := by
  revert op a b
  decide

end Sys2Proof.Machine

/-! ## Words that are ready: what the shared forms of 04 R83 to R97 land, and where their branches go -/

namespace Sys2Proof.Machine

open Safety

/-- A word that is ready is ready for fewer sources too. -/
theorem ready_of_subset {h : Hd} {srcs srcs' : List Src} {s : State} (hr : ready h srcs s = true) (hsub : srcs' ⊆ srcs) :
    ready h srcs' s = true := by
  simp only [ready, Bool.and_eq_true, List.all_eq_true] at hr ⊢
  exact ⟨hr.1, fun x hx => hr.2 x (hsub hx)⟩

section Landing

variable {h : Hd} {d a b : SReg} {o : Op2} {s : State} {v : Word}

theorem alu2_ready (hr : ready h [.s a, .s b] s = true) (f : Word → Word → Word) (hv : f (s.sreg a) (s.sreg b) = v) :
    alu2 h d a b s f = .next (s.landS (s.acc + 16) d v) := hv ▸ issueOp_ready _ _ _ _ hr

theorem divOp_ready (hr : ready h [.s a, .s b] s = true) (f : Word → Word → Word) (hv : f (s.sreg a) (s.sreg b) = v) :
    divOp h d a b s f = .next (s.landS (s.acc + 64) d v) := hv ▸ issueOp_ready _ _ _ _ hr

theorem aluOp2_ready (hr : ready h (.s a :: op2Srcs o) s = true) (f : Word → Word → Word) (hv : f (s.sreg a) (s.op2 o) = v) :
    aluOp2 h d a o s f = .next (s.landS (s.acc + 16) d v) := hv ▸ issueOp_ready _ _ _ _ hr

theorem alu1_ready (hr : ready h [.s a] s = true) (f : Word → Word) (hv : f (s.sreg a) = v) :
    alu1 h d a s f = .next (s.landS (s.acc + 16) d v) := hv ▸ issueOp_ready _ _ _ _ hr

end Landing

/-! ### Branches -/

namespace State

/-- The line that LOFF and an index name, inside the program or not (02 R45, 04 R97). -/
def targetLine (s : State) (off : BitVec 45) (i : Nat) : Int := (s.cur.pc / 8 : Nat) + off.toInt + i

theorem lineTarget_inside {s : State} {off : BitVec 45} {i l : Nat} (hl : s.targetLine off i = l) (h : l < 4096) :
    s.lineTarget off i = some l := by
  rw [targetLine] at hl
  simp only [lineTarget, hl]
  rw [if_pos (by simp; omega), Int.toNat_natCast]

theorem lineTarget_outside {s : State} {off : BitVec 45} {i : Nat} (h : s.targetLine off i < 0 ∨ 4096 ≤ s.targetLine off i) :
    s.lineTarget off i = none := if_neg (by simp only [targetLine] at h; simp; omega)

theorem loffInfo_zero (off : BitVec 45) : loffInfo off 0 = BitVec.ofInt 32 off.toInt := by simp [loffInfo]

end State

section Branching

variable {h : Hd} {srcs : List Src} {off : BitVec 45} {ts : Fin 5} {s : State} {taken : State → Bool} {idx : State → Nat}
  {pre : State → State}

theorem jBranch_goes {l : Nat} (hr : ready h srcs s = true) (ht : taken s = true)
    (hl : s.targetLine off (idx s) = l) (hlt : l < 4096) :
    jBranch h srcs off ts s taken idx pre = .next ((pre s).branchTo (8 * l + ts)) := by
  unfold jBranch
  rw [issueOp_ready _ _ _ _ hr, if_pos ht, State.lineTarget_inside hl hlt, Nat.mul_comm]

theorem jBranch_traps (hr : ready h srcs s = true) (ht : taken s = true)
    (hl : s.targetLine off (idx s) < 0 ∨ 4096 ≤ s.targetLine off (idx s)) :
    jBranch h srcs off ts s taken idx pre = .next (s.raise 2 6 (State.loffInfo off (idx s))) := by
  unfold jBranch
  rw [issueOp_ready _ _ _ _ hr, if_pos ht, State.lineTarget_outside hl]

theorem jBranch_falls_through (hr : ready h srcs s = true) (ht : taken s = false) :
    jBranch h srcs off ts s taken idx pre = .next (pre s) := by
  unfold jBranch
  rw [issueOp_ready _ _ _ _ hr, if_neg (by simp [ht])]

theorem rBranch_goes {a : SReg} (hr : ready h [.s a] s = true) (hlt : (s.sreg a).toNat < 2 ^ 15) :
    rBranch h a s pre = .next ((pre s).branchTo (s.sreg a).toNat) := by
  unfold rBranch
  rw [issueOp_ready _ _ _ _ hr]
  exact congrArg _ (if_neg (Nat.not_le.mpr hlt))

theorem rBranch_traps {a : SReg} (hr : ready h [.s a] s = true) (hle : 2 ^ 15 ≤ (s.sreg a).toNat) :
    rBranch h a s pre = .next (s.raise 2 6 (BitVec.ofNat 32 (s.sreg a).toNat)) := by
  unfold rBranch
  rw [issueOp_ready _ _ _ _ hr, BitVec.ofNat_toNat]
  exact congrArg _ (if_pos hle)

/-- RESYNC.to checks its target as JMP does (04 R100). -/
theorem execResyncTo_traps {a : SReg} (hr : ready h [.s a] s = true) (hle : 2 ^ 15 ≤ (s.sreg a).toNat) :
    execResyncTo h a s = .next (s.raise 2 6 (BitVec.ofNat 32 (s.sreg a).toNat)) := by
  unfold execResyncTo
  rw [issueOp_ready _ _ _ _ hr, BitVec.ofNat_toNat]
  exact congrArg _ (if_pos hle)

end Branching

/-! ### LOOP (04 R96) -/

section Loop

variable {h : Hd} {a : SReg} {off : BitVec 45} {ts : Fin 5} {s : State}

theorem sreg_ne_zero_of_one_lt (hn : 1 < (s.sreg a).toNat) : s.sreg a ≠ 0 := fun e => by simp [e] at hn

/-- A count above 1 stays non-zero when it is counted down. -/
theorem loop_taken (hn : 1 < (s.sreg a).toNat) : (decide (s.sreg a ≠ 0) && decide (s.sreg a - 1 ≠ 0)) = true := by
  have h1 : s.sreg a - 1 ≠ 0 := fun e => by bv_omega
  rw [decide_eq_true (sreg_ne_zero_of_one_lt hn), decide_eq_true h1, Bool.and_true]

theorem execLoop_goes {l : Nat} (hr : ready h [.s a] s = true) (hn : 1 < (s.sreg a).toNat)
    (hl : s.targetLine off 0 = l) (hlt : l < 4096) :
    execLoop h a off ts s = .next ((s.landS (s.acc + 16) a (s.sreg a - 1)).branchTo (8 * l + ts)) := by
  unfold execLoop
  rw [jBranch_goes (idx := fun _ => 0) hr (loop_taken hn) hl hlt, if_pos (sreg_ne_zero_of_one_lt hn)]

theorem execLoop_traps (hr : ready h [.s a] s = true) (hn : 1 < (s.sreg a).toNat)
    (hl : s.targetLine off 0 < 0 ∨ 4096 ≤ s.targetLine off 0) :
    execLoop h a off ts s = .next (s.raise 2 6 (State.loffInfo off 0)) :=
  jBranch_traps (idx := fun _ => 0) hr (loop_taken hn) hl

theorem execLoop_at_one (hr : ready h [.s a] s = true) (hn : s.sreg a = 1) :
    execLoop h a off ts s = .next (s.landS (s.acc + 16) a (s.sreg a - 1)) := by
  unfold execLoop
  rw [jBranch_falls_through hr (by simp [hn]), if_pos (by simp [hn])]

theorem execLoop_at_zero (hr : ready h [.s a] s = true) (hn : s.sreg a = 0) : execLoop h a off ts s = .next s := by
  unfold execLoop
  rw [jBranch_falls_through hr (by simp [hn]), if_neg (by simp [hn])]

end Loop

end Sys2Proof.Machine

/-! ## The integer, selection, floating-point and branch statements settled (04 R84 to R97) -/

namespace Sys2Proof.Proofs

open Sys2Proof.Machine Safety

/-- Settles O1: each operation on words is the mathematical one, wrapped. -/
theorem integerArithmeticLands : Obligations.IntegerArithmeticLands := by
  intro s h d a b hr x y lands
  exact ⟨issueOp_ready _ _ _ _ (ready_of_subset hr (List.nil_subset _)), alu2_ready hr (· + ·) (BitVec.add_def ..),
    alu2_ready hr (· - ·) (sub_eq_ofInt ..), alu2_ready hr (· * ·) (mul_eq_ofNat ..), alu2_ready hr mulHS rfl, alu2_ready hr mulHU rfl,
    divOp_ready hr quotS (quotS_eq ..), divOp_ready hr quotU (quotU_eq ..), divOp_ready hr remS (remS_eq ..),
    divOp_ready hr remU (remU_eq ..), fun sh imm => alu2_ready hr (fun u v => u + (v <<< sh.toNat) + sx48 imm) (lea_eq_ofInt ..)⟩

/-- Settles O2: counts and the carry-less product bit by bit, the other operations as the mathematical ones, wrapped. -/
theorem bitAndSecondOperandFormsLand : Obligations.BitAndSecondOperandFormsLand := by
  refine ⟨?one, ?two, ?op2⟩
  case one =>
    intro s h d a hr x lands
    have lands1 (f : Word → Word) {v : Word} (hv : f x = v) : alu1 h d a s f = lands v := alu1_ready hr f hv
    exact ⟨fun imm => ⟨lands1 (· + sx48 imm) (addi_eq_ofInt ..), issueOp_ready _ _ _ _ (ready_of_subset hr (List.nil_subset _))⟩,
      fun imm => lands1 (fun v => imm ++ v.setWidth 48) (movhi_eq_ofNat ..),
      lands1 (fun v => if v.msb then -v else v) (abs_eq_ofNat _),
      ⟨_, lands1 (fun v => BitVec.ofNat 64 (clzNat 64 v.toNat)) rfl, clzNat_spec _⟩,
      ⟨_, lands1 (fun v => BitVec.ofNat 64 (ctzNat v.toNat 64)) rfl, ctzNat_spec _ _⟩,
      lands1 (fun v => BitVec.ofNat 64 (popNat v.toNat 64)) (congrArg _ (popNat_eq_countP ..)),
      ⟨_, lands1 (fun v => BitVec.ofNat 64 (brevNat v.toNat 64)) rfl, fun i hi => getLsbD_brev x i hi⟩,
      fun p l => ⟨lands1 (extLow true (l.toNat + 1)) (extLow_signed ..), lands1 (extLow false (l.toNat + 1)) (extLow_unsigned ..),
        lands1 (fun v => extLow false (l.toNat + 1) (v >>> p.toNat)) (extb_unsigned ..),
        lands1 (fun v => extLow true (l.toNat + 1) (v >>> p.toNat)) (extb_signed ..)⟩⟩
  case two =>
    intro s h d a b x y lands bit
    exact ⟨fun hr p l => ⟨_, issueOp_ready _ _ _ _ hr, fun i hi => getLsbD_insert_field _ _ _ _ _ hi⟩,
      fun hr => ⟨⟨_, alu2_ready hr (fun u v => BitVec.ofNat 64 (clmulW u v)) rfl, getLsbD_clmul x y⟩,
        _, alu2_ready hr (fun u v => BitVec.ofNat 64 (clmulW u v / 2 ^ 64)) rfl, getLsbD_clmulh x y⟩⟩
  case op2 =>
    intro s h d a o hr x y n lands
    have hy : s.op2 o = y := by cases o <;> rfl
    have lands2 (f : Word → Word → Word) {v : Word} (hv : f x y = v) : aluOp2 h d a o s f = lands v := aluOp2_ready hr f (hy.symm ▸ hv)
    exact ⟨lands2 (· &&& ·) rfl, lands2 (· ||| ·) rfl, lands2 (· ^^^ ·) rfl, lands2 (fun u v => u &&& ~~~v) rfl,
      lands2 (fun u v => u ||| ~~~v) rfl, lands2 (fun u v => if u.slt v then u else v) (ite_slt ..),
      lands2 (fun u v => if u.slt v then v else u) (ite_slt ..),
      lands2 (fun u v => if u < v then u else v) rfl, lands2 (fun u v => if u < v then v else u) rfl,
      lands2 (fun u v => u <<< shAmt v) (shiftLeft_eq_ofNat ..), lands2 (fun u v => u >>> shAmt v) (shiftRight_eq_ofNat ..),
      lands2 (fun u v => u.sshiftRight (shAmt v)) (sshiftRight_eq_ofInt ..),
      lands2 (fun u v => u.rotateLeft (shAmt v)) (rotateLeft_eq_ofNat _ _ (Nat.mod_lt _ (by decide)))⟩

/-- Settles O3: the model's conditions and predicate operations are the statement's, one by one. -/
theorem comparesAndSelectionLand : Obligations.ComparesAndSelectionLand := by
  intro s h cond pair
  -- slt, sle, < and ≤ of words are by definition those of toInt and toNat, condition by condition
  have hcond (f : BitVec 3) (x y : Word) : cmpCond f x y = cond f x y := rfl
  refine ⟨fun f d c a b hr => ?_, fun f d c a x hr => ?_, fun f d a b hr => ?_, fun d a b c hr => issueOp_ready _ _ _ _ hr⟩
  · rw [← hcond]
    exact issueOp_ready _ _ _ _ hr
  · rw [← hcond]
    exact issueOp_ready _ _ _ _ hr
  · rw [← logOp_eq_getElem]
    exact issueOp_ready _ _ _ _ hr

/-- Settles O4: a word that is ready for A, B, C and FST is ready for the sources it has, and lands its operation's value. -/
theorem scalarFloatingPointLands : Obligations.ScalarFloatingPointLands := by
  intro s h rm d a b c hr m x y z lands
  have hab : ready h ([.s a, .s b] ++ rndSrcs rm) s = true := ready_of_subset hr (show List.Sublist _ _ by simp).subset
  have ha : ready h (.s a :: rndSrcs rm) s = true :=
    ready_of_subset hr (List.cons_subset_cons _ (List.subset_append_right [Src.s b, Src.s c] _))
  have hab' : ready h [.s a, .s b] s = true := ready_of_subset hab (List.subset_append_left ..)
  exact ⟨issueOp_ready _ _ _ _ hab, issueOp_ready _ _ _ _ hab, issueOp_ready _ _ _ _ hab, issueOp_ready _ _ _ _ hab,
    issueOp_ready _ _ _ _ ha, issueOp_ready _ _ _ _ hr, issueOp_ready _ _ _ _ hr, issueOp_ready _ _ _ _ hr, issueOp_ready _ _ _ _ hr,
    issueOp_ready _ _ _ _ hab', issueOp_ready _ _ _ _ hab', fun k => issueOp_ready _ _ _ _ ha, fun f p q => issueOp_ready _ _ _ _ hab'⟩

/-- Settles O5: a branch goes where its line or PC lies in the program and traps where it does not; LOOP by its count. -/
theorem branchesReachTheirTargetOrTrap : Obligations.BranchesReachTheirTargetOrTrap := by
  refine ⟨fun s h d a => ?goes, fun s h d a off ts hr => ?traps⟩
  case goes =>
    intro goes link
    refine ⟨State.branchTo_pc s, fun off ts l hr => ?_, fun hr hlt => ⟨rBranch_goes hr hlt, rBranch_goes hr hlt, rBranch_goes hr hlt⟩⟩
    have h0 : ready h [] s = true := ready_of_subset hr (List.nil_subset _)
    exact ⟨fun hl hlt => ⟨jBranch_goes h0 rfl hl hlt, jBranch_goes h0 rfl hl hlt, fun hn => execLoop_goes hr hn hl hlt⟩,
      execLoop_at_one hr, execLoop_at_zero hr, jBranch_goes (idx := fun s => (s.sreg a).toNat) hr rfl⟩
  case traps =>
    intro line
    have h0 : ready h [] s = true := ready_of_subset hr (List.nil_subset _)
    refine ⟨fun hl => ?_, jBranch_traps (idx := fun s => (s.sreg a).toNat) hr rfl,
      fun hle => ⟨rBranch_traps hr hle, rBranch_traps hr hle, rBranch_traps hr hle, execResyncTo_traps hr hle⟩⟩
    have hline : s.targetLine off 0 = line := Int.add_zero _
    have hl0 : s.targetLine off 0 < 0 ∨ 4096 ≤ s.targetLine off 0 := hline ▸ hl
    rw [← State.loffInfo_zero]
    exact ⟨jBranch_traps h0 rfl hl0, jBranch_traps h0 rfl hl0, fun hn => execLoop_traps hr hn hl0⟩

end Sys2Proof.Proofs
